-- ==== Sys2Proof/Word.lean ====
section
/-! DEFINITION. The word types of the model. -/

namespace Sys2Proof

/-- One byte. -/
abbrev Byte := BitVec 8
/-- A 32-bit word: an FP32 or INT32 lane, a 32-bit register. -/
abbrev W32 := BitVec 32
/-- A 64-bit word: a 64-bit register. -/
abbrev W64 := BitVec 64
/-- A byte string, lowest address first. -/
abbrev Bytes := List (BitVec 8)

end Sys2Proof
end

