-- ==== Sys2Proof/Syntax.lean ====
section
/-! DEFINITION. The commands of the block: one constructor for each row of the opcode table, with the
row's operands.
Assumption log: log 28 (DESIGN CHOICE), log 29 (DESIGN CHOICE). -/

namespace Sys2Proof

/-- An instruction at the head of a queue: the physical tile, the queue and the 128-bit instruction
word (05_instruction_set R130, Table 5.2). -/
structure Issue where
  tile : Nat
  queue : Nat
  word : BitVec 128
deriving DecidableEq, Repr

/-- The contents of a frame for which the spec gives no byte layout: an AGREE (09 R291), the report of
a receiving stream's open flow, freed ring rows and rows taken into the ring (09 R288), the end-to-end credit that a
reduction node grants a child for a chunk or a fragment (09 R280), a part of one of the part's own reductions
or multicasts on the control flows (09 R292; 06 R174; 07 R210; 08 R235, R246), a mirrored entry or copy
(10 R313, 13 R410), and the requests and responses for peer HBM (11 R345): its tag, whether it writes, the first address of the access of which it is a part, the
access's length, the part's offset and length, and the stage queue it serves, with a mark on a send's last
part. A written or returned part is the payload; `credit` returns a stage queue's credit (10 R321).
DESIGN CHOICE, log 54. -/
inductive Msg where
  | agree (mstone : Nat) (complete : Bool)
  | ring (flow freed taken : Nat)
  | grant (key : List Nat)
  | control (kind : Nat) (key : List Nat) (low : Nat) (data : Bytes)
  | mirror (kind : Nat) (key : List Nat) (data : Bytes)
  | request (tag : Nat) (write : Bool) (addr total off len : Nat) (queue : Option (Nat × Bool))
  | response (tag : Nat) (ok : Bool)
  | credit (queue : Nat)
deriving DecidableEq, Repr

/-- A Causeway frame (09_causeway_collectives Table 9.2): its header fields, and its payload as bytes or
as a message without a byte layout. DESIGN CHOICE, log 54. -/
structure Frame where
  ver : Nat := 3
  ty : Nat := 3
  vc : Nat := 0
  last : Bool := false
  fragHdr : Bool := false
  dst : Nat := 0
  src : Nat := 0
  lseq : Nat := 0
  lack : Nat := 0
  /-- The EtherType and the MAC addresses (09 R262). -/
  etype : Nat := 0x88B5
  dmac : Nat := 0
  smac : Nat := 0
  /-- Credits returned, VC0 in bits 7:0. -/
  credit : Nat := 0
  job : Nat := 0
  epoch : Nat := 0
  group : Nat := 0
  cseq : Nat := 0
  offset : Nat := 0
  e2e : Nat := 0
  payload : Bytes := []
  msg : Option Msg := none
  /-- The sender's flow index, or the fragment index, by which R275 chooses a port. -/
  flow : Nat := 0
  /-- The ranks in the group from which and to which the frame goes, where one device holds several (13
  R408); the header does not carry them. -/
  rankFrom : Option Nat := none
  rankTo : Option Nat := none
deriving DecidableEq, Repr

/-- What physical upsets do to the matrix instructions and moves that run at a command (03 R90 to R93; 13 R393).
`results`: results that a disturbed array delivers in place of the right ones, of the instruction's product (part 0) or
of a root product of A or B (parts 1 and 2): row, column, value. `mesh`: tiles that receive a bad mesh word, and whether
it is uncorrectable. `taps`: tap slots one of whose words is bad, and whether it is uncorrectable. DESIGN CHOICE,
log 28. -/
structure Upset where
  results : List (Nat × Nat × Nat × W32) := []
  mesh : List (Nat × Bool) := []
  taps : List (Nat × Bool) := []
deriving DecidableEq, Repr

/-- A move as it runs: where it issues, and what upsets do to the words that it moves (13 R393). -/
structure MoveIssue where
  i : Issue
  upset : Upset := {}
deriving DecidableEq, Repr

/-- A step of a refresh: its engine, and whether the step meets an uncorrectable word of the panel store (07 R222).
DESIGN CHOICE, log 28. -/
structure EngineStep where
  eng : Nat
  bad : Bool := false
deriving DecidableEq, Repr

/-- The operations of RoCEv2 packets that the part exchanges with the host: writes and reads, read
responses, acknowledgements, the NAK of a remote access error, and congestion notification (14 R443,
R445). -/
inductive RdmaOp where
  | write | read | response | ack | nakAccess | cnp
deriving DecidableEq, Repr

/-- A RoCEv2 packet: its operation, destination queue pair, packet sequence number, rkey, the address of its
payload's first byte, the length of what it asks for or carries, its payload, and its congestion mark. -/
structure Rdma where
  op : RdmaOp
  qpn : Nat
  psn : Nat
  rkey : Nat := 0
  addr : Nat := 0
  len : Nat := 0
  data : Bytes := []
  ecn : Bool := false
deriving DecidableEq, Repr

/-- An NCP request as it arrives (14 Table 14.3): its header without TYPE, which the command gives, its payload,
its authentication tag, and the address and port from which it comes. -/
structure Ncp where
  ver : Nat := 1
  flags : Nat := 0
  slot : Nat
  session : Nat := 0
  tag : Nat := 0
  status : Nat := 0
  ctx : Nat := 0
  payload : Bytes := []
  mac : Bytes := []
  src : Nat := 0
deriving DecidableEq, Repr

/-- A function with an enable (16_power_clocks R476). -/
inductive Func where
  | tile (t : Nat)
  | engine (e : Nat)
  | port (n : Nat)
  | host
  | context (c : Nat)
deriving DecidableEq, Repr

/-- A clock source that locks (16_power_clocks R468, R469). -/
inductive Pll where
  | field (f : Nat)
  | group (g : Nat)
  | tile (t : Nat)
  | port (n : Nat)
  | host
deriving DecidableEq, Repr

/-- A fuse field that is programmed at manufacture, and the bits to set in it (15_boot_security Table 15.6). -/
inductive FuseWrite where
  | lifecycle (v : Nat)
  | secret (b : Bytes)
  | helper (b : Bytes)
  | idkHash (b : Bytes)
  | fwKey (k : Nat) (b : Bytes)
  | mac (v : Nat)
deriving DecidableEq, Repr

/-- The commands, one constructor for each row of the table of operations. -/
inductive Instr where
  /-- MMA (R143). -/
  | mma (i : Issue) (upset : Upset)
  /-- MMAP (R85). -/
  | mmap (i : Issue) (upset : Upset)
  /-- LEVEL_WINDOW_END (R94). -/
  | levelWindowEnd (t : Nat) (ran : Bool) (idle : Nat) (dummies : Nat)
  /-- TAP_SAMPLE (R166). -/
  | tapSample (t : Nat)
  /-- TCFG (R145). -/
  | tcfg (i : Issue)
  /-- TCLR (R145). -/
  | tclr (i : Issue)
  /-- VADD (R146). -/
  | vadd (i : Issue)
  /-- VSUB (R146). -/
  | vsub (i : Issue)
  /-- VMUL (R146). -/
  | vmul (i : Issue)
  /-- VFMA (R146). -/
  | vfma (i : Issue)
  /-- VMIN (R40). -/
  | vmin (i : Issue)
  /-- VMAX (R40). -/
  | vmax (i : Issue)
  /-- VCMP (R40). -/
  | vcmp (i : Issue)
  /-- VSEL (R146). -/
  | vsel (i : Issue)
  /-- VCVT (R557). -/
  | vcvt (i : Issue)
  /-- VIADD (R146). -/
  | viadd (i : Issue)
  /-- VLOGIC (R146). -/
  | vlogic (i : Issue)
  /-- VEXP2 (R116). -/
  | vexp2 (i : Issue)
  /-- VLOG2 (R116). -/
  | vlog2 (i : Issue)
  /-- VRCP (R116). -/
  | vrcp (i : Issue)
  /-- VRSQ (R116). -/
  | vrsq (i : Issue)
  /-- VTANH (R116). -/
  | vtanh (i : Issue)
  /-- VRED (R114). -/
  | vred (i : Issue)
  /-- VLD (R113). -/
  | vld (i : Issue)
  /-- VST (R113). -/
  | vst (i : Issue)
  /-- VGATH (R113). -/
  | vgath (i : Issue)
  /-- VSCAT (R113). -/
  | vscat (i : Issue)
  /-- VSMS (R147). -/
  | vsms (i : Issue)
  /-- VSMO (R147). -/
  | vsmo (i : Issue)
  /-- MOV (R149). -/
  | mov (m : MoveIssue)
  /-- MROOT (R197). -/
  | mroot (m : MoveIssue)
  /-- QUEUE_CREDIT_RETURN (R321). -/
  | queueCreditReturn (k : Nat)
  /-- ALLREDUCE (R290). -/
  | allreduce (i : Issue)
  /-- REDUCE_SCATTER (R284). -/
  | reduceScatter (i : Issue)
  /-- ALLGATHER (R284). -/
  | allgather (i : Issue)
  /-- ALLTOALLV (R285). -/
  | alltoallv (i : Issue)
  /-- EXPERT (R286). -/
  | expert (i : Issue)
  /-- PERMUTE (R287). -/
  | permute (i : Issue)
  /-- REDUCE (R290). -/
  | reduce (i : Issue)
  /-- STREAM_RECEIVE (R288). -/
  | streamReceive (i : Issue)
  /-- STREAM_SEND (R288). -/
  | streamSend (i : Issue)
  /-- FRAG_EMPTY (R226). -/
  | fragEmpty (i : Issue)
  /-- MANAGEMENT_ASSISTED_PATH (R294). -/
  | managementAssistedPath
  /-- REGISTER (R194). -/
  | register (i : Issue)
  /-- REFRESH (R195). -/
  | refresh (i : Issue)
  /-- RELEASE (R195). -/
  | release (i : Issue)
  /-- SADD (R150). -/
  | sadd (i : Issue)
  /-- SWAIT (R150). -/
  | swait (i : Issue)
  /-- SREAD (R150). -/
  | sread (i : Issue)
  /-- MARRIVE (R138). -/
  | marrive (i : Issue)
  /-- MWAIT (R140). -/
  | mwait (i : Issue)
  /-- FENCE (R150). -/
  | fence (i : Issue)
  /-- NOP (R150). -/
  | nop (i : Issue)
  /-- IMOV (R150). -/
  | imov (i : Issue)
  /-- IADD (R150). -/
  | iadd (i : Issue)
  /-- LOOP (R151). -/
  | loop (i : Issue)
  /-- BR (R150). -/
  | br (i : Issue)
  /-- HALT (R150). -/
  | halt (i : Issue)
  /-- FLAGR (R151). -/
  | flagr (i : Issue)
  /-- YIELD (R375). -/
  | yield (i : Issue)
  /-- DLOAD (R150). -/
  | dload (i : Issue)
  /-- LIVE (R110). -/
  | live (i : Issue)
  /-- INSTRUCTION_COMPLETE (R134). -/
  | instructionComplete (t : Nat) (q : Nat) (seq : Nat)
  /-- SIGNAL_INCREMENT (R136). -/
  | signalIncrement (k : Nat)
  /-- TILE_ARRIVE (R139). -/
  | tileArrive (c : Nat) (v : Nat)
  /-- TAP_SUBTILE_RECEIVE (R174). -/
  | tapSubtileReceive (eng : Nat) (c : Nat)
  /-- SCRUB_INTERVAL (R108). -/
  | scrubInterval (t : Nat) (upsets : (List (Nat × Bool)))
  /-- ECC_WRITEBACK (R107). -/
  | eccWriteback (tile : (Option Nat))
  /-- REFRESH_START (R199). -/
  | refreshStart (eng : Nat)
  /-- NEWTON_ITERATION (R204). -/
  | newtonIteration (x : EngineStep)
  /-- REFRESH_END (R205). -/
  | refreshEnd (x : EngineStep)
  /-- WORK_ITEM (R213). -/
  | workItem (eng : Nat) (t : Nat)
  /-- DEADLINE_ARRIVE (R207). -/
  | deadlineArrive (c : Nat)
  /-- ROOT_DISTRIBUTE (R210). -/
  | rootDistribute (eng : Nat)
  /-- ROOT_ACCEPT (R198). -/
  | rootAccept (c : Nat)
  /-- FRAGMENT_ARRIVE (R230). -/
  | fragmentArrive (t : Nat)
  /-- UPDATE_APPLY (R233). -/
  | updateApply (t : Nat) (k : Nat)
  /-- DELTA_RECORD (R248). -/
  | deltaRecord (t : Nat) (k : Nat)
  /-- FORCED_FETCH (R249). -/
  | forcedFetch (c : Nat) (tid : Nat) (p : Nat)
  /-- NORM_SUM (R235). -/
  | normSum (c : Nat) (tid : Nat)
  /-- REPLICA_DIGEST (R246). -/
  | replicaDigest (c : Nat)
  /-- RESYNC (R247). -/
  | resync (c : Nat) (copies : (List (Nat × Bytes × Bytes)))
  /-- DEVICE_ARRIVE (R242). -/
  | deviceArrive (c : Nat)
  /-- MILESTONE_COMPLETE (R243). DESIGN CHOICE, log 72. -/
  | milestoneComplete (c : Nat) (scales : List (Nat × List (Nat × Nat)))
  /-- SWITCHBACK_WRITTEN (R330). -/
  | switchbackWritten (c : Nat)
  /-- HELLO_SEND (R269). -/
  | helloSend (p : Nat)
  /-- HELLO_RX (R270). -/
  | helloRx (p : Nat) (f : Frame)
  /-- MISSED_BEAT (R271). -/
  | missedBeat (p : Nat)
  /-- ACK_RX (R264). -/
  | ackRx (p : Nat) (f : Frame)
  /-- ACK_SEND (R264). -/
  | ackSend (p : Nat)
  /-- NAK_RX (R266). -/
  | nakRx (p : Nat) (f : Frame)
  /-- RETRY_TIMEOUT (R266). -/
  | retryTimeout (p : Nat)
  /-- PORT_RETRAIN (R267). -/
  | portRetrain (p : Nat)
  /-- DATA_RX (R279). -/
  | dataRx (p : Nat) (f : Frame)
  /-- FRAG_RX (R281). -/
  | fragRx (p : Nat) (f : Frame)
  /-- REQ_RX (R345). -/
  | reqRx (p : Nat) (f : Frame)
  /-- RESP_RX (R345). -/
  | respRx (p : Nat) (f : Frame)
  /-- AGREE_RX (R291). -/
  | agreeRx (p : Nat) (f : Frame)
  /-- MGMT_RX (R294). -/
  | mgmtRx (p : Nat) (f : Frame)
  /-- EPOCH_RX (R401). -/
  | epochRx (p : Nat) (f : Frame) (scales : List (Nat × List (Nat × Nat)))
  /-- FAB_SWITCH_AT_WRITE (R327). -/
  | fabSwitchAtWrite (c : Nat) (m : Nat)
  /-- FAB_ID_WRITE (R295). -/
  | fabIdWrite (v : W32)
  /-- REST (R349). -/
  | rest (c : Nat)
  /-- FETCH (R350). -/
  | fetch (c : Nat)
  /-- EVICT_DONE (R349). -/
  | evictDone (c : Nat) (tid : Nat) (p : Nat)
  /-- WAYSIDE_DEMAND (R351). -/
  | waysideDemand (c : Nat) (tid : Nat) (p : Nat)
  /-- FETCH_START (R350). -/
  | fetchStart (c : Nat) (tid : Nat) (p : Nat)
  /-- HBM_SCRUB_INTERVAL (R342). -/
  | hbmScrubInterval (k : Nat) (upsets : (List (Nat × Bool))) (odecc : Nat)
  /-- SELF_REFRESH_EXIT (R343). -/
  | selfRefreshExit (k : Nat)
  /-- STACK_LOST (R344). -/
  | stackLost (k : Nat) (cause : Nat)
  /-- HBM_LAYOUT_WRITE (R360). -/
  | hbmLayoutWrite (v : W64)
  /-- HBM_BUNDLE_AT_WRITE (R354). -/
  | hbmBundleAtWrite (c : Nat) (m : Nat)
  /-- BUNDLE_VERIFY (R353). -/
  | bundleVerify (c : Nat)
  /-- CHUNK_HASHED (R355). -/
  | chunkHashed (c : Nat)
  /-- RETRY (R357). -/
  | retry (c : Nat)
  /-- ABORT (R357). -/
  | abort (c : Nat)
  /-- CTX_CREATE (R370). -/
  | ctxCreate (m : Ncp)
  /-- CTX_DESTROY (R374). -/
  | ctxDestroy (m : Ncp)
  /-- CTX_SWITCH (R376). -/
  | ctxSwitch (m : Ncp)
  /-- SWITCH_EXECUTE (R377). -/
  | switchExecute (c : Nat)
  /-- PREEMPT_TIMEOUT (R376). -/
  | preemptTimeout (c : Nat)
  /-- LAYBY_LEND (R379). -/
  | laybyLend (t : Nat)
  /-- LAYBY_RECLAIM (R381). -/
  | laybyReclaim (t : Nat)
  /-- EVALUATION_SWITCH_IN (R383). -/
  | evaluationSwitchIn (e : Nat)
  /-- EVALUATION_SWITCH_OUT (R383). -/
  | evaluationSwitchOut (e : Nat)
  /-- WATCHDOG_EXPIRE (R394). -/
  | watchdogExpire (n : Nat)
  /-- CONFIG_NO_ANSWER (R395). -/
  | configNoAnswer (tile : (Option Nat))
  /-- TILE_FENCE (R398). -/
  | tileFence (t : Nat)
  /-- RECOVERY_ENTER (R402). -/
  | recoveryEnter (c : Nat)
  /-- ALIVE_WINDOW_EXPIRE (R403). -/
  | aliveWindowExpire (c : Nat)
  /-- ATTEMPT_TIMEOUT (R406). -/
  | attemptTimeout (c : Nat)
  /-- MIRROR_REBUILD (R410). -/
  | mirrorRebuild (c : Nat)
  /-- RESUME (R412). -/
  | resume (c : Nat)
  /-- RESTART (R414). -/
  | restart (c : Nat)
  /-- REPLAY (R425). -/
  | replay (c : Nat)
  /-- DIAGNOSTIC_REPLAY (R417). -/
  | diagnosticReplay (c : Nat)
  /-- AON_FENCE_WRITE (R398). -/
  | aonFenceWrite (i : Nat) (v : W64)
  /-- PET (R422). -/
  | pet
  /-- WATCHDOG_ENABLE (R422). -/
  | watchdogEnable
  /-- ATTACH (R437). -/
  | attach (m : Ncp)
  /-- AUTH (R437). -/
  | auth (m : Ncp)
  /-- DETACH (R438). -/
  | detach (m : Ncp)
  /-- KEEPALIVE (R438). -/
  | keepalive (m : Ncp)
  /-- ATTEST (R459). -/
  | attest (m : Ncp)
  /-- CFG_READ (R439). -/
  | cfgRead (m : Ncp)
  /-- CFG_WRITE (R439). -/
  | cfgWrite (m : Ncp)
  /-- CTX_CLAIM (R438). -/
  | ctxClaim (m : Ncp)
  /-- START (R440). -/
  | start (m : Ncp)
  /-- DOORBELL (R441). -/
  | doorbell (m : Ncp)
  /-- WATCH (R441). -/
  | watch (m : Ncp)
  /-- QP_OPEN (R443). -/
  | qpOpen (m : Ncp)
  /-- QP_CLOSE (R443). -/
  | qpClose (m : Ncp)
  /-- REGION_ADD (R443). -/
  | regionAdd (m : Ncp)
  /-- REGION_DEL (R444). -/
  | regionDel (m : Ncp)
  /-- HBM_MAP (R445). -/
  | hbmMap (m : Ncp)
  /-- EVENT_ACK (R442). -/
  | eventAck (m : Ncp)
  /-- EVENT_RESEND (R442). -/
  | eventResend (a : Nat)
  /-- AGENT_TIMEOUT (R438). -/
  | agentTimeout (a : Nat)
  /-- NCP_AUTH_DISCARD (R434). -/
  | ncpAuthDiscard (ty : Nat) (m : Ncp)
  /-- RDMA_PACKET_RX (R445). -/
  | rdmaPacketRx (p : Rdma)
  /-- LLDP_SEND (R432). -/
  | lldpSend
  /-- HOST_IP_LO_WRITE (R431). -/
  | hostIpLoWrite (v : W64)
  /-- HOST_LINK_UP (R429). -/
  | hostLinkUp (speed : Nat)
  /-- FW_OFFER (R455). -/
  | fwOffer (m : Ncp)
  /-- FW_DATA (R454). -/
  | fwData (m : Ncp)
  /-- FW_END (R454). -/
  | fwEnd (m : Ncp)
  /-- FW_ABORT (R454). -/
  | fwAbort (m : Ncp)
  /-- BOOT_START (R451). -/
  | bootStart (hostMode : Nat)
  /-- INIT_DONE (R452). -/
  | initDone
  /-- PROG_AGENT_HASH (R465). -/
  | progAgentHash (k : Nat)
  /-- PROG_ADMIN (R465). -/
  | progAdmin (k : Nat)
  /-- PROG_REVOKED (R465). -/
  | progRevoked (k : Nat)
  /-- PROG_FW_REVOKE (R465). -/
  | progFwRevoke (k : Nat)
  /-- PROG_SVN (R465). -/
  | progSvn
  /-- FUSE_PROG_DONE (R465). -/
  | fuseProgDone
  /-- THROTTLE_N_ACCEPT (R479). -/
  | throttleNAccept (len : Nat)
  /-- RESET_N_ASSERT (R480). -/
  | resetNAssert
  /-- POWER_ON (R480). -/
  | powerOn (addr : Nat)
  /-- UNDERVOLTAGE (R546). -/
  | undervoltage (rail : Nat) (below : Bool)
  /-- DVFS_CHANGE (R471). -/
  | dvfsChange
  /-- VR_SETTLE_EXPIRE (R471). -/
  | vrSettleExpire
  /-- PLL_LOCK (R469). -/
  | pllLock (p : Pll)
  /-- THERMAL_SAMPLE (R482). -/
  | thermalSample (raw : (List Int)) (stackTemps : (List Nat)) (w10 : Nat) (w1 : Nat)
  /-- THERMAL_TRIP (R484). -/
  | thermalTrip
  /-- TILE_CLOCK_STOP (R473). -/
  | tileClockStop (t : Nat)
  /-- TILE_RETAIN (R473). -/
  | tileRetain (t : Nat)
  /-- TILE_WAKE (R474). -/
  | tileWake (t : Nat)
  /-- DEEP_SLEEP_ENTER (R475). -/
  | deepSleepEnter
  /-- DEEP_SLEEP_EXIT (R475). -/
  | deepSleepExit
  /-- ENABLE_REQUEST (R476). -/
  | enableRequest (f : Func)
  /-- DISABLE_REQUEST (R476). -/
  | disableRequest (f : Func)
  /-- START_ENDS (R477). -/
  | startEnds (f : Func)
  /-- STOP_ENDS (R477). -/
  | stopEnds (f : Func)
  /-- MAX_TEMP (R485). -/
  | maxTemp
  /-- TEMPS (R485). -/
  | temps
  /-- POWER (R485). -/
  | power
  /-- STATUS (R485). -/
  | status
  /-- BOARD_LIMIT_READ (R485). -/
  | boardLimitRead
  /-- BOARD_LIMIT_WRITE (R483). -/
  | boardLimitWrite (v : Nat) (pec : Byte)
  /-- ECHO_WRITE (R518). -/
  | echoWrite (data : Bytes) (pec : Byte)
  /-- ECHO_READ (R518). -/
  | echoRead
  /-- STEP (R485). -/
  | step
  /-- SNAP_NOW (R502). -/
  | snapNow
  /-- TRACE_ENABLE (R504). -/
  | traceEnable (v : W64)
  /-- PORT_LOOPBACK_RUN (R514). -/
  | portLoopbackRun (n : Nat) (v : W64)
  /-- PORT_LOOPBACK_END (R514). -/
  | portLoopbackEnd (n : Nat) (errors : Nat)
  /-- HBM_LOOPBACK_RUN (R516). -/
  | hbmLoopbackRun (k : Nat) (v : W64)
  /-- MESH_LOOPBACK_RUN (R517). -/
  | meshLoopbackRun (v : W64)
  /-- HBM_READ_EYE_STEP (R519). -/
  | hbmReadEyeStep (k : Nat) (pc : Nat) (byte : Nat) (up : Bool) (margin : Nat) (at_ : Nat)
  /-- SERDES_ADAPT_STEP (R519). -/
  | serdesAdaptStep (n : Nat) (lane : Nat) (setting : Nat) (eye : Nat) (conv : Bool)
  /-- DROOP_THRESHOLD_STEP (R519). -/
  | droopThresholdStep (g : Nat) (code : Nat) (rebase : Bool)
  /-- DROOP_EVENT (R521). -/
  | droopEvent (g : Nat)
  /-- THERMAL_OFFSET_STEP (R519). -/
  | thermalOffsetStep (k : Nat) (diff : Int)
  /-- CAL_FREEZE_WRITE (R523). -/
  | calFreezeWrite (v : W32)
  /-- BYPASS (R524). -/
  | bypass (code : Nat)
  /-- IDCODE (R524). -/
  | idcode
  /-- SAMPLE_PRELOAD (R524). -/
  | samplePreload
  /-- EXTEST (R524). -/
  | extest
  /-- CLAMP (R524). -/
  | clamp
  /-- HIGHZ (R524). -/
  | highz
  /-- EXTEST_PULSE (R524). -/
  | extestPulse
  /-- EXTEST_TRAIN (R524). -/
  | extestTrain
  /-- JTAG_CFG_READ (R524). -/
  | jtagCfgRead (addr : Nat)
  /-- MBIST (R524). -/
  | mbist
  /-- SCAN (R524). -/
  | scan
  /-- FUSE_PROG (R524). -/
  | fuseProg (w : FuseWrite)
  /-- TRST_N (R524). -/
  | trstN
  /-- TILE_QRESUME_WRITE (R158). -/
  | tileQresumeWrite (t : Nat) (v : W32)
  /-- TILE_QSTAT_PC_WRITE (R154). -/
  | tileQstatPcWrite (t : Nat) (q : Nat) (v : W64)
  /-- TILE_STORE_LIVE_WRITE (R110). -/
  | tileStoreLiveWrite (t : Nat) (i : Nat) (v : W64)
  /-- TILE_SHAPE_CTL_WRITE (R97). -/
  | tileShapeCtlWrite (t : Nat) (v : W32)
  /-- TAP_CTL_WRITE (R183). -/
  | tapCtlWrite (t : Nat) (v : W32)
  /-- REGISTER_WRITE (R13). -/
  | registerWrite (addr : Nat) (wide : Bool) (v : W64)
  /-- BAD_FCS_FRAME (R266). -/
  | badFcsFrame (p : Nat)
  /-- PORT_RETRAIN_END (R267). -/
  | portRetrainEnd (p : Nat) (ok : Bool) (lack : Nat) (recent : Bool)
  /-- HOST_LINK_DOWN (R450). -/
  | hostLinkDown
  /-- ROCE_RETRANSMIT_TIMEOUT (R444). -/
  | roceRetransmitTimeout (qpn : Nat)
  /-- ROCE_RATE_RECOVERY (R443). -/
  | roceRateRecovery (qpn : Nat)
  /-- NEIGHBOUR_SOLICITATION (R431). -/
  | neighbourSolicitation (addr : Nat)
  /-- ECHO_REQUEST (R431). -/
  | echoRequest (addr : Nat) (data : Bytes)
  /-- DUPLICATE_ADDRESS_DETECTION_END (R431). -/
  | duplicateAddressDetectionEnd (dup : Bool)
  /-- PFC_FRAME (R430). -/
  | pfcFrame (prio : Nat) (quanta : Nat)
  /-- STACK_TRAINING_DONE (R452). -/
  | stackTrainingDone (k : Nat)
  /-- FETCH_DONE (R350). -/
  | fetchDone (c : Nat) (tid : Nat) (p : Nat)
  /-- FORCED_FETCH_DONE (R249). -/
  | forcedFetchDone (c : Nat) (tid : Nat) (p : Nat)
  /-- HBM_LOOPBACK_END (R516). -/
  | hbmLoopbackEnd (k : Nat) (errors : Nat)
  /-- MESH_LOOPBACK_END (R517). -/
  | meshLoopbackEnd (corr : Nat) (errors : Nat)
  /-- DESTROY_PREEMPTION_LIMIT (R374). -/
  | destroyPreemptionLimit (c : Nat)
  /-- BOARD_INPUT_LEVEL_CHANGE (R478). -/
  | boardInputLevelChange (reset : Bool) (level : Bool)
  /-- DROOP_END (R521). -/
  | droopEnd (g : Nat)
  /-- VDD_AON_REMOVED (R548). -/
  | vddAonRemoved
deriving DecidableEq, Repr

end Sys2Proof
end

