-- ==== Sys2Proof/Decode.lean ====
section
/-! DEFINITION. Which command a word spells. The table of operations gives no row any bits, so no word spells a
command: commands come to the part over its ports, as pins and as events. -/

namespace Sys2Proof

/-- The command that a word of `nbits` bits spells by the table's bits: none, since no row has any.
DEDUCED, log 2. -/
def decodeTableWord (_nbits _w : Nat) : Option Instr := none

end Sys2Proof
end

