-- ==== Sys2Proof/Config.lean ====
section
/-! DEFINITION. What an implementation fixes and the spec leaves open: opaque constants that nothing
in Lean can evaluate. Each is applied to the operands it depends on, or to the count of free values
drawn (`State.free`).
Assumption log: log 8 (DESIGN CHOICE). -/

namespace Sys2Proof

/-- A free natural number (an amount of time, an identifier the part hands out). -/
opaque Config.freeNat : Nat → Nat

/-- A free 32-bit value. -/
opaque Config.freeW32 : Nat → W32

/-- A free byte string of a given length is cut from this one. -/
opaque Config.freeByte : Nat → Nat → Byte

/-- The bits that an SFU function (0 exp2, 1 log2, 2 reciprocal, 3 reciprocal square root, 4 tanh)
gives for an operand, where Table 4.3 states only a bound (04_tile_store_vector R116). -/
opaque Config.sfu : Nat → W32 → W32

/-- The tensor id of a preconditioned dY, and the element index of one of its elements, by the instruction that names
its operand and the element's row and column: the spec draws the bits of stochastic-rounding site 0 by them, and an
MMAP names no tensor (02_number_formats R57, R58; 03_matrix_array R86). -/
opaque Config.site0Tensor : List Nat → Nat
opaque Config.site0Element : List Nat → Nat → Nat → Nat

/-- How many of the queries that are still without an unmasked key at a VSMS finish so: the spec names no instruction
that finishes a softmax (04_tile_store_vector R119). -/
opaque Config.softmaxEmpty : Nat → Nat

/-- An instruction word is a comparison of positions for attention: no field of the word says so (04_tile_store_vector
R120). -/
opaque Config.attention : Nat → Bool

/-- The device that a peer HBM address of a move names, where the address lies in no stage queue: Table 5.9
has no field for it (05_instruction_set R149, 11_memory_tiers R345). -/
opaque Config.peerDev : Nat → Nat

/-- ML-DSA-87 (FIPS 204), which the spec takes from its standard: a signature verifies under a public key and a
context string over a message (11_memory_tiers R353; 14_host_port R437; 15_boot_security R454). -/
opaque Config.mldsaVerify (key ctx msg sig : Bytes) : Bool

/-- ML-DSA-87 (FIPS 204) key generation from a 32-byte seed: the public key, and what a private key signs under a
context string (15_boot_security R457, R459). -/
opaque Config.mldsaPublic (seed : Bytes) : Bytes
opaque Config.mldsaSign (seed ctx msg : Bytes) : Bytes

/-- ML-KEM-1024 (FIPS 203) encapsulation to a key with the device's `n`-th random input: the ciphertext and the
shared secret (14_host_port R437). -/
opaque Config.mlkemCipher (key : Bytes) (n : Nat) : Bytes
opaque Config.mlkemSecret (key : Bytes) (n : Nat) : Bytes

/-- The PUF response that the helper data reconstruct (15_boot_security R457). -/
opaque Config.puf (helper : Bytes) : Bytes

/-- The boot ROM's contents, whose digest an attestation report carries (15_boot_security Table 15.5). -/
opaque Config.romImage : Nat → Bytes

/-- The words of the agent-key table, entries 0 to 7 in order, whose digest an attestation report carries: the spec
gives their fields and not their places (15_boot_security Tables 15.5, 15.6). -/
opaque Config.agentWords : List (Bytes × Nat) → Bytes

end Sys2Proof
end

