-- ==== Sys2Proof/Machine/Bits.lean ====
section
/-! DEFINITION. Bit fields, byte order and small list helpers (00_scope R8: bit 0 is the least
significant bit, multi-byte values are little-endian). -/

namespace Sys2Proof.Machine

/-- Bits `lo + w - 1 : lo` of a natural number. -/
def fld (x lo w : Nat) : Nat := (x >>> lo) % 2 ^ w

/-- One bit of a natural number. -/
def bit (x i : Nat) : Bool := (x >>> i) % 2 == 1

/-- `x` with bits `lo + w - 1 : lo` replaced by `v` modulo `2 ^ w`. -/
def setFld (x lo w v : Nat) : Nat :=
  x - fld x lo w * 2 ^ lo + (v % 2 ^ w) * 2 ^ lo

/-- A Boolean as one bit. -/
def b2n (b : Bool) : Nat := if b then 1 else 0

/-- The little-endian value of a byte string (R8). -/
def leNat : Bytes → Nat
  | [] => 0
  | b :: bs => b.toNat + 256 * leNat bs

/-- The `n` little-endian bytes of a value (R8). -/
def leBytes : Nat → Nat → Bytes
  | 0, _ => []
  | n + 1, v => BitVec.ofNat 8 v :: leBytes n (v / 256)

/-- The big-endian value of a byte string. -/
def beNat (bs : Bytes) : Nat := bs.foldl (fun acc b => acc * 256 + b.toNat) 0

/-- The `n` big-endian bytes of a value. -/
def beBytes (n v : Nat) : Bytes := (leBytes n v).reverse

/-- `n` bytes at offset `o` of a byte string, zeros past its end. -/
def sliceB (bs : Bytes) (o n : Nat) : Bytes :=
  let t := (bs.drop o).take n
  t ++ List.replicate (n - t.length) 0

/-- The little-endian field of `n` bytes at offset `o` of a record. -/
def recN (bs : Bytes) (o n : Nat) : Nat := leNat (sliceB bs o n)

/-- A record with `n` bytes at offset `o` replaced by a little-endian value. -/
def putRec (bs : Bytes) (o n v : Nat) : Bytes :=
  bs.take o ++ leBytes n v ++ bs.drop (o + n)

/-- A record with the bytes at offset `o` replaced by a byte string. -/
def putB (bs : Bytes) (o : Nat) (v : Bytes) : Bytes :=
  bs.take o ++ v ++ bs.drop (o + v.length)

/-- A two's-complement reading of the low `w` bits. -/
def sext (w x : Nat) : Int :=
  let y := x % 2 ^ w
  if y < 2 ^ (w - 1) then (y : Int) else (y : Int) - (2 ^ w : Nat)

/-- The low `w` bits of an integer, as a natural number. -/
def wrapInt (w : Nat) (i : Int) : Nat := (i % ((2 ^ w : Nat) : Int)).toNat

/-- Rounded-up division. -/
def ceilDiv (a b : Nat) : Nat := (a + b - 1) / b

/-- A counter field that saturates at `2 ^ w - 1`. -/
def satInc (w x : Nat) (by' : Nat := 1) : Nat := min (x + by') (2 ^ w - 1)

/-- Every byte of the listed offsets is zero (reserved bytes). -/
def zeroAt (bs : Bytes) (ranges : List (Nat × Nat)) : Bool :=
  ranges.all fun r => (sliceB bs r.1 r.2).all (· == 0)

/-- A list updated at one index (unchanged when the index is past the end). -/
def setAt {α : Type} (l : List α) (i : Nat) (v : α) : List α := l.set i v

/-- The natural numbers `a, a + 1, …, a + n - 1`. -/
def upTo (a n : Nat) : List Nat := (List.range n).map (a + ·)

/-- `a ≤ b` lexicographically on pairs of natural numbers. -/
def pairLe (a b : Nat × Nat) : Bool := a.1 < b.1 || (a.1 == b.1 && a.2 ≤ b.2)

/-- Insertion into a list that is sorted under a relation. -/
def insertBy {α : Type} (le : α → α → Bool) (x : α) : List α → List α
  | [] => [x]
  | y :: ys => if le x y then x :: y :: ys else y :: insertBy le x ys

/-- Insertion sort: stable, structural. -/
def sortBy {α : Type} (le : α → α → Bool) : List α → List α
  | [] => []
  | x :: xs => insertBy le x (sortBy le xs)

/-- The number of set bits of the low `n` bits of `x`. -/
def popcount : Nat → Nat → Nat
  | 0, _ => 0
  | n + 1, x => x % 2 + popcount n (x / 2)

/-- The strictly ascending list check. -/
def ascending : List Nat → Bool
  | [] => true
  | [_] => true
  | a :: b :: t => a < b && ascending (b :: t)

/-- No value occurs twice. -/
def noDup : List Nat → Bool
  | [] => true
  | a :: t => !t.contains a && noDup t

/-- The position of the first occurrence of a value. -/
def indexOf? (x : Nat) : List Nat → Option Nat
  | [] => none
  | y :: ys => if x = y then some 0 else (indexOf? x ys).map (· + 1)

end Sys2Proof.Machine
end

