-- ==== Sys2Proof/Machine/Flags.lean ====
section
/-! DEFINITION. The exception flags of 02_number_formats R41 and their computation: invalid,
division by zero, overflow and saturation in bits 0 to 3 of an 8-bit value. -/

namespace Sys2Proof.Machine

/-- An exception flag value (R41). -/
abbrev ExFlags := BitVec 8

/-- No flag. -/
def flNone : ExFlags := 0
/-- Bit 0: invalid. -/
def flInvalid : ExFlags := 1
/-- Bit 1: division by zero. -/
def flDivZero : ExFlags := 2
/-- Bit 2: overflow. -/
def flOverflow : ExFlags := 4
/-- Bit 3: saturation. -/
def flSaturation : ExFlags := 8

/-- A flag raised when a condition holds. -/
def flIf (c : Bool) (f : ExFlags) : ExFlags := if c then f else flNone

/-- The union of a list of flag values. -/
def flUnion (l : List ExFlags) : ExFlags := l.foldl (· ||| ·) flNone

end Sys2Proof.Machine
end

