-- ==== Sys2Proof/Machine/Fp.lean ====
section
/-! DEFINITION. Binary32 arithmetic as 02_number_formats states it: every operation is computed
exactly on a sign, a magnitude and a power of two, and rounded once to nearest, ties to even (R6);
subnormals everywhere (R37), signed zeros (R38), NaN results (R39), minimum, maximum and comparison
(R40). -/

namespace Sys2Proof.Machine

/-- A decoded value: a NaN with its sign, quiet bit and fraction, an infinity, or the finite number
`(-1)^s * m * 2^e`. -/
inductive Fv where
  | nan (s quiet : Bool) (frac : Nat)
  | inf (s : Bool)
  | fin (s : Bool) (m : Nat) (e : Int)
  deriving DecidableEq, Repr

/-- The number of bits of a natural number. -/
def bitLen (m : Nat) : Nat := if m = 0 then 0 else Nat.log2 m + 1

/-- `floor(log2 (m * 2^e))` of a non-zero magnitude. -/
def floorLog2 (m : Nat) (e : Int) : Int := (Nat.log2 m : Int) + e

/-- `m * 2^e` as a multiple of `2^q`, when `q ≤ e`. -/
def scaleTo (m : Nat) (e q : Int) : Nat := m * 2 ^ (e - q).toNat

/-- A magnitude divided by `2^k`, rounded to nearest, ties to even. -/
def rneShift (m k : Nat) : Nat :=
  if k = 0 then m
  else
    let q := m >>> k
    let r := m % 2 ^ k
    let half := 2 ^ (k - 1)
    if r > half || (r == half && q % 2 == 1) then q + 1 else q

/-- A magnitude rounded to nearest, ties to even, to `p` significant bits with spacing at least
`2^qmin`; the result is the multiple and the spacing's exponent. -/
def rneTo (p : Nat) (qmin : Int) (m : Nat) (e : Int) : Nat × Int :=
  if m = 0 then (0, qmin)
  else
    let q := max (floorLog2 m e - (p : Int) + 1) qmin
    if q ≤ e then (scaleTo m e q, q) else (rneShift m (q - e).toNat, q)

/-- Comparison of two magnitudes `m1 * 2^e1` and `m2 * 2^e2`. -/
def magCmp (m1 : Nat) (e1 : Int) (m2 : Nat) (e2 : Int) : Ordering :=
  let q := min e1 e2
  compare (scaleTo m1 e1 q) (scaleTo m2 e2 q)

/-- The encoding of the magnitude `q * 2^u` in a format of `E` exponent bits, `F` fraction bits and
a bias, for a magnitude already rounded to that format and not beyond its largest exponent. -/
def encMag (fbits bias : Nat) (q : Nat) (u : Int) : Nat :=
  if q < 2 ^ fbits then q
  else if q = 2 ^ (fbits + 1) then ((u + 1 + fbits + bias).toNat) * 2 ^ fbits
  else (u + fbits + bias).toNat * 2 ^ fbits + (q - 2 ^ fbits)

/-- The value of an FP32 encoding (R34). -/
def decF32 (x : W32) : Fv :=
  let n := x.toNat
  let s := bit n 31
  let e := fld n 23 8
  let f := fld n 0 23
  if e = 255 then (if f = 0 then .inf s else .nan s (bit f 22) f)
  else if e = 0 then .fin s f (-149)
  else .fin s (2 ^ 23 + f) ((e : Int) - 150)

/-- A signed encoding in 32 bits. -/
def signed32 (s : Bool) (n : Nat) : W32 := BitVec.ofNat 32 (b2n s * 2 ^ 31 + n)

/-- The canonical NaN of FP32 (R34). -/
def nan32 : W32 := 0x7FC00000
/-- Positive or negative zero. -/
def zero32 (s : Bool) : W32 := signed32 s 0
/-- Positive or negative infinity. -/
def inf32 (s : Bool) : W32 := signed32 s 0x7F800000
/-- FP32 one. -/
def one32 : W32 := 0x3F800000

/-- An FP32 result with the flags it raises. -/
structure FRes where
  v : W32
  fl : ExFlags
  deriving DecidableEq, Repr

/-- A finite exact value rounded once into FP32, with the overflow flag (R41, R43). -/
def roundF32 (s : Bool) (m : Nat) (e : Int) : FRes :=
  if m = 0 then ⟨zero32 s, flNone⟩
  else
    let r := rneTo 24 (-149) m e
    if magCmp r.1 r.2 (2 ^ 24 - 1) 104 == .gt then ⟨inf32 s, flOverflow⟩
    else ⟨signed32 s (encMag 23 127 r.1 r.2), flNone⟩

/-- A NaN operand test. -/
def isNaN32 (x : W32) : Bool := match decF32 x with | .nan _ _ _ => true | _ => false
/-- A signalling NaN operand test (R34). -/
def isSNaN32 (x : W32) : Bool := match decF32 x with | .nan _ q _ => !q | _ => false
/-- An infinity test. -/
def isInf32 (x : W32) : Bool := match decF32 x with | .inf _ => true | _ => false
/-- A finite value test. -/
def isFin32 (x : W32) : Bool := match decF32 x with | .fin _ _ _ => true | _ => false
/-- A zero test. -/
def isZero32 (x : W32) : Bool := match decF32 x with | .fin _ m _ => m == 0 | _ => false
/-- The sign bit. -/
def signOf (x : W32) : Bool := bit x.toNat 31
/-- The quiet form of a NaN: its payload with the quiet bit set (R39). -/
def quiet32 (x : W32) : W32 := x ||| 0x00400000
/-- The negation of a value: its sign bit inverted. -/
def neg32 (x : W32) : W32 := x ^^^ 0x80000000
/-- The magnitude of a value. -/
def abs32 (x : W32) : W32 := x &&& 0x7FFFFFFF

/-- The NaN result of an element-wise operation: the payload of its first NaN operand with the quiet
bit set, with the invalid flag for a signalling operand (R39); none when no operand is a NaN. -/
def nanResult (ops : List W32) : Option FRes :=
  match ops.find? isNaN32 with
  | none => none
  | some x => some ⟨quiet32 x, flIf (ops.any isSNaN32) flInvalid⟩

/-- The result of an invalid operation without a NaN operand. -/
def invalidRes : FRes := ⟨nan32, flInvalid⟩

/-- An exact sum of two finite values, with the sign of a zero result under round to nearest
(R38). -/
def exactAdd (s1 : Bool) (m1 : Nat) (e1 : Int) (s2 : Bool) (m2 : Nat) (e2 : Int) :
    Bool × Nat × Int :=
  let q := min e1 e2
  let a : Int := if s1 then -(scaleTo m1 e1 q : Int) else (scaleTo m1 e1 q : Int)
  let b : Int := if s2 then -(scaleTo m2 e2 q : Int) else (scaleTo m2 e2 q : Int)
  let t := a + b
  if t = 0 then ((s1 && s2) && decide (s1 = s2), 0, q) else (decide (t < 0), t.natAbs, q)

/-- FP32 addition (R38, R39). -/
def fadd (a b : W32) : FRes :=
  match nanResult [a, b] with
  | some r => r
  | none =>
    match decF32 a, decF32 b with
    | .inf s, .inf t => if s = t then ⟨inf32 s, flNone⟩ else invalidRes
    | .inf s, _ => ⟨inf32 s, flNone⟩
    | _, .inf t => ⟨inf32 t, flNone⟩
    | .fin s1 m1 e1, .fin s2 m2 e2 =>
      let r := exactAdd s1 m1 e1 s2 m2 e2
      roundF32 r.1 r.2.1 r.2.2
    | _, _ => invalidRes

/-- FP32 subtraction: `a + (-b)`, a NaN operand keeping its own sign. -/
def fsub (a b : W32) : FRes :=
  match nanResult [a, b] with
  | some r => r
  | none => fadd a (neg32 b)

/-- FP32 multiplication. -/
def fmul (a b : W32) : FRes :=
  match nanResult [a, b] with
  | some r => r
  | none =>
    match decF32 a, decF32 b with
    | .inf s, .inf t => ⟨inf32 (s != t), flNone⟩
    | .inf s, .fin t m _ => if m = 0 then invalidRes else ⟨inf32 (s != t), flNone⟩
    | .fin s m _, .inf t => if m = 0 then invalidRes else ⟨inf32 (s != t), flNone⟩
    | .fin s1 m1 e1, .fin s2 m2 e2 => roundF32 (s1 != s2) (m1 * m2) (e1 + e2)
    | _, _ => invalidRes

/-- Whether a product is `∞ · 0` or `0 · ∞`. -/
def prodInvalid (a b : W32) : Bool := (isInf32 a && isZero32 b) || (isZero32 a && isInf32 b)

/-- Fused multiply-add `a * b + c` with one rounding; `∞ · 0` raises invalid even beside a quiet NaN
`c`, whose payload the result then carries (R39). -/
def ffma (a b c : W32) : FRes :=
  match nanResult [a, b, c] with
  | some r => ⟨r.v, r.fl ||| flIf (prodInvalid a b) flInvalid⟩
  | none =>
    if prodInvalid a b then invalidRes
    else
      match decF32 a, decF32 b, decF32 c with
      | .fin s1 m1 e1, .fin s2 m2 e2, .fin s3 m3 e3 =>
        let r := exactAdd (s1 != s2) (m1 * m2) (e1 + e2) s3 m3 e3
        roundF32 r.1 r.2.1 r.2.2
      | .fin _ _ _, .fin _ _ _, .inf t => ⟨inf32 t, flNone⟩
      | _, _, .inf t =>
        if (signOf a != signOf b) = t then ⟨inf32 t, flNone⟩ else invalidRes
      | _, _, _ => ⟨inf32 (signOf a != signOf b), flNone⟩

/-- A quotient of magnitudes with enough bits, its lowest bit sticky. -/
def divMag (m1 m2 : Nat) : Nat × Int :=
  let k := 64 + bitLen m2
  let n := m1 <<< k
  let q := n / m2
  (2 * q + (if n % m2 = 0 then 0 else 1), -(k : Int) - 1)

/-- FP32 division, correctly rounded (07 R189, 06 R175). -/
def fdiv (a b : W32) : FRes :=
  match nanResult [a, b] with
  | some r => r
  | none =>
    match decF32 a, decF32 b with
    | .inf _, .inf _ => invalidRes
    | .inf s, .fin t _ _ => ⟨inf32 (s != t), flNone⟩
    | .fin s _ _, .inf t => ⟨zero32 (s != t), flNone⟩
    | .fin s1 m1 e1, .fin s2 m2 e2 =>
      if m2 = 0 then (if m1 = 0 then invalidRes else ⟨inf32 (s1 != s2), flDivZero⟩)
      else
        let q := divMag m1 m2
        roundF32 (s1 != s2) q.1 (e1 - e2 + q.2)
    | _, _ => invalidRes

/-- The integer square root by trying `k` result bits from the top. -/
def isqrtBits : Nat → Nat → Nat → Nat
  | 0, _, r => r
  | k + 1, n, r =>
    let t := r + 2 ^ k
    isqrtBits k n (if t * t ≤ n then t else r)

/-- The integer square root. -/
def isqrt (n : Nat) : Nat := isqrtBits (bitLen n / 2 + 1) n 0

/-- FP32 square root, correctly rounded (07 R189, R204). -/
def fsqrt (a : W32) : FRes :=
  match nanResult [a] with
  | some r => r
  | none =>
    match decF32 a with
    | .inf s => if s then invalidRes else ⟨a, flNone⟩
    | .fin s m e =>
      if m = 0 then ⟨a, flNone⟩
      else if s then invalidRes
      else
        let (m', e') := if e % 2 = 0 then (m, e) else (2 * m, e - 1)
        let n := m' <<< 64
        let r := isqrt n
        roundF32 false (2 * r + (if r * r = n then 0 else 1)) ((e' - 64) / 2 - 1)
    | _ => invalidRes

/-- The order of two values that are no NaNs: less than, −0 and +0 equal (R40). -/
def flt (a b : W32) : Bool :=
  let key (x : W32) : Int :=
    let n := fld x.toNat 0 31
    if signOf x then -(n : Int) else (n : Int)
  decide (key a < key b)

/-- IEEE 754-2019 minimum: a NaN propagates, −0 orders below +0 (R40). -/
def fminimum (a b : W32) : FRes :=
  match nanResult [a, b] with
  | some r => r
  | none =>
    if isZero32 a && isZero32 b then ⟨if signOf a then a else b, flNone⟩
    else ⟨if flt b a then b else a, flNone⟩

/-- IEEE 754-2019 maximum: a NaN propagates, −0 orders below +0 (R40). -/
def fmaximum (a b : W32) : FRes :=
  match nanResult [a, b] with
  | some r => r
  | none =>
    if isZero32 a && isZero32 b then ⟨if signOf a then b else a, flNone⟩
    else ⟨if flt a b then b else a, flNone⟩

/-- The relations of VCMP: EQ, NE, LT, LE, GT, GE (R40, Table 5.8); unordered operands make every
relation false but NE. -/
def frel (r : Nat) (a b : W32) : Bool :=
  if isNaN32 a || isNaN32 b then r == 1
  else
    let lt := flt a b
    let gt := flt b a
    match r with
    | 0 => !lt && !gt
    | 1 => lt || gt
    | 2 => lt
    | 3 => !gt
    | 4 => gt
    | _ => !lt

/-- The flag of a comparison: invalid for a signalling NaN only (R40). -/
def frelFlags (a b : W32) : ExFlags := flIf (isSNaN32 a || isSNaN32 b) flInvalid

/-- An integer rounded to nearest into FP32 (R42). -/
def intToF32 (i : Int) : W32 := (roundF32 (decide (i < 0)) i.natAbs 0).v

/-- The canonical form of a result of the matrix array, the tap array, a reduction or a solver
engine: every NaN is the canonical NaN (R39). -/
def canonF32 (x : W32) : W32 := if isNaN32 x then nan32 else x

/-- Addition whose NaN result is canonical (R39). -/
def faddC (a b : W32) : W32 := canonF32 (fadd a b).v
/-- Subtraction whose NaN result is canonical (R39). -/
def fsubC (a b : W32) : W32 := canonF32 (fsub a b).v
/-- Multiplication whose NaN result is canonical (R39). -/
def fmulC (a b : W32) : W32 := canonF32 (fmul a b).v
/-- Fused multiply-add whose NaN result is canonical (R39). -/
def ffmaC (a b c : W32) : W32 := canonF32 (ffma a b c).v
/-- Division whose NaN result is canonical (R39). -/
def fdivC (a b : W32) : W32 := canonF32 (fdiv a b).v
/-- Square root whose NaN result is canonical (R39). -/
def fsqrtC (a : W32) : W32 := canonF32 (fsqrt a).v

/-- `2^k` as FP32, for `k` in the normal or subnormal range. -/
def pow2F32 (k : Int) : W32 := (roundF32 false 1 k).v

end Sys2Proof.Machine
end

