-- ==== Sys2Proof/Machine/Formats.lean ====
section
/-! DEFINITION. The fifteen number formats (02_number_formats R33 to R36), conversion (R42 to R45),
block scaling (R46 to R49), stochastic rounding (R56 to R59). -/

namespace Sys2Proof.Machine

/-- How a floating-point layout encodes special values (Table 2.2). -/
inductive Special where
  | ieee   -- infinities and NaNs at the all-ones exponent
  | e4m3   -- NaN at the all-ones code only, no infinity
  | none   -- neither
  deriving DecidableEq, Repr

/-- A floating-point layout of Table 2.2. -/
structure FloatFmt where
  ebits : Nat
  fbits : Nat
  bias : Nat
  special : Special
  deriving DecidableEq, Repr

/-- The floating-point layout of a format code, when it has one (Tables 2.1, 2.2). -/
def floatFmt : Nat → Option FloatFmt
  | 0x0 => some ⟨8, 23, 127, .ieee⟩
  | 0x1 => some ⟨8, 7, 127, .ieee⟩
  | 0x2 => some ⟨5, 10, 15, .ieee⟩
  | 0x3 => some ⟨6, 9, 31, .ieee⟩
  | 0x4 => some ⟨5, 2, 15, .ieee⟩
  | 0x5 => some ⟨4, 3, 7, .e4m3⟩
  | 0x6 => some ⟨3, 2, 3, .none⟩
  | 0x7 => some ⟨2, 3, 1, .none⟩
  | 0x8 => some ⟨2, 1, 1, .none⟩
  | _ => none

/-- The width in bits of a format code (Table 2.1); 0 for the reserved code. -/
def fmtWidth : Nat → Nat
  | 0x0 => 32 | 0x1 => 16 | 0x2 => 16 | 0x3 => 16 | 0x4 => 8 | 0x5 => 8
  | 0x6 => 6 | 0x7 => 6 | 0x8 => 4 | 0x9 => 32 | 0xA => 16 | 0xB => 8
  | 0xC => 4 | 0xD => 8 | 0xE => 8 | _ => 0

/-- The integer range of an integer or index format code (R36). -/
def intRange : Nat → Option (Int × Int)
  | 0x9 => some (-2147483648, 2147483647)
  | 0xA => some (-32768, 32767)
  | 0xB => some (-128, 127)
  | 0xC => some (-8, 7)
  | 0xD => some (0, 255)
  | _ => none

/-- A matrix input format (Table 2.1, R73). -/
def isMatrixInput (c : Nat) : Bool := (1 ≤ c && c ≤ 8) || c == 0xB || c == 0xC
/-- A block-scalable format (Table 2.1). -/
def isBlockScalable (c : Nat) : Bool := (4 ≤ c && c ≤ 8) || c == 0xB || c == 0xC
/-- A floating-point format other than E8M0. -/
def isFloatFmt (c : Nat) : Bool := c ≤ 8
/-- An integer matrix input format. -/
def isIntInput (c : Nat) : Bool := c == 0xB || c == 0xC

/-- The largest finite magnitude of a layout, as `m * 2^e` (Table 2.2). -/
def maxFinite (f : FloatFmt) : Nat × Int :=
  match f.special with
  | .ieee => (2 ^ (f.fbits + 1) - 1, (2 ^ f.ebits : Int) - 2 - f.bias - f.fbits)
  | .e4m3 => (2 ^ (f.fbits + 1) - 2, (2 ^ f.ebits : Int) - 1 - f.bias - f.fbits)
  | .none => (2 ^ (f.fbits + 1) - 1, (2 ^ f.ebits : Int) - 1 - f.bias - f.fbits)

/-- The encoding of the largest finite magnitude. -/
def maxEnc (f : FloatFmt) : Nat :=
  match f.special with
  | .ieee => (2 ^ f.ebits - 1) * 2 ^ f.fbits - 1
  | .e4m3 => 2 ^ (f.ebits + f.fbits) - 2
  | .none => 2 ^ (f.ebits + f.fbits) - 1

/-- The value of an encoding in a floating-point layout (R34). -/
def decFloat (f : FloatFmt) (n : Nat) : Fv :=
  let s := bit n (f.ebits + f.fbits)
  let e := fld n f.fbits f.ebits
  let m := fld n 0 f.fbits
  let top := 2 ^ f.ebits - 1
  if f.special = .ieee ∧ e = top then
    (if m = 0 then .inf s else .nan s (bit m (f.fbits - 1)) (m * 2 ^ (23 - f.fbits)))
  else if f.special = .e4m3 ∧ e = top ∧ m = 2 ^ f.fbits - 1 then .nan s true 0x400000
  else if e = 0 then .fin s m (1 - (f.bias : Int) - f.fbits)
  else .fin s (2 ^ f.fbits + m) ((e : Int) - f.bias - f.fbits)

/-- An integer as an exact value. -/
def fvOfInt (i : Int) : Fv := .fin (decide (i < 0)) i.natAbs 0

/-- The exact value of an element of a format code (R34, R35, R36). -/
def decElem (code n : Nat) : Fv :=
  match floatFmt code with
  | some f => decFloat f n
  | none =>
    match code with
    | 0xE => if n = 255 then .nan false true 0x400000 else .fin false 1 ((n : Int) - 127)
    | 0xD => fvOfInt (n % 256 : Nat)
    | _ => fvOfInt (sext (fmtWidth code) n)

/-- An exact value as FP32, rounded to nearest where FP32 does not hold it (R42). A NaN keeps its
sign, its quiet bit and its fraction. -/
def fvToF32 (v : Fv) : W32 :=
  match v with
  | .nan s _ f => signed32 s (0x7F800000 + f)
  | .inf s => inf32 s
  | .fin s m e => (roundF32 s m e).v

/-- An element converted to FP32: exact for every format but INT32 (R42). -/
def elemToF32 (code n : Nat) : W32 := fvToF32 (decElem code n)

/-- The rounding of a conversion: to nearest, or stochastic with the 64 bits drawn (R56, R59). -/
inductive Rounding where
  | nearest
  | stochastic (r : W64)
  deriving DecidableEq, Repr

/-- A magnitude rounded to `p` significant bits with spacing at least `2^qmin` (R59): the fraction
truncated to 32 bits is added to the top 32 bits drawn. -/
def srTo (p : Nat) (qmin : Int) (m : Nat) (e : Int) (r : W64) : Nat × Int :=
  if m = 0 then (0, qmin)
  else
    let q := max (floorLog2 m e - (p : Int) + 1) qmin
    if q ≤ e then (scaleTo m e q, q)
    else
      let k := (q - e).toNat
      let tr := m >>> k
      let fr := ((m % 2 ^ k) * 2 ^ 32) >>> k
      (if fr + (r.toNat >>> 32) ≥ 2 ^ 32 then tr + 1 else tr, q)

/-- A magnitude rounded as a conversion site requires. -/
def roundMag (rd : Rounding) (p : Nat) (qmin : Int) (m : Nat) (e : Int) : Nat × Int :=
  match rd with
  | .nearest => rneTo p qmin m e
  | .stochastic r => srTo p qmin m e r

/-- The result of a conversion: the encoding, the flags of Table 2.3 and whether a finite value
saturated. -/
structure CRes where
  bits : Nat
  fl : ExFlags
  sat : Bool
  deriving DecidableEq, Repr

/-- A conversion site behaves as SAT = 1 when it rounds stochastically (R44). -/
def effSat (sat : Bool) (rd : Rounding) : Bool :=
  match rd with
  | .nearest => sat
  | .stochastic _ => true

/-- A conversion into a floating-point layout (R43, Table 2.3). -/
def convFloat (f : FloatFmt) (sat0 : Bool) (rd : Rounding) (v : Fv) : CRes :=
  let sat := effSat sat0 rd
  let sgn (s : Bool) (n : Nat) : Nat := b2n s * 2 ^ (f.ebits + f.fbits) + n
  let infEnc := (2 ^ f.ebits - 1) * 2 ^ f.fbits
  match v with
  | .nan s q fr =>
    let sig := flIf (!q) flInvalid
    match f.special with
    | .ieee => ⟨sgn s (infEnc + (fr >>> (23 - f.fbits)) ||| 2 ^ (f.fbits - 1)), sig, false⟩
    | .e4m3 => ⟨sgn s (2 ^ (f.ebits + f.fbits) - 1), sig, false⟩
    | .none => ⟨sgn s 0, flInvalid, false⟩
  | .inf s =>
    match f.special with
    | .ieee => ⟨sgn s infEnc, flNone, false⟩
    | .e4m3 =>
      ⟨sgn s (if sat then maxEnc f else 2 ^ (f.ebits + f.fbits) - 1), flOverflow, false⟩
    | .none => ⟨sgn s (maxEnc f), flOverflow, false⟩
  | .fin s m e =>
    let r := roundMag rd (f.fbits + 1) (1 - (f.bias : Int) - f.fbits) m e
    let mx := maxFinite f
    if magCmp r.1 r.2 mx.1 mx.2 == .gt then
      match f.special with
      | .none => ⟨sgn s (maxEnc f), flSaturation, true⟩
      | .ieee => if sat then ⟨sgn s (maxEnc f), flSaturation, true⟩
                 else ⟨sgn s infEnc, flOverflow, false⟩
      | .e4m3 => if sat then ⟨sgn s (maxEnc f), flSaturation, true⟩
                 else ⟨sgn s (2 ^ (f.ebits + f.fbits) - 1), flOverflow, false⟩
    else ⟨sgn s (encMag f.fbits f.bias r.1 r.2), flNone, false⟩

/-- A conversion into an integer format (R45, Table 2.3): to nearest, or stochastically with spacing
1, then limited to the range. -/
def convInt (w : Nat) (lo hi : Int) (rd : Rounding) (v : Fv) : CRes :=
  match v with
  | .nan _ _ _ => ⟨0, flInvalid, false⟩
  | .inf s => ⟨wrapInt w (if s then lo else hi), flOverflow, false⟩
  | .fin s m e =>
    let mag : Nat :=
      if 0 ≤ e then m * 2 ^ e.toNat
      else
        let k := (-e).toNat
        match rd with
        | .nearest => rneShift m k
        | .stochastic r =>
          let tr := m >>> k
          let fr := ((m % 2 ^ k) * 2 ^ 32) >>> k
          if fr + (r.toNat >>> 32) ≥ 2 ^ 32 then tr + 1 else tr
    let i : Int := if s then -(mag : Int) else (mag : Int)
    if i < lo then ⟨wrapInt w lo, flSaturation, true⟩
    else if hi < i then ⟨wrapInt w hi, flSaturation, true⟩
    else ⟨wrapInt w i, flNone, false⟩

/-- The conversion of an exact value into a format code (R43 to R45). A destination that Table 2.3
has no row for (E8M0, and the reserved code) yields no result; its callers say what stands there. -/
def convTo (code : Nat) (sat : Bool) (rd : Rounding) (v : Fv) : Option CRes :=
  match floatFmt code with
  | some f => some (convFloat f sat rd v)
  | none =>
    match intRange code with
    | some (lo, hi) => some (convInt (fmtWidth code) lo hi rd v)
    | none => none

/-- A conversion whose destination is known to be in Table 2.3. -/
def convTo! (code : Nat) (sat : Bool) (rd : Rounding) (v : Fv) : CRes :=
  (convTo code sat rd v).getD ⟨0, flNone, false⟩

/-! ### Packing (R49) -/

/-- Element `j` of a packed array of `w`-bit elements, bits counted little-endian. -/
def packedGet (w : Nat) (bs : Bytes) (j : Nat) : Nat :=
  let lo := j * w
  fld (leNat (sliceB bs (lo / 8) ((lo % 8 + w + 7) / 8))) (lo % 8) w

/-- The bytes of a packed array of `w`-bit elements. -/
def packElems (w : Nat) (l : List Nat) : Bytes :=
  if w % 8 = 0 then l.flatMap fun n => leBytes (w / 8) n
  else
    let v := l.foldr (fun n acc => n % 2 ^ w + acc * 2 ^ w) 0
    leBytes ((l.length * w + 7) / 8) v

/-- The `n` elements of a packed array. -/
def unpackElems (w n : Nat) (bs : Bytes) : List Nat :=
  (List.range n).map fun j => packedGet w bs j

/-! ### Block scaling (R46 to R48) -/

/-- The exponent of an element format's largest finite value (R47). -/
def blockEmax : Nat → Int
  | 0x4 => 15 | 0x5 => 8 | 0x6 => 4 | 0x7 => 2 | 0x8 => 2 | 0xB => 6 | 0xC => 2
  | 0x2 => 15 | _ => 0

/-- The largest finite element value as `m * 2^e` (R47). -/
def blockMax (code : Nat) : Nat × Int :=
  match floatFmt code with
  | some f => maxFinite f
  | none => if code = 0xB then (127, 0) else (7, 0)

/-- The largest finite magnitude of a list of values, as `m * 2^e`; `m = 0` when all are zero. -/
def amaxOf (l : List Fv) : Nat × Int :=
  l.foldl (fun a v => match v with
    | .fin _ m e => if magCmp m e a.1 a.2 == .gt then (m, e) else a
    | _ => a) (0, 0)

/-- The scale code of a block from its finite values (R47): FLOOR, or FIT when `fit`. -/
def blockScaleCode (code : Nat) (fit : Bool) (l : List Fv) : Nat :=
  let a := amaxOf l
  if a.1 = 0 then 127
  else
    let x0 := floorLog2 a.1 a.2 - blockEmax code
    let mx := blockMax code
    let x1 := if fit && magCmp a.1 (a.2 - x0) mx.1 mx.2 == .gt then x0 + 1 else x0
    let x2 := if x1 < -127 then -127 else if x1 > 127 then 127 else x1
    (x2 + 127).toNat

/-- A value times `2^k`, exactly. -/
def fvScale (k : Int) (v : Fv) : Fv :=
  match v with
  | .fin s m e => .fin s m (e + k)
  | w => w

/-- A NaN. -/
def fvIsNaN : Fv → Bool
  | .nan _ _ _ => true
  | _ => false
/-- A signalling NaN. -/
def fvIsSNaN : Fv → Bool
  | .nan _ q _ => !q
  | _ => false
/-- An infinity. -/
def fvIsInf : Fv → Bool
  | .inf _ => true
  | _ => false

/-- A converted block: scale code, element encodings, flags and block-saturation events. -/
structure BlockRes where
  scale : Nat
  elems : List Nat
  fl : ExFlags
  sats : Nat
  deriving DecidableEq, Repr

/-- Whether a block's scale code becomes 0xFF (R48). -/
def blockPoisoned (code : Nat) (l : List Fv) : Bool :=
  l.any fvIsNaN || (l.any fvIsInf && code != 0x4 && code != 0x5)

/-- A block of values converted into a block-scaled format (R47, R48), each with its own rounding.
An E4M3 infinity becomes element NaN with the overflow flag. -/
def convBlock (code : Nat) (fit : Bool) (l : List (Fv × Rounding)) : BlockRes :=
  let vs := l.map (·.1)
  if blockPoisoned code vs then
    ⟨255, vs.map fun _ => 0,
      flIf (vs.any fvIsSNaN) flInvalid
        ||| flIf (vs.any fvIsInf && code != 0x4 && code != 0x5) flOverflow, 0⟩
  else
    let sc := blockScaleCode code fit vs
    let rs : List CRes := l.map fun p =>
      match p.1 with
      | .inf s => if code = 0x5 then ⟨b2n s * 128 + 127, flOverflow, false⟩
                  else convTo! code true p.2 p.1
      | v => convTo! code true p.2 (fvScale (127 - (sc : Int)) v)
    ⟨sc, rs.map (·.bits), flUnion (rs.map fun r => if r.sat then flNone else r.fl),
      (rs.filter (·.sat)).length⟩

/-- The value of a block-scaled element (R46, R48). -/
def blockElem (code scale n : Nat) : Fv :=
  if scale = 255 then .nan false true 0x400000
  else fvScale ((scale : Int) - 127) (decElem code n)

/-! ### The stochastic-rounding generator (R57) -/

/-- The mixing function of R57. -/
def mix64 (z0 : W64) : W64 :=
  let z1 := z0 ^^^ (z0 >>> 32)
  let z2 := z1 * 0x8F3A6C1D5B27E4C9
  let z3 := z2 ^^^ (z2 >>> 29)
  let z4 := z3 * 0xE6D41B973A5C82F1
  z4 ^^^ (z4 >>> 32)

/-- The key of a tensor and Milestone (R57). -/
def srKey (jobSeed : W64) (tensorId milestone : Nat) : W64 :=
  let k1 := mix64 (jobSeed ^^^ 0x6A5D39E1C4B20F87)
  let k2 := mix64 (k1 ^^^ BitVec.ofNat 64 (tensorId % 2 ^ 32))
  mix64 (k2 ^^^ BitVec.ofNat 64 milestone)

/-- The 64 random bits of a conversion (R57, R58: the element index modulo `2^48`). -/
def srBits (key : W64) (element site ordinal : Nat) : W64 :=
  mix64 (key ^^^ mix64 (BitVec.ofNat 64
    (element % 2 ^ 48 + (ordinal % 2 ^ 12) * 2 ^ 48 + (site % 2 ^ 4) * 2 ^ 60)))

end Sys2Proof.Machine
end

