-- ==== Sys2Proof/Machine/Memory.lean ====
section
/-! DEFINITION. A byte memory as a canonical list of cells: addresses strictly rising, no cell equal
to what an unlisted address reads as, which is zero (`memDefault`). -/

namespace Sys2Proof.Machine

/-- A byte memory. -/
abbrev Mem := List Host.Cell

/-- What an address that is not listed reads as. For a tile store this is the zeroing of R109; for
HBM the spec states no power-on contents (DESIGN CHOICE, log 3). -/
def memDefault : Byte := 0

/-- The canonical form: addresses strictly rising and no cell equal to the default. -/
def memWf : Mem → Bool
  | [] => true
  | [c] => c.2 != memDefault
  | c :: d :: t => c.2 != memDefault && decide (c.1 < d.1) && memWf (d :: t)

/-- One byte read. -/
def memRead : Mem → Nat → Byte
  | [], _ => memDefault
  | c :: t, a => if a = c.1 then c.2 else memRead t a

/-- The cells of a byte string placed at an address, the default bytes left out. -/
def cellsFrom : Nat → Bytes → Mem
  | _, [] => []
  | a, b :: bs => if b = memDefault then cellsFrom (a + 1) bs else (a, b) :: cellsFrom (a + 1) bs

/-- A byte string written at an address. -/
def memWriteBytes (m : Mem) (a : Nat) (bs : Bytes) : Mem :=
  m.filter (fun c => decide (c.1 < a)) ++ cellsFrom a bs
    ++ m.filter (fun c => decide (a + bs.length ≤ c.1))

/-- One byte written. -/
def memWrite (m : Mem) (a : Nat) (b : Byte) : Mem := memWriteBytes m a [b]

/-- `n` bytes read from address `a`. -/
def memReadBytes (m : Mem) (a n : Nat) : Bytes :=
  let near := m.filter fun c => decide (a ≤ c.1) && decide (c.1 < a + n)
  (List.range n).map fun i => memRead near (a + i)

end Sys2Proof.Machine
end

