-- ==== Sys2Proof/Machine/Tbl.lean ====
section
/-! DEFINITION. Tables: plain data kept as a list of key and value pairs in rising key order, one
entry a key. A key that is not listed reads as a default that the reader supplies. -/

namespace Sys2Proof.Machine

/-- A table from natural numbers. -/
abbrev Tbl (α : Type) := List (Nat × α)

/-- The value listed under a key. -/
def Tbl.find {α : Type} : Tbl α → Nat → Option α
  | [], _ => none
  | (j, v) :: t, k => if k = j then some v else Tbl.find t k

/-- The value of a key, the default `d` when it is not listed. -/
def Tbl.get {α : Type} (d : α) (t : Tbl α) (k : Nat) : α := (Tbl.find t k).getD d

/-- A table with one key set, in rising order. -/
def Tbl.set {α : Type} : Tbl α → Nat → α → Tbl α
  | [], k, v => [(k, v)]
  | (j, w) :: t, k, v =>
    if k < j then (k, v) :: (j, w) :: t
    else if k = j then (k, v) :: t
    else (j, w) :: Tbl.set t k v

/-- A table without one key. -/
def Tbl.erase {α : Type} (t : Tbl α) (k : Nat) : Tbl α := t.filter (·.1 != k)

/-- The keys that are listed. -/
def Tbl.keys {α : Type} (t : Tbl α) : List Nat := t.map (·.1)

/-- The listed key and value pairs that satisfy a predicate, first first. -/
def Tbl.select {α : Type} (t : Tbl α) (p : Nat → α → Bool) : List (Nat × α) :=
  t.filter fun e => p e.1 e.2

/-- A function applied to the value of every listed key. -/
def Tbl.mapv {α : Type} (f : Nat → α → α) (t : Tbl α) : Tbl α := t.map fun e => (e.1, f e.1 e.2)

/-- The least natural number, up to `bound`, that is no key. -/
def Tbl.free {α : Type} (t : Tbl α) (bound : Nat) : Option Nat :=
  (List.range bound).find? fun k => (Tbl.find t k).isNone

end Sys2Proof.Machine
end

