-- ==== Sys2Proof/Machine/State.lean ====
section
/-! DEFINITION. The state of the part: every register, table, store and queue the spec gives it, as
plain data, and the state at reset.
Assumption log: log 9 (DESIGN CHOICE), log 106 (DEDUCED). -/

namespace Sys2Proof.Machine

/-! ### Enables (16_power_clocks R476) -/

/-- The states of an enable (Table 16.5). -/
inductive EnSt where
  | off | starting | on | stopping
deriving DecidableEq, Repr

/-- An enable: its state, an enable latched while STOPPING (ENABLE_PENDING) and a disable latched
while STARTING. -/
structure Enable where
  st : EnSt := .off
  pendOn : Bool := false
  pendOff : Bool := false
deriving DecidableEq, Repr

/-! ### Sequencer state of a tile and context (05_instruction_set R127, Table 5.1) -/

/-- STATE of TILE_QSTAT (R154). -/
inductive QSt where
  | idle | running | waiting | halted
deriving DecidableEq, Repr

/-- What a queue in STATE waiting waits for at issue (R154): a signal and its count, a Milestone, a
FENCE, a queue endpoint to send to or receive from (10 R321), the descriptor limit of R148, the version that the move
of a descriptor reads (R149), or anything else its unit lacks. -/
inductive WaitFor where
  | signal (n count : Nat)
  | mstone (m : Nat)
  | fence
  | send (endpoint : Nat)
  | receive (endpoint : Nat)
  | descriptors
  | version (desc : Bytes)
  | unit
deriving DecidableEq, Repr

/-- One level of a loop stack: the byte offset of the body, its length in instructions, and the
index register that counts its passes (R150, R151). -/
structure LoopFrame where
  start : Nat
  len : Nat
  ic : Nat
deriving DecidableEq, Repr

/-- One instruction queue. DESIGN CHOICE, log 4. -/
structure Queue where
  /-- STATE (R154). -/
  st : QSt := .idle
  /-- EXC, the code that halted the queue (R154). -/
  exc : Nat := 0
  /-- What the queue waits for while STATE is waiting; WSIG is its signal (R154). -/
  waits : WaitFor := .unit
  /-- Program counter, a byte offset into the program image. -/
  pc : Nat := 0
  /-- Queue step number (R138). -/
  step : Nat := 0
  /-- Instructions issued since the context was created, and how many of them had been when the queue was last started
  from idle: their difference is the issue sequence number of the next instruction (R155). -/
  seq : Nat := 0
  seq0 : Nat := 0
  /-- Sticky exception flags (R41, R156). -/
  flags : ExFlags := flNone
  /-- Index registers I1 to I15; I0 is not stored. -/
  idx : Tbl W32 := []
  /-- Loop stack, innermost level first. -/
  loops : List LoopFrame := []
  /-- The queue has been started since the context was created (R138). -/
  started : Bool := false
  /-- MARRIVE has been issued with this step number, the highest so far (R139). -/
  arrived : Option Nat := none
  /-- The queue issued YIELD while a switch was pending (R375). -/
  yielded : Bool := false
  /-- Of queue 3 of a Layby context: what `seq` was when a work item last ran on its tile (12 R380). -/
  item : Option Nat := none
deriving DecidableEq, Repr

/-- A tap slot: its binding (R145, R167) and what it holds. -/
structure TapSlot where
  bound : Bool := false
  fid : Nat := 0
  side : Nat := 0
  boff : Nat := 0
  log2s : Nat := 0
  pr0 : Nat := 0
  pnr : Nat := 0
  pc0 : Nat := 0
  pnc : Nat := 0
  tpage : Nat := 0
  foff : Nat := 0
  /-- SUSPECT of TAP_SLOTn (R176, R185). -/
  suspect : Bool := false
  /-- SAMPLES of TAP_SLOTn, saturating (R185). -/
  samples : Nat := 0
  /-- The step whose samples the slot holds (R170). -/
  step : Option Nat := none
deriving DecidableEq, Repr

/-- A taken sample in the sample latch: the slot, the first block feature and the BF16 features as
FP32 values (R162, R164). -/
structure TapSample where
  slot : Nat
  first : Nat
  vals : List W32
deriving DecidableEq, Repr

/-- Preconditioned rows that a member of a share group multicast (03 R88): side 0 for A and 1 for B, the
member's virtual id, and the rows as element codes, each with the scale code of its block where the input format is
block-scaled. -/
structure Share where
  side : Nat
  sender : Nat
  rows : List (List (Nat × Nat))
deriving DecidableEq, Repr

/-- The state of Table 5.1 and the tap state (R169) of one virtual tile of one context. DESIGN CHOICE, log 4. -/
structure TileCtx where
  /-- Vector registers V0–V31 of 256 lanes. -/
  vregs : Tbl (List W32) := []
  /-- Mask registers M0–M7 of 256 bits. -/
  masks : Tbl (BitVec 256) := []
  /-- Operand descriptor table, 64 entries (R141). -/
  opTab : Tbl (BitVec 128) := []
  /-- Precondition descriptor table, 16 entries (R142). -/
  preTab : Tbl (BitVec 128) := []
  /-- Signal counters 0–31 (R135, R160). -/
  sigs : Tbl Nat := []
  /-- Instruction queues 0–3. -/
  queues : Tbl Queue := []
  /-- Tap slots 0–15. -/
  slots : Tbl TapSlot := []
  /-- Tap store, 64 pages of 1,024 FP32 values (R162). -/
  pages : Tbl (List W32) := []
  /-- Taken samples of the sub-tile of each page (R166). -/
  counts : Tbl Nat := []
  /-- Samples in the latch that wait for their panel update, in order (R166, R181). -/
  latch : List TapSample := []
  /-- Shares that have arrived for the staging rings and are not consumed (03 R87, R88). -/
  shares : List Share := []
  /-- Live map of the tile store, bit i for region i (R110). -/
  live : BitVec 256 := 0
  /-- The tile of the context arrived at this Milestone, the highest so far (R139). -/
  arrivedAt : Option Nat := none
deriving DecidableEq, Repr

/-! ### A tile -/

/-- Sub-states of a tile that is ON (16_power_clocks Table 16.4). -/
inductive TileSub where
  | run | clockStopped | retained
deriving DecidableEq, Repr

/-- The five scalar registers of a counter: selection, count, overflow, snapshot, snapshot overflow
(17_counters_trace R507 to R509), and whether a condition event held in the cycle before. -/
structure Counter where
  sel : W64 := 0
  count : Nat := 0
  ovf : Bool := false
  snap : Nat := 0
  snapOvf : Bool := false
deriving DecidableEq, Repr

/-- A queued write-back of a corrected 8-byte word or HBM burst (04_tile_store_vector R107,
11_memory_tiers R341): dropped when its line is written first. -/
structure WriteBack where
  addr : Nat
  data : Bytes
deriving DecidableEq, Repr

/-- The health of a stored code word: one bad bit, or uncorrectable; a word not listed is good. -/
inductive Health where
  | single | uncorrectable
deriving DecidableEq, Repr

/-- One physical tile: its power state, its store and its registers. -/
structure Tile where
  en : Enable := {}
  sub : TileSub := .run
  /-- The resident context, a Layby context while the tile is lent. -/
  resident : Option Nat := none
  /-- The primary context from which the tile is lent. -/
  lentFrom : Option Nat := none
  /-- Tile store, 4 MiB (04 R102). -/
  store : Mem := []
  /-- Bad 8-byte words, by word number (04 R106). -/
  ecc : Tbl Health := []
  /-- Queued correction write-backs (04 R107). -/
  wbacks : List WriteBack := []
  /-- The scrubber's next line (04 R108). -/
  scrubNext : Nat := 0
  /-- TILE_SHAPE_CTL (03 R97) and a write that waits for the next window boundary. -/
  shapeCtl : W32 := 0
  shapePend : Option W32 := none
  /-- Current-shaping level (03 R94), DUMMY_CYCLES, GAP_CYCLES, FILLING, RAMPING (03 R98). -/
  level : Nat := 0
  dummy : Nat := 0
  gap : Nat := 0
  filling : Bool := false
  ramping : Bool := false
  /-- TILE_RESIDUE_CTL (03 R99) and TILE_RESIDUE_LOG (03 R100). -/
  residueCtl : W32 := 0x20
  residueLog : W64 := 0
  /-- TILE_STORE_CTL (04 R122) and TILE_STORE_ECC_LOG (04 R123). -/
  storeCtl : W32 := 0x10A
  eccLog : W64 := 0
  /-- TILE_EXC_LOG (05 R157). -/
  excLog : W64 := 0
  /-- TAP_CTL in force and as written (06 R183), SEALED of TAP_STAT (06 R184), sealed pages being
  read out. -/
  tapSuspend : Bool := false
  tapCtl : W32 := 0
  tapSealed : Nat := 0
  /-- TILE_ERR_STATUS (13 R419) and TILE_FAULT_CNT (13 R420). -/
  errStatus : W32 := 0
  faultCnt : Nat := 0
  /-- Tile counters 0–7 (17 R498). -/
  counters : Tbl Counter := []
  /-- The FLL of the tile is locked (16 R469). -/
  fll : Bool := false
deriving DecidableEq, Repr

/-! ### Instructions and increments in flight (05 R134, R136) -/

/-- A matrix instruction on the array: its word, the captured descriptors of A, B, C and c₀ with the
values of their index registers (R141), the precondition descriptor, the stream rows taken so far, and
whether its root products have run (03 R85, R88). -/
structure MWork where
  word : BitVec 128
  descs : List (Nat × Nat)
  pre : Nat := 0
  rowsA : List Bytes := []
  rowsB : List Bytes := []
  rowsC : List Bytes := []
  shared : Bool := false
deriving DecidableEq, Repr

/-- What is left of an instruction that has issued. -/
inductive Work where
  /-- Nothing: the instruction may complete. -/
  | done
  /-- A transfer descriptor whose work is still to be done: held under R25, waiting for a page or a tile, or
  waiting for its collective. -/
  | post (desc : Bytes)
  /-- A move whose requests to the host or to a peer are out: those of its reads, or those of its writes. -/
  | moving (desc : Bytes) (writing : Bool)
  /-- A matrix instruction that the array has not run yet: it is behind another, its stream rows (KIND
  0x1) or the shares of its group have not all arrived. -/
  | matrix (m : MWork)
  /-- A RELEASE that waits for a running refresh of one of its entries to end (07 R195). -/
  | release (engine first count : Nat)
  /-- A REGISTER that waits until its identity roots are written on other devices: device, factor and block of each (07
  R194). -/
  | identities (l : List (Nat × Nat × Nat))
  /-- A TCFG that waits for the matrix instructions that name its slot: slot and binding (R145). -/
  | tcfg (slot : Nat) (binding : TapSlot)
deriving DecidableEq, Repr

/-- An instruction that has issued and not completed. -/
structure Flight where
  ctx : Nat
  vt : Nat
  queue : Nat
  /-- Its place among all that its queue has issued, and its issue sequence number (R155). -/
  seq : Nat
  num : Nat := seq
  step : Nat
  cls : Nat
  op : Nat
  flags : ExFlags := flNone
  poison : Bool := false
  suspect : Bool := false
  /-- Virtual tile and signal raised at completion. -/
  sig : Option (Nat × Nat) := none
  /-- Fragments that no reduction buffer has accepted or discarded yet (R227). -/
  frags : Nat := 0
  /-- A posted transfer descriptor (R148) and its status word: address and value. -/
  posted : Bool := false
  statusAt : Option Nat := none
  status : Nat := 0
  work : Work := .done
  /-- Tap slots the instruction names (R145). -/
  slots : List Nat := []
  /-- Tap slots that have taken a sample of the instruction (06 R176). -/
  sampled : List Nat := []
  /-- The endpoint of a queue send or receive (10 R320). -/
  endpoint : Option Nat := none
deriving DecidableEq, Repr

/-- A signal increment on its way (R136): its target, its amount, and the instruction that raised it
(a source queue of 4 is the host's doorbell, which no instruction raised): `seq` is its issue sequence number, `ord` its
place among all that its queue has issued. -/
structure SigInc where
  ctx : Nat
  srcVt : Nat
  srcQ : Nat
  dstVt : Nat
  sig : Nat
  amount : Nat
  cls : Nat := 0
  op : Nat := 0
  seq : Nat := 0
  step : Nat := 0
  ord : Nat := 0
deriving DecidableEq, Repr

/-! ### Update on arrival (08) -/

/-- A fragment of an update, or an empty contribution (R226, Table 8.2). The elements are FP32 values
read exactly from the wire format. -/
structure Fragment where
  tid : Nat
  fidx : Nat
  mstone : Nat
  expect : Nat
  contrib : Nat := 1
  srank : Nat
  epoch : Nat
  suspect : Bool := false
  empty : Bool := false
  wire : Nat := 0
  /-- A reserved bit of the header is not zero. -/
  reserved : Bool := false
  elems : List W32 := []
deriving DecidableEq, Repr

/-- A contribution that waits at a tile's update-on-arrival unit: its job's context, the local
instruction that sent it (virtual tile, queue, sequence number), or the port and the VC2 credits that it
holds. -/
structure Contribution where
  ctx : Nat
  frag : Fragment
  sender : Option (Nat × Nat × Nat) := none
  port : Option (Nat × Nat × Nat) := none
deriving DecidableEq, Repr

/-- STATE of UOA_ENTRYn (R253). -/
inductive EntrySt where
  | free | accumulating | commitHold | paramWait | fetchStall | suspectHeld | applying | fixedWait
deriving DecidableEq, Repr

/-- A reduction-buffer entry (R227). -/
structure RbEntry where
  st : EntrySt := .free
  ctx : Nat := 0
  tid : Nat := 0
  fidx : Nat := 0
  mstone : Nat := 0
  elems : List W32 := []
  recv : Nat := 0
  /-- The lowest SRANK added, and every SRANK added (R229, 10 R313). -/
  low : Nat := 0xFFFF
  added : List Nat := []
  suspect : Bool := false
  /-- The entry has been sent to the mirror (10 R313). -/
  mirrored : Bool := false
  /-- Early contributions of a fixed-order tensor, not yet accepted (R227, R229). -/
  early : List Contribution := []
deriving DecidableEq, Repr

/-- One update-on-arrival unit: its entries, its waiting contributions in arrival order and
UOA_ERR_LOG (R252). -/
structure Uoa where
  entries : Tbl RbEntry := []
  waiting : List Contribution := []
  errLog : W64 := 0
deriving DecidableEq, Repr

/-- The update-on-arrival device block (08 R256 to R258). -/
structure UoaDev where
  /-- UOA_DIGEST_CTL as written and in force. -/
  digestCtl : W32 := 0
  period : Nat := 0
  /-- MISMATCH and LASTM of UOA_DIGEST_STAT. -/
  mismatch : Nat := 0
  lastM : Nat := 0
  /-- FORCED of UOA_WAYSIDE_STAT, and the forced fetches under way: context, TID and page. -/
  forced : Nat := 0
  stalls : List (Nat × Nat × Nat) := []
  /-- Those whose step has been discarded meanwhile: their moved record goes when the write-back is over (R259). -/
  discarded : List (Nat × Nat × Nat) := []
deriving DecidableEq, Repr

/-! ### Contexts and jobs (12, 08, 10, 13) -/

/-- A watch on a signal counter, and the agent slot that armed it (14 R441). -/
structure Watch where
  armed : Bool := false
  slot : Nat := 0
  vt : Nat := 0
  sig : Nat := 0
  repeats : Bool := false
  count : Nat := 0
deriving DecidableEq, Repr

/-- The place of a context in a job. -/
structure Job where
  /-- UOA_MSTONEc: the last Milestone completed (08 R254). -/
  mstone : Nat := 0
  /-- FAB_EPOCHc: the current epoch (09 R299). -/
  epoch : Nat := 0
  /-- The context address of the installed shard map; none while a joining device waits (12 R369). -/
  map : Option Nat := none
  /-- The failed devices of the derived map (13 R407, R408). -/
  failed : List Nat := []
  /-- Fragments held beyond the map's by rebuilding, by job rank of the holder: TID and index, in
  order (13 R410). -/
  rebuilt : Tbl (List (Nat × Nat)) := []
  /-- Fragments rebuilt on this device whose copy from the owner is not accepted yet (13 R410). -/
  awaiting : List (Nat × Nat) := []
  /-- Copies that this device owes its mirror: device, TID and index (13 R410). -/
  copies : List (Nat × Nat × Nat) := []
  /-- The step of the last Milestone has begun: R27 action (5) is not held (08 R247, 12 R383). -/
  begun : Bool := true
  /-- This device has arrived at the next Milestone; the ranks whose subtrees have arrived; the ranks under
  which its arrival has been sent; the agreement's completion has come (08 R242, R243; 09 R291). -/
  arrived : Bool := false
  childArr : List Nat := []
  sentArr : List Nat := []
  agreed : Bool := false
  /-- Tensors whose norm sums of the step are accepted (08 R235); the Milestone whose digest has been formed
  (08 R246); CHAT of the step is not formed yet; a resync is due (08 R247). -/
  norms : List Nat := []
  digest : Option Nat := none
  chatDue : Bool := false
  resync : Bool := false
deriving DecidableEq, Repr

/-- The load of a bundle (11 R353 to R358, R366). -/
structure Bundle where
  /-- STATE and CODE of HBM_BUNDLE_STATc. -/
  st : Nat := 0
  code : Nat := 0
  /-- The replacement step in progress. -/
  step : Option Nat := none
  /-- The signature has been verified; tensors carried. -/
  verified : Bool := false
  /-- Chunks processed, in order, and layers live. -/
  done : Nat := 0
  live : Nat := 0
  /-- CHUNK. -/
  chunk : Nat := 0
deriving DecidableEq, Repr

/-- Recovery of the job of a context (13 R402 to R417). -/
structure Recov where
  /-- PHASE, CAUSE, ATTEMPT and LEAD of AON_REC_STATc (R424). -/
  phase : Nat := 0
  cause : Nat := 0
  attempt : Nat := 0
  lead : Nat := 0xFFFF
  /-- Causes raised and not yet entered: cause and subject (R402). -/
  raised : List (Nat × Nat) := []
  /-- FAILs known in this recovery: attempt, cause, origin and subject. -/
  fails : List (Nat × Nat × Nat × Nat) := []
  /-- ALIVEs received: attempt, device and MST; the view once formed (R403). -/
  alive : List (Nat × Nat × Nat) := []
  view : Option (List Nat) := none
  /-- The failed set F, carried over attempts (R403, R406). -/
  fset : List Nat := []
  /-- The PROPOSE payload accepted, by lead's rank; whether it is this device's own (R405). -/
  proposal : Option (Nat × Bytes) := none
  accepts : List Nat := []
  /-- AON_DIAG_ATc and the first digest (R417). -/
  diagAt : Nat := 0
  diagDigest : Option Bytes := none
  diagSecond : Option Bytes := none
  /-- Attempts of the step in flight (R415). -/
  attempts : Nat := 1
  /-- The steps in which a reduction collective was posted without FIXED, and the digests of host moves by
  step, virtual tile, queue and sequence number (R416). -/
  unfixed : List Nat := []
  inputs : List (Nat × Nat × Nat × Nat × Bytes) := []
  /-- Step records, most recent first (R415). -/
  records : List Bytes := []
  /-- Joinable peers that have been reported to the recovery agent (09 R272). -/
  joinable : List Nat := []
deriving DecidableEq, Repr

/-- What a tensor-scaled tensor held in a step (02 R53), known by the place of its exponent byte T, a virtual tile and
an address in its store (05 Table 5.4): the E8M0 code of the largest finite magnitude, none while it is zero, and the
NaNs and infinities met. -/
structure Held where
  step : Nat
  vt : Nat
  saddr : Nat
  code : Option Nat := none
  bad : Nat := 0
deriving DecidableEq, Repr

/-- A context id, admitted or free. -/
structure Ctx where
  en : Enable := {}
  /-- The 512-byte descriptor (12 Table 12.1) and the 512-entry segment table (11 R340). -/
  desc : Bytes := []
  segs : Bytes := []
  /-- The tile map: entry v is the physical tile of virtual tile v (05 R128). -/
  map : List Nat := []
  /-- The agent slot that owns the context (14 R438). -/
  owner : Option Nat := none
  /-- The last deadline that has arrived for the engines (07 R207). -/
  deadline : Nat := 0
  /-- The use stamp (12 R373), and the stamp of the admission. -/
  stamp : Nat := 0
  born : Nat := 0
  /-- A destroy waits for the start, or for the work in flight, to end (12 R374). -/
  ending : Bool := false
  /-- Queues are held as at a takeover until RESUME (13 R412). -/
  held : Bool := false
  job : Option Job := none
  recov : Recov := {}
  /-- The Switchback step in progress and the PERMUTEs of its epoch that have completed (10 R328, R330). -/
  switchStep : Option Nat := none
  permutes : Nat := 0
  /-- CODE of FAB_SMAP_STATc (10 R333), FAB_SWITCH_ADDRc (R334) and FAB_SWITCH_ATc (R335). -/
  smapCode : Nat := 0
  switchAddr : W64 := 0
  switchAt : Nat := 0
  /-- HEAD and TAIL of HBM_WCMDc (11 R364), commands under way, and pages whose fetch waits for its frame or
  whose rest waits for the next Milestone (11 R349, R350): TID and page, for a fetch whether a command
  started it. -/
  wHead : Nat := 0
  wTail : Nat := 0
  wRuns : List Nat := []
  wFetches : List (Nat × Nat × Bool) := []
  wRests : List (Nat × Nat) := []
  /-- HBM_BUNDLE_ADDRc and HBM_BUNDLE_ATc (11 R365). -/
  bundleAddr : W64 := 0
  bundleAt : Nat := 0
  bundle : Bundle := {}
  /-- Local fragments applied or logged for the step in progress: TID and ordinal (11 R349). -/
  applied : List (Nat × Nat) := []
  /-- What the job's tensor-scaled tensors held in the steps not yet completed, and the NaNs and infinities counted
  for each scale record, by its address (02 R53; log 72). -/
  heldScales : List Held := []
  scaleBad : Tbl Nat := []
  /-- Blocks marked dirty and not posted since: factor and block (07 R199). -/
  dirtyBlocks : List (Nat × Nat) := []
  watches : Tbl Watch := []
  /-- Doorbells held while the context is not resident (14 R441). -/
  doorbells : List (Nat × Nat × Nat) := []
deriving DecidableEq, Repr

/-! ### HBM (11) -/

/-- STATE of HBM_STACKn_STAT (11 R362). -/
inductive StackSt where
  | training | active | selfRefresh | lost
deriving DecidableEq, Repr

/-- One HBM stack. -/
structure Stack where
  st : StackSt := .training
  cause : Nat := 0
  temp : Nat := 0
  odecc : Nat := 0
  ce : Nat := 0
  ue : Nat := 0
  /-- Uncorrectable reads in the current scrub pass (11 R344) and the scrubber's next chunk. -/
  ueInPass : Nat := 0
  scrubNext : Nat := 0
deriving DecidableEq, Repr

/-- The HBM subsystem. -/
structure Hbm where
  /-- Contents by device byte address (11 R339). -/
  mem : Mem := []
  /-- Bad 32-byte bursts by burst number (11 R341). -/
  ecc : Tbl Health := []
  /-- Contents and bad bursts of the stacks that HBM_LAYOUT leaves out, by their place in the stack (11 R339, 18 R516). -/
  aside : Mem := []
  asideEcc : Tbl Health := []
  wbacks : List WriteBack := []
  /-- HBM_CTL (11 R359), HBM_LAYOUT (11 R360), HBM_ECC_LOG (11 R361). -/
  ctl : W32 := 0x0010010C
  layout : W64 := 0x0000001FFF0C388D
  eccLog : W64 := 0
  stackTbl : Tbl Stack := []
  /-- HBM_LEND0–15 and HBM_LEND_JOB0–15 (11 R363). -/
  lend : Tbl W64 := []
  lendJob : Tbl Nat := []
deriving DecidableEq, Repr

/-! ### Fabric (09, 10) -/

/-- A stage-queue endpoint (10 R319 to R323, R336). -/
structure Endpoint where
  valid : Bool := false
  receiver : Bool := false
  stalled : Bool := false
  ctx : Nat := 0
  qidx : Nat := 0
  /-- DEPTH of the queue entry (10 Table 10.9). -/
  depth : Nat := 0
  /-- Sends counted and credits returned (sender); slots written and receives completed (receiver). -/
  sends : Nat := 0
  credits : Nat := 0
  /-- The counts recorded at the last Milestone (R323). -/
  sendsAt : Nat := 0
  creditsAt : Nat := 0
  /-- HIGH (R336). -/
  high : Nat := 0
deriving DecidableEq, Repr

/-- A frame that waits to be sent on a port: the port, the virtual channel and the credits of the receive buffer that it
still occupies (09 R264), and whether it waits in the second sub-channel of its virtual channel (09 R265). -/
structure TxFrame where
  frame : Frame
  holds : Option (Nat × Nat × Nat) := none
  second : Bool := false
deriving DecidableEq, Repr

/-- A frame in the replay buffer, as it went on the line and as it was before a version 1 link took its job away (09
R273), and how often it has been resent (09 R266, R267). -/
structure Sent where
  frame : Frame
  orig : Frame
  resent : Nat := 0
deriving DecidableEq, Repr

/-- A fabric port (09 R260 to R275, Tables 9.16 to 9.18). -/
structure Port where
  en : Enable := {}
  /-- FAB_PORTn_CTL without EN: MODE, AN, FORCE_V1. -/
  ctl : W32 := 0x20
  /-- MODE, AN, FORCE_V1 and FAB_CTL as they were at the last start (R296, R300). -/
  runCtl : W32 := 0x20
  runFab : W32 := 0x88B50001
  /-- The PLL is locked (16 R469). -/
  pll : Bool := false
  up : Bool := false
  lost : Bool := false
  ver : Nat := 0
  dir : Nat := 7
  missed : Nat := 0
  peer : Nat := 0xFFFF
  retries : Nat := 0
  /-- Send credits held for VC0 to VC3, and credits to return. -/
  cred : Tbl Nat := []
  owed : Tbl Nat := []
  /-- BEAT of the next HELLO. -/
  beat : Nat := 0
  /-- The next LSEQ to send, and the LSEQ expected. -/
  txSeq : Nat := 0
  rxSeq : Nat := 0
  replay : List Sent := []
  /-- A NAK has been sent and the frame it asks for has not come (R266). -/
  naked : Bool := false
  retraining : Bool := false
  failedRetrains : Nat := 0
  waiting : List TxFrame := []
deriving DecidableEq, Repr

/-- The bytes of one input of a collective: the rank it comes from, its byte offset and its bytes. -/
structure Piece where
  rank : Nat
  offset : Nat
  bytes : Bytes
deriving DecidableEq, Repr

/-- A collective in progress on this device (09 R283 to R294). -/
structure Coll where
  /-- The instruction that posted it. -/
  ctx : Nat
  vt : Nat
  queue : Nat
  seq : Nat
  /-- The rank under which it is posted (13 R408), its descriptor and CSEQ. -/
  rank : Nat
  desc : Bytes
  cseq : Nat
  /-- The flow entry, none on the management-assisted path (R293, R294). -/
  entry : Option Nat
  /-- On the management-assisted path and not begun yet. -/
  queued : Bool := false
  /-- Its first messages have gone out. -/
  begun : Bool := false
  /-- Inputs toward a root or from a peer, in arrival order, and data or replies that came away from a root. -/
  up : List Piece := []
  down : List Piece := []
  /-- Chunks whose sum has been sent or written, by root rank and number; those for which the parent has granted a
  credit; and those for which a child has been granted one, with its rank (09 R279, R280). -/
  summed : List (Nat × Nat) := []
  grants : List (Nat × Nat) := []
  granted : List (Nat × Nat × Nat) := []
  /-- What was read of the source, and of the table, at the post. -/
  own : Bytes := []
  table : Bytes := []
  /-- Part of the source or the table was read from an uncorrectable word (04 R106). -/
  ue : Bool := false
  /-- Ragged exchanges: the replies of admitted counts are sent; the data is sent. -/
  replied : Bool := false
  sent : Bool := false
  /-- Bytes received and written (PERMUTE, and the data that every member receives). -/
  got : Nat := 0
  e2eFail : Bool := false
deriving DecidableEq, Repr

/-- A flow entry held by a stream (09 R288). -/
structure Stream where
  ctx : Nat
  vt : Nat
  /-- The sending side. -/
  sends : Bool
  queue : Nat
  seq : Nat
  peer : Nat
  /-- The flow index at the receiver, ring or source address, in HBM or not, ring depth, row bytes, rows. -/
  flow : Nat
  addr : Nat
  hbm : Bool
  depth : Nat
  unit : Nat
  rows : Nat
  /-- Rows sent or received, rows consumed or known free, rows that the receiver has taken into its ring, bytes of the
  row that is arriving. -/
  done : Nat := 0
  freed : Nat := 0
  taken : Nat := 0
  partialRow : Bytes := []
  opened : Bool := false
  e2eFail : Bool := false
  /-- A row was read from an uncorrectable word (04 R106). -/
  ue : Bool := false
deriving DecidableEq, Repr

/-- A fragment being combined at a tree node (09 R281): the inputs received so far. -/
structure FragNode where
  ctx : Nat
  tid : Nat
  fidx : Nat
  mstone : Nat
  /-- The rank of the node in the contributor group, and whether its own contribution is in. -/
  rank : Nat
  own : Bool := false
  /-- The inputs, each with the rank from which it comes. -/
  inputs : List (Nat × Fragment) := []
  /-- The instruction whose contribution waits to be added, the children that have a credit, and the parent's own
  credit (09 R280). -/
  sender : Option (Nat × Nat × Nat) := none
  granted : List Nat := []
  go : Bool := false
deriving DecidableEq, Repr

/-- An accumulator of a field's reduction store, held for one chunk (09 R280): the field, the context, and the key of
the chunk. -/
structure RedAcc where
  field : Nat
  ctx : Nat
  key : List Nat
deriving DecidableEq, Repr

/-- One of the part's own reductions or exchanges on the control flows (09 R292), at the place of one rank of this
device: its kind, its key, that rank, its own contribution, for each input received the rank it comes from, its lowest
rank and data, whether the sum has gone toward the root and has been accepted there, and the result. -/
structure Control where
  ctx : Nat
  kind : Nat
  key : List Nat
  rank : Nat := 0
  own : Option Bytes := none
  inputs : List (Nat × Nat × Bytes) := []
  sent : Bool := false
  accepted : Bool := false
  result : Option Bytes := none
deriving DecidableEq, Repr

/-- Bytes of a FRAG transfer of more than one frame that have arrived (09 R281). -/
structure FragRx where
  src : Nat
  job : Nat
  flow : Nat
  vc : Nat
  bytes : Bytes
  bad : Bool
  /-- Credits that its frames occupy, and the port of the last of them. -/
  credits : Nat
  port : Nat := 24
deriving DecidableEq, Repr

/-- The fabric block. -/
structure Fab where
  /-- FAB_ID (09 R295) and FAB_CTL (09 R296). -/
  id : W32 := 0xFFFF0000
  ctl : W32 := 0x88B50001
  endpoints : Tbl Endpoint := []
  ports : Tbl Port := []
  /-- FAB_LOG (R298) and REFUSED of FAB_FLOW_STAT (R297). -/
  log : W64 := 0
  refused : Nat := 0
  /-- Streams by flow entry (R293). -/
  streams : Tbl Stream := []
  colls : List Coll := []
  /-- Posts made, by context, group and rank (R283). -/
  cseqs : List (Nat × Nat × Nat × Nat) := []
  /-- Frames held in receive buffers: for a later epoch or a later CSEQ (R276, R283), with their port. -/
  held : List (Nat × Frame) := []
  /-- Frames for which no port in their direction is UP. -/
  unrouted : List TxFrame := []
  /-- The accumulators of the four reduction stores that are held (09 R280). -/
  accs : List RedAcc := []
  /-- Frames that this device sent to itself. -/
  inbox : List Frame := []
  frags : List FragNode := []
  fragRx : List FragRx := []
  controls : List Control := []
  /-- EPOCH frames seen: job, SUB, NEW_EPOCH, ATTEMPT, ORIGIN and, for FAIL, SUBJECT (13 R401). -/
  seen : List (List Nat) := []
deriving DecidableEq, Repr

/-! ### Curvature and root solvers (06, 07) -/

/-- A sealed sub-tile on its way to an engine (06 R173): its tile and slot, its place in a factor block
in units of 32, its 1,024 sums and its count. -/
structure SubTile where
  ctx : Nat
  vt : Nat
  slot : Nat
  step : Nat
  fid : Nat
  block : Nat
  row : Nat
  col : Nat
  count : Nat
  suspect : Bool
  vals : List W32
deriving DecidableEq, Repr

/-- A queued post (07 R199). -/
structure Post where
  entry : Nat
  ctx : Nat
  fid : Nat
  block : Nat
  deadline : Nat
deriving DecidableEq, Repr

/-- A product of a refresh of n > 512: factors and destination among the five scratch matrices Â, X, M, T
and the work matrix (07 R212). -/
structure Prod where
  a : Nat
  b : Nat
  dst : Nat
deriving DecidableEq, Repr

/-- How far the root of a refresh has come to its members (07 R210). -/
inductive Dist where
  | none
  | sent (members : List Nat)
  | withdrawn (members : List Nat)
  | ended
deriving DecidableEq, Repr

/-- A running refresh (07 R199 to R210). -/
structure Refresh where
  post : Post
  /-- The structure entry as it stood at the start. -/
  entryB : Bytes
  n : Nat
  pcode : Nat
  method : Nat
  /-- Matrices Â, X, M, T and work, by number, in the panel store (n ≤ 512); those of a larger block lie in scratch. -/
  mats : Tbl (List (List W32)) := []
  /-- A warm start: M₀ is still to be tested under R203; whether it was used. -/
  warmTest : Bool := false
  warm : Bool := false
  /-- k, the last residual known and the iterate that has it (R204). -/
  k : Nat := 0
  resid : Option W32 := none
  latest : List (List W32) := []
  /-- The residual of the current M is still to be formed. -/
  pending : Bool := true
  /-- Products still to run on tiles, and the panels of the first one that are done. -/
  prods : List Prod := []
  panels : List Nat := []
  /-- The status once the refresh has stopped (Table 7.6), and the root it writes, as element codes. -/
  outcome : Option Nat := none
  root : List (List Nat) := []
  dist : Dist := .none
deriving DecidableEq, Repr

/-- An entry of the install list (07 R198): the slot header's context and address, its TAG, and the home
device of the root. -/
structure Install where
  ctx : Nat
  addr : Nat
  tag : Nat
  home : Nat
deriving DecidableEq, Repr

/-- A root solver engine. -/
structure Engine where
  en : Enable := {}
  ctl : W32 := 0x2000
  scratchBase : W64 := 0
  scratchSize : W32 := 0
  log : W64 := 0
  /-- Structure entries of 64 bytes, by index, and the context of each (R191). -/
  table : Tbl Bytes := []
  owner : Tbl Nat := []
  queue : List Post := []
  run : Option Refresh := none
  /-- Sub-tiles received and not summed (06 R174). -/
  subtiles : List SubTile := []
deriving DecidableEq, Repr

/-! ### Requests to the host and to peers (11 R345, 14 R443, R444) -/

/-- A part of an access to host memory or peer HBM that is under way: what it belongs to (moves: 0, virtual
tile, queue, sequence number, row; pages: 1, TID, page, fragment), its offset in the access, and its answer. -/
structure Remote where
  tag : Nat
  ctx : Nat
  key : List Nat
  off : Nat
  host : Bool
  write : Bool
  len : Nat
  answered : Bool := false
  /-- It was answered with a refusal or ended in a transport error. -/
  failed : Bool := false
  data : Bytes := []
deriving DecidableEq, Repr

/-! ### Counters and trace (17) -/

/-- The device's counter and trace registers. -/
structure Cnt where
  /-- Chip counters 0–15 (R499). -/
  chip : Tbl Counter := []
  /-- CNT_CTL (SNAP_EN, SNAP_CTX, MANUAL) and CNT_SNAP_M (R510). -/
  ctl : W32 := 0
  snapM : Nat := 0
  /-- CNT_TRC_CTL, BASE, SIZE, PTR and STAT (R511). -/
  trcCtl : W64 := 0x0000FF0000000000
  trcBase : W64 := 0
  trcSize : W32 := 0
  head : Nat := 0
  tail : Nat := 0
  lost : Bool := false
  drops : Nat := 0
  /-- Records generated by each engine and by the device (Table 17.2 SEQ). -/
  srcSeq : Tbl Nat := []
deriving DecidableEq, Repr

/-! ### Host port (14) -/

/-- An event of Table 14.6 with its number on the slot, and the DROPPED that it carries. -/
structure Event where
  num : Nat
  code : Nat
  ctx : Nat
  payload : Bytes
  lost : Nat := 0
deriving DecidableEq, Repr

/-- A response to an NCP request: its type and tag, status, context byte and payload (14 Table 14.3). -/
structure Reply where
  ty : Nat
  tag : Nat
  status : Nat
  ctx : Nat
  payload : Bytes
deriving DecidableEq, Repr

/-- An agent slot (14 R434 to R438, R442, R449). -/
structure AgentSlot where
  /-- STATE of HOST_AGENTa: 0 free, 1 pending, 2 attached; ADMIN and SESSION. -/
  st : Nat := 0
  admin : Bool := false
  session : Nat := 0
  /-- The session key, the transcript hash X, the agent's public key, and where responses go. -/
  key : Bytes := []
  transcript : Bytes := []
  agentKey : Bytes := []
  src : Nat := 0
  /-- H, and the last 256 tags executed with the responses cached for them (R435). -/
  high : Nat := 0
  cache : List (Nat × Option Reply) := []
  nextEvent : Nat := 1
  events : List Event := []
  /-- Events lost since the last one delivered, and DROPPED of HOST_AGENTa. -/
  lostEvents : Nat := 0
  dropped : Nat := 0
deriving DecidableEq, Repr

/-- A request that is answered later: its slot, session, tag and type, and the context that it names (14
R440). -/
structure Deferred where
  slot : Nat
  session : Nat
  tag : Nat
  ty : Nat
  ctx : Nat
deriving DecidableEq, Repr

/-- A host region (14 R443, R444). -/
structure Region where
  slot : Nat
  qpn : Nat
  rkey : Nat
  base : Nat
  len : Nat
  access : Nat
  /-- Removal waits for the descriptors in flight that name it. -/
  removing : Bool := false
deriving DecidableEq, Repr

/-- A packet sent as requester and not acknowledged: its tag among the requests and its retries. -/
structure RdmaSent where
  pkt : Rdma
  tag : Nat
  retries : Nat := 0
deriving DecidableEq, Repr

/-- A reliable connected queue pair (14 R443). -/
structure Qp where
  slot : Nat
  peerQpn : Nat
  gid : Nat
  mtu : Nat
  txPsn : Nat
  rxPsn : Nat
  /-- The rate, in units of 1/65,536 of the line rate. -/
  rate : Nat := 65536
  sent : List RdmaSent := []
deriving DecidableEq, Repr

/-- A window or context that HBM_MAP has opened to an agent's RDMA operations (14 R445). -/
structure HbmMap where
  slot : Nat
  /-- KIND 1; else the context. -/
  staging : Bool
  ctx : Nat
  base : Nat
  len : Nat
  isOpen : Bool := true
deriving DecidableEq, Repr

/-- The host port. -/
structure HostPort where
  en : Enable := {}
  /-- HOST_CTL without EN and MODE, MODE, and MODE and the PFC fields as they were at the last start (R446). -/
  ctl : W64 := 0x6E63000007AE0300
  mode : Nat := 0
  runMode : Nat := 0
  runPfc : Nat := 0
  want : Bool := true
  /-- The port's PLL, LINK, SPEED and DAD_FAIL (R447). -/
  pll : Bool := false
  link : Bool := false
  speed : Nat := 0
  dadFail : Bool := false
  fcsErr : Nat := 0
  dup : Nat := 0
  authFail : Nat := 0
  /-- HOST_IP_HI and HOST_IP_LO, the static address in use, and the one under duplicate address detection
  (R431, R448). -/
  ipHi : W64 := 0
  ipLo : W64 := 0
  addr : Option Nat := none
  tentative : Option Nat := none
  /-- Transmission on PFC_PRIO is paused (R430). -/
  paused : Bool := false
  /-- RoCEv2 packets that wait for the pause to end. -/
  heldTx : List Rdma := []
  slots : Tbl AgentSlot := []
  deferred : List Deferred := []
  regions : Tbl Region := []
  qps : Tbl Qp := []
  maps : Tbl HbmMap := []
  /-- Events of unowned contexts (14 R442): code, context, payload. -/
  unowned : List (Nat × Nat × Bytes) := []
deriving DecidableEq, Repr

/-! ### Contexts as a block (12 R376 to R391) -/

/-- The counts of a client (12 R385, R391). -/
structure Client where
  admitted : Nat := 0
  completed : Nat := 0
  refused : Nat := 0
deriving DecidableEq, Repr

/-- The CTX_ block (12 R386 to R391). -/
structure CtxBlock where
  ctl : W32 := 0x00171000
  evicted : Nat := 0
  refused : Nat := 0
  hits : Nat := 0
  log : W64 := 0
  /-- The use counter (R373) and the switches asked for and not done, by incoming context (R376). -/
  uses : Nat := 0
  switches : List Nat := []
  clients : Tbl Client := []
deriving DecidableEq, Repr

/-! ### Management domain, boot and fuses (13, 15) -/

/-- The AON_ block apart from what belongs to a job (13 R421 to R427). -/
structure Aon where
  recCtl : W32 := 0x05EC4400
  /-- What is in force of AON_REC_CTL: a write applies from the next attempt or Milestone (13 R421; DEDUCED, log 116). -/
  recRun : W32 := 0x05EC4400
  /-- WD_EXP, EN and EXPIRED of AON_WDOG, and the slow cycles counted since the last restart. -/
  wdExp : Nat := 0x16
  wdEn : Bool := false
  expired : Bool := false
  wdCount : Nat := 0
  /-- FENCED of AON_FENCE0–3, bit p for tile p. -/
  fence : BitVec 256 := 0
  srecSel : W32 := 0
  /-- The device has declared itself failed (R394). -/
  failed : Bool := false
deriving DecidableEq, Repr

/-- An entry of the agent-key table (15 Table 15.6). -/
structure AgentFuse where
  hash : Bytes := []
  valid : Bool := false
  admin : Bool := false
  revoked : Bool := false
deriving DecidableEq, Repr

/-- The fuse array (15 Table 15.6). PARITY is held as whether it agrees with the other fields, since the spec
gives no code. DESIGN CHOICE, log 5. -/
structure Fuses where
  lifecycle : Nat := 1
  secret : Bytes := []
  helper : Bytes := []
  idkHash : Bytes := []
  fwKeys : Tbl Bytes := []
  fwRevoke : Nat := 0
  svn : Nat := 0
  agents : Tbl AgentFuse := []
  mac : Nat := 0
  parityOk : Bool := true
deriving DecidableEq, Repr

/-- A firmware fetch: the slot that holds it, the header, NEXT and the body so far (15 R454). -/
structure FwFetch where
  slot : Nat
  header : Bytes
  body : Bytes := []
deriving DecidableEq, Repr

/-- The boot and security state (15 R451 to R465). -/
structure Sec where
  stage : Nat := 0
  lastFail : Nat := 0
  fails : Nat := 0
  /-- FW_KEY, and the first 128 bytes of the header of the running image. -/
  fwKey : Nat := 0
  header : Bytes := []
  imem : Bytes := []
  fetch : Option FwFetch := none
  /-- The fuses locked against reading, the identity public key, FW_REVOKE and SVN as this boot found them
  (R457, R458, R465). -/
  locked : Bool := false
  idk : Bytes := []
  bootRevoke : Nat := 0
  bootSvn : Nat := 0
  /-- SEC_FUSE_DATA0–7, TARGET of SEC_FUSE_CTL, the target and data of the programming that runs (BUSY), and ERR
  (R465). -/
  fuseData : Tbl W64 := []
  target : Nat := 0
  prog : Option (Nat × Bytes) := none
  err : Nat := 0
  /-- The capability entries are linked (19 R536). -/
  linked : Bool := false
deriving DecidableEq, Repr

/-! ### Power and board (16, 20) -/

/-- A filtered board input (16 R478): its level and its accepted level, high being deasserted. -/
structure Pin where
  level : Bool := false
  accepted : Bool := false
deriving DecidableEq, Repr

/-- The PMC_ block and the always-on domain (16 R470 to R494, 20 R545 to R552). -/
structure Pmc where
  /-- VDD_AON is within limits; power-on has completed; watched rails below their thresholds, by row of 20
  Table 20.2. -/
  aon : Bool := true
  powered : Bool := true
  low : List Nat := []
  rst : Pin := {}
  thr : Pin := {}
  rstGlitch : Nat := 0
  thrGlitch : Nat := 0
  thrTime : Nat := 0
  smbAddr : Nat := 0
  dvfsCtl : W32 := 0x13880030
  /-- CHANGES; POINT; the faster point that a raise waits for; the caps; the VID code. -/
  changes : Nat := 0
  point : Nat := 0
  raising : Option Nat := none
  thermCap : Nat := 0
  pwrCap : Nat := 0
  vid : Nat := 0
  sleepCtl : W32 := 0x00110C00
  deep : Bool := false
  deepState : Nat := 0
  tileEn : BitVec 256 := BitVec.allOnes 256
  engEn : Nat := 0xFFFF
  limitCtl : W64 := 0x0E100BB800000064
  trip : Bool := false
  pwr1s : Nat := 0
  pwr10ms : Nat := 0
  hot : Nat := 0
  tmax : Nat := 0
  /-- Last readings in 1/8 °C, 16 bits; the sensors that read 115 °C or above in the last sample. -/
  temps : Tbl Nat := []
  hotNow : List Nat := []
  /-- Two consecutive samples have read a sensor at 115 °C or above (R484). -/
  tripDue : Bool := false
  /-- Samples since the thermal cap moved and samples in a row at or below LIM − 3 °C; likewise for the power
  cap and 95 % of the limits. -/
  thermAge : Nat := 100
  coolRun : Nat := 0
  pwrAge : Nat := 100
  lowRun : Nat := 0
  boardLimit : Nat := 0
  /-- PLLs that run and are locked: fields, tile groups, by bit. -/
  fieldPll : Nat := 0
  groupPll : Nat := 0
  /-- Every clock but the always-on domain's is stopped. -/
  stopped : Bool := true
  /-- The bytes that ECHO holds (18 R518). -/
  echo : Bytes := []
deriving DecidableEq, Repr

/-! ### Test and calibration (18) -/

/-- A loop-back register (18 R526, R527). -/
structure LoopBack where
  run : Bool := false
  done : Bool := false
  refused : Bool := false
  depth : Nat := 0
  dur : Nat := 0x14
  errors : Nat := 0
  corr : Nat := 0
  src : Nat := 0
  dst : Nat := 0
  /-- A RUN waits for the port to be OFF (R514); the port's EN while the run keeps it from acting. -/
  waits : Bool := false
  want : Bool := false
  /-- DEPTH as it stood when the run was asked for. -/
  runDepth : Nat := 0
deriving DecidableEq, Repr

/-- A droop sensor: EVENTS, THRESH, and whether the group's core cycle is lengthened (18 R521, R529). -/
structure Droop where
  events : Nat := 0
  thresh : Nat := 0
  long : Bool := false
deriving DecidableEq, Repr

/-- STEPS, MARGIN and PC of TST_HBM_EYEs (18 R529). -/
structure Eye where
  steps : Nat := 0
  margin : Nat := 0
  pc : Nat := 0
deriving DecidableEq, Repr

/-- FAULT and OFFSET of TST_THERMs (18 R529). -/
structure Therm where
  fault : Bool := false
  offset : Int := 0
deriving DecidableEq, Repr

/-- The TST_ block, the calibrated settings and the test access port (18 R513 to R529). -/
structure Tst where
  ports : Tbl LoopBack := []
  hbms : Tbl LoopBack := []
  mesh : LoopBack := {}
  calCtl : W32 := 0
  sd : Tbl W64 := []
  eyes : Tbl Eye := []
  droop : Tbl Droop := []
  therm : Tbl Therm := []
  /-- Read delay of each DQ byte in 1/64 UI, by 1,024 · stack + 32 · pseudo-channel + byte; receive settings of
  each lane, by 4 · port + lane. -/
  delays : Tbl Int := []
  adapt : Tbl Nat := []
  /-- The instruction register (R524). -/
  ir : Nat := 0x01
deriving DecidableEq, Repr

/-! ### The whole state -/

/-- What the part sends to the world, first sent first. DESIGN CHOICE, log 9. -/
inductive Out where
  /-- A Causeway frame on a fabric port. -/
  | frame (port : Nat) (f : Frame)
  /-- An NCP event to an agent slot: code, context, payload with DROPPED, event number. -/
  | event (slot num code ctx lost : Nat) (payload : Bytes)
  /-- A RoCEv2 packet on the host port. -/
  | rdma (p : Rdma)
  /-- An NCP response to an agent: where it goes, its slot, session and tag, its authentication tag. -/
  | reply (dst slot session : Nat) (r : Reply) (mac : Bytes)
  /-- An LLDPDU: its TLVs as bytes (14 R432). -/
  | lldp (data : Bytes)
  /-- A neighbour advertisement for, or an ICMPv6 echo reply from, one of the part's addresses. -/
  | advert (addr : Nat)
  | echoReply (addr : Nat) (data : Bytes)
  /-- Bytes that the SMBus target returns. -/
  | smbus (data : Bytes)
  /-- A value shifted out of the test access port, and its length in bits. -/
  | jtag (bits value : Nat)
deriving DecidableEq, Repr

/-- The part. -/
structure State where
  /-- The commands that wait, first in, first out. -/
  pending : List Instr := []
  /-- Tiles by physical id (01 R17). -/
  tiles : Tbl Tile := []
  /-- The state of Table 5.1, by 256 · context + virtual tile. -/
  tctx : Tbl TileCtx := []
  /-- Instructions in flight, in issue order. -/
  flight : List Flight := []
  /-- Signal increments in flight. -/
  sigs : List SigInc := []
  /-- Update-on-arrival units by physical tile. -/
  uoas : Tbl Uoa := []
  uoaDev : UoaDev := {}
  /-- Contexts by id. -/
  ctxs : Tbl Ctx := []
  /-- Root solver engines 0–15, the install list, and TAP_FOLD_LOG (06 R186). -/
  engines : Tbl Engine := []
  installs : List Install := []
  foldLog : W64 := 0
  fab : Fab := {}
  /-- Requests under way, and the tag of the next one. -/
  remotes : List Remote := []
  nextTag : Nat := 0
  hbm : Hbm := {}
  cnt : Cnt := {}
  host : HostPort := {}
  ctxBlk : CtxBlock := {}
  aon : Aon := {}
  fuses : Fuses := {}
  sec : Sec := {}
  pmc : Pmc := {}
  tst : Tst := {}
  out : List Out := []
  /-- The model's own field: the number of free values drawn so far. -/
  free : Nat := 0
deriving DecidableEq, Repr

/-- Why the part stops for good. -/
inductive Fault where
  /-- The board breaches a requirement for which the spec names no consequence: the behaviour is not
  specified (20_electrical_package R549). Raised by the commands of the supplies; safe. -/
  | boardBreach
deriving DecidableEq, Repr

/-- Why a command is refused. -/
inductive Refusal where
  /-- No meaning yet: raised by exec's arms of commands that are not modelled; safe. -/
  | notModelled (mnemonic : String)
deriving DecidableEq, Repr

/-- The part right after reset: power-on has completed, every rail is in order, both board inputs are taken as
asserted, every function is OFF, the boot stage is RESET, and every register is at its reset value
(15_boot_security R451; 16_power_clocks R478, R480). No command waits. DESIGN CHOICE, log 4.
DESIGN CHOICE, log 5. -/
def State.reset : State := {}

end Sys2Proof.Machine
end

