-- ==== Sys2Proof/Machine/Ops.lean ====
section
/-! DEFINITION. The named operations over the state: accessors, tile store and HBM accesses with
their codes, events, trace records, signals and instruction exceptions. -/

namespace Sys2Proof.Machine

/-- The outcome of a command that goes on. -/
abbrev Res := Host.Outcome State Fault Refusal

/-! ### Accessors -/

/-- A physical tile. -/
def State.tile (s : State) (t : Nat) : Tile := Tbl.get {} s.tiles t
/-- A physical tile replaced. -/
def State.setTile (s : State) (t : Nat) (x : Tile) : State := { s with tiles := Tbl.set s.tiles t x }
/-- The key of a virtual tile of a context. -/
def tcKey (c v : Nat) : Nat := 256 * c + v
/-- The state of Table 5.1 of virtual tile `v` of context `c`. -/
def State.tc (s : State) (c v : Nat) : TileCtx := Tbl.get {} s.tctx (tcKey c v)
/-- That state replaced. -/
def State.setTc (s : State) (c v : Nat) (x : TileCtx) : State :=
  { s with tctx := Tbl.set s.tctx (tcKey c v) x }
/-- A context id. -/
def State.ctx (s : State) (c : Nat) : Ctx := Tbl.get {} s.ctxs c
/-- A context id replaced. -/
def State.setCtx (s : State) (c : Nat) (x : Ctx) : State := { s with ctxs := Tbl.set s.ctxs c x }
/-- A tile's update-on-arrival unit. -/
def State.uoa (s : State) (t : Nat) : Uoa := Tbl.get {} s.uoas t
/-- A tile's update-on-arrival unit replaced. -/
def State.setUoa (s : State) (t : Nat) (x : Uoa) : State := { s with uoas := Tbl.set s.uoas t x }
/-- A stack. -/
def State.stack (s : State) (k : Nat) : Stack := Tbl.get {} s.hbm.stackTbl k
/-- A stack replaced. -/
def State.setStack (s : State) (k : Nat) (x : Stack) : State :=
  { s with hbm := { s.hbm with stackTbl := Tbl.set s.hbm.stackTbl k x } }
/-- An agent slot. -/
def State.slot (s : State) (k : Nat) : AgentSlot := Tbl.get {} s.host.slots k
/-- An agent slot replaced. -/
def State.setSlot (s : State) (k : Nat) (x : AgentSlot) : State :=
  { s with host := { s.host with slots := Tbl.set s.host.slots k x } }
/-- An output appended. -/
def State.emit (s : State) (o : Out) : State := { s with out := s.out ++ [o] }
/-- A queue of a virtual tile. -/
def TileCtx.q (tc : TileCtx) (q : Nat) : Queue := Tbl.get {} tc.queues q
/-- A queue replaced. -/
def TileCtx.setQ (tc : TileCtx) (q : Nat) (x : Queue) : TileCtx :=
  { tc with queues := Tbl.set tc.queues q x }
/-- A queue of a virtual tile of a context. -/
def State.queue (s : State) (c v q : Nat) : Queue := (s.tc c v).q q
/-- A queue of a virtual tile of a context replaced. -/
def State.setQueue (s : State) (c v q : Nat) (x : Queue) : State :=
  s.setTc c v ((s.tc c v).setQ q x)
/-- An index register; I0 reads as 0 (Table 5.1). -/
def Queue.ireg (q : Queue) (i : Nat) : W32 := if i = 0 then 0 else Tbl.get 0 q.idx i
/-- An index register written; a write to I0 is ignored (Table 5.1). -/
def Queue.setIreg (q : Queue) (i : Nat) (v : W32) : Queue :=
  if i = 0 then q else { q with idx := Tbl.set q.idx i v }
/-- A signal counter. -/
def TileCtx.sig (tc : TileCtx) (n : Nat) : Nat := Tbl.get 0 tc.sigs n
/-- A signal counter replaced. -/
def TileCtx.setSig (tc : TileCtx) (n v : Nat) : TileCtx := { tc with sigs := Tbl.set tc.sigs n v }
/-- A vector register of 256 lanes. -/
def TileCtx.vreg (tc : TileCtx) (r : Nat) : List W32 :=
  Tbl.get (List.replicate 256 0) tc.vregs r
/-- A vector register replaced. -/
def TileCtx.setVreg (tc : TileCtx) (r : Nat) (v : List W32) : TileCtx :=
  { tc with vregs := Tbl.set tc.vregs r v }
/-- A tap slot. -/
def TileCtx.slot (tc : TileCtx) (n : Nat) : TapSlot := Tbl.get {} tc.slots n
/-- A tap slot replaced. -/
def TileCtx.setSlot (tc : TileCtx) (n : Nat) (x : TapSlot) : TileCtx :=
  { tc with slots := Tbl.set tc.slots n x }

/-- A free value drawn: a number that nothing constrains, and the state with the draw counted.
DESIGN CHOICE, log 8. -/
def State.draw (s : State) : Nat × State := (Config.freeNat s.free, { s with free := s.free + 1 })

/-- `n` free bytes. DESIGN CHOICE, log 8. -/
def State.freeBytes (s : State) (n : Nat) : Bytes × State :=
  ((List.range n).map fun i => Config.freeByte s.free i, { s with free := s.free + 1 })

/-! ### Context descriptors (12 Table 12.1) -/

/-- KIND: 0 primary, 1 Layby, 2 evaluation. -/
def Ctx.kind (x : Ctx) : Nat := recN x.desc 0 1
/-- Class W (FLAGS bit 0). -/
def Ctx.classW (x : Ctx) : Bool := bit (recN x.desc 1 1) 0
/-- PIN (FLAGS bit 1). -/
def Ctx.pin (x : Ctx) : Bool := bit (recN x.desc 1 1) 1
/-- JOIN (FLAGS bit 2). -/
def Ctx.join (x : Ctx) : Bool := bit (recN x.desc 1 1) 2
/-- LAYBY_EN (FLAGS bit 3). -/
def Ctx.laybyEn (x : Ctx) : Bool := bit (recN x.desc 1 1) 3
/-- CLIENT. -/
def Ctx.client (x : Ctx) : Nat := recN x.desc 2 1
/-- LAYBY, the Layby context lent to. -/
def Ctx.layby (x : Ctx) : Nat := fld (recN x.desc 3 1) 0 6
/-- PARENT of an evaluation. -/
def Ctx.parent (x : Ctx) : Nat := fld (recN x.desc 4 1) 0 6
/-- MODEL_ID. -/
def Ctx.modelId (x : Ctx) : Nat := recN x.desc 8 8
/-- JOB_SEED. -/
def Ctx.jobSeed (x : Ctx) : W64 := BitVec.ofNat 64 (recN x.desc 16 8)
/-- TILES. -/
def Ctx.tiles (x : Ctx) : Nat := recN x.desc 40 32
/-- PC0–PC3. -/
def Ctx.pc0 (x : Ctx) (q : Nat) : Nat := recN x.desc (72 + 8 * q) 8
/-- PROGRAM and PLEN. -/
def Ctx.program (x : Ctx) : Nat := recN x.desc 104 8
def Ctx.plen (x : Ctx) : Nat := recN x.desc 112 8
/-- SMAP. -/
def Ctx.smap (x : Ctx) : Nat := recN x.desc 120 8
/-- TRT_BASE, FRT_BASE, PARAM_BASE and GRT_BASE. -/
def Ctx.trt (x : Ctx) : Nat := recN x.desc 128 8
def Ctx.frt (x : Ctx) : Nat := recN x.desc 136 8
def Ctx.paramBase (x : Ctx) : Nat := recN x.desc 144 8
def Ctx.grt (x : Ctx) : Nat := recN x.desc 152 8
/-- WRT_BASE, WPT_BASE, WFT_BASE and WCR_BASE. -/
def Ctx.wrt (x : Ctx) : Nat := recN x.desc 160 8
def Ctx.wpt (x : Ctx) : Nat := recN x.desc 168 8
def Ctx.wft (x : Ctx) : Nat := recN x.desc 176 8
def Ctx.wcr (x : Ctx) : Nat := recN x.desc 184 8
/-- EVAL_AT. -/
def Ctx.evalAt (x : Ctx) : Nat := recN x.desc 192 8
/-- SAVE. -/
def Ctx.save (x : Ctx) : Nat := recN x.desc 200 8
/-- The context is admitted and ON. -/
def Ctx.on (x : Ctx) : Bool := x.en.st == .on
/-- The virtual tile id of a physical tile (05 R128). -/
def Ctx.vid (x : Ctx) (t : Nat) : Option Nat := indexOf? t x.map
/-- The physical tile of a virtual tile id. -/
def Ctx.phys (x : Ctx) (v : Nat) : Option Nat := x.map[v]?
/-- The last Milestone completed by the context's job, 0 without a job. -/
def Ctx.mstone (x : Ctx) : Nat := (x.job.map (·.mstone)).getD 0

/-- Milestone `m` has completed and the step that follows it has begun (05 R140; 01 R27 action (5)). -/
def Ctx.reached (x : Ctx) (m : Nat) : Bool :=
  decide (m < x.mstone) || (decide (m = x.mstone) && ((x.job.map (·.begun)).getD true))

/-- The primary for which a context works: the parent of an evaluation, whose tensor records it reads (12 R384),
else itself. -/
def State.weightsOf (s : State) (c : Nat) : Nat := if (s.ctx c).kind = 2 then (s.ctx c).parent else c

/-- The physical tile of a virtual tile of a context, its id when the map is gone. -/
def State.physD (s : State) (c v : Nat) : Nat := ((s.ctx c).phys v).getD v

/-! ### Counters (17 R495 to R500) -/

/-- An amount added to a count of 48 bits; a wrap sets OVF (R500). -/
def Counter.add (c : Counter) (amt : Nat) : Counter :=
  { c with count := (c.count + amt) % 2 ^ 48, ovf := c.ovf || decide (2 ^ 48 ≤ c.count + amt) }

/-- A tile counter counts this event of these owners (R498, R507). -/
def tileSelects (sel : W64) (e : Nat) (owners : List Nat) : Bool :=
  let n := sel.toNat
  bit n 31 && fld n 0 9 == e && (!bit n 29 || owners.contains (fld n 22 6))

/-- A chip counter counts this event of this unit and these owners (R499, R508). -/
def chipSelects (sel : W64) (e unit : Nat) (owners : List Nat) : Bool :=
  let n := sel.toNat
  bit n 63 && fld n 0 9 == e && (!bit n 61 || owners.contains (fld n 54 6))
    && (!bit n 53 || fld n 45 8 == unit)

/-- Event numbers of scope tile (Table 17.1). -/
def isTileEvent (e : Nat) : Bool := decide (e ≤ 0x20)

/-- The tile is ON and in RUN. -/
def Tile.runs (x : Tile) : Bool := x.en.st == .on && x.sub == .run

/-- A pulse event: `amt` occurrences of event `e` at unit `unit`, belonging to `owners` (R495 to
R499). -/
def State.ev (s : State) (e unit : Nat) (owners : List Nat) (amt : Nat := 1) : State :=
  let chip := s.cnt.chip.mapv (fun _ c => if chipSelects c.sel e unit owners then c.add amt else c)
  let s1 : State := { s with cnt := { s.cnt with chip := chip } }
  if isTileEvent e && (s.tile unit).runs then
    let x := s1.tile unit
    let own := x.counters.mapv (fun _ c => if tileSelects c.sel e owners then c.add amt else c)
    s1.setTile unit { x with counters := own }
  else s1

/-- The context for which a tile works (R497). -/
def State.tileOwner (s : State) (t : Nat) : List Nat := (s.tile t).resident.toList

/-- A pulse event of scope tile, belonging to the tile's resident context. -/
def State.evTile (s : State) (e t : Nat) (amt : Nat := 1) : State := s.ev e t (s.tileOwner t) amt

/-! ### HBM addressing and access (11 R339 to R344) -/

/-- Chunks of one stack (11 R339). -/
def hbmC : Nat := 17578125
/-- The usable stacks (11 R360). -/
def Hbm.usable (h : Hbm) : List Nat := (List.range 12).filter fun k => bit h.layout.toNat (25 + k)
/-- The bytes that the layout addresses. -/
def Hbm.capacity (h : Hbm) : Nat := 2048 * hbmC * h.usable.length

/-- Where a chunk of the field regions lands: stack and unit (R339). -/
def locateField (us : List Nat) (g r : Nat) : Nat → Nat × Nat
  | 0 => (0, 0)
  | n + 1 =>
    let f := 3 - n
    let fus := us.filter fun k => k / 3 == f
    let span := (us.filter fun k => decide (k / 3 < f)).length * (hbmC - g)
    let here := fus.length * (hbmC - g)
    if span ≤ r ∧ r < span + here then
      ((fus[(r - span) % fus.length]?).getD 0, g + (r - span) / fus.length)
    else locateField us g r n

/-- The stack, pseudo-channel and offset of a device address (R339). -/
def Hbm.locate (h : Hbm) (a : Nat) : Nat × Nat × Nat :=
  let us := h.usable
  let g := fld h.layout.toNat 0 25
  let c := a / 2048
  let b := a % 2048
  let p := if c < us.length * g then ((us[c % us.length]?).getD 0, c / us.length)
           else locateField us g (c - us.length * g) 4
  (p.1, b / 64, 64 * p.2 + b % 64)

/-- The health of a 32-byte burst: every burst of a lost stack is uncorrectable (R344). -/
def State.burstHealth (s : State) (k : Nat) : Option Health :=
  if (s.stack (s.hbm.locate (32 * k)).1).st == .lost then some .uncorrectable
  else Tbl.find s.hbm.ecc k

/-- An uncorrectable burst is met: HBM_UE, the stack's counts and HBM_ECC_LOG (R341, R361, R362). -/
def State.hbmUe (s : State) (scrub : Bool) (k : Nat) : State :=
  let l := s.hbm.locate (32 * k)
  let x := s.stack l.1
  let s1 := s.setStack l.1 { x with ue := satInc 16 x.ue, ueInPass := x.ueInPass + 1 }
  let entry := 2 ^ 63 + b2n scrub * 2 ^ 62 + l.1 * 2 ^ 58 + l.2.1 * 2 ^ 53 + l.2.2 / 32
  let log := if bit s1.hbm.eccLog.toNat 63 then s1.hbm.eccLog else BitVec.ofNat 64 entry
  let s2 : State := { s1 with hbm := { s1.hbm with eccLog := log } }
  s2.ev 0x071 l.1 []

/-- A corrected burst is met: HBM_CE, the stack's count and a queued write-back (R341, R107). -/
def State.hbmCe (s : State) (k : Nat) : State :=
  let l := s.hbm.locate (32 * k)
  let x := s.stack l.1
  let s1 := s.setStack l.1 { x with ce := satInc 16 x.ce }
  let s2 : State := { s1 with hbm := { s1.hbm with
    wbacks := s1.hbm.wbacks ++ [⟨32 * k, memReadBytes s1.hbm.mem (32 * k) 32⟩] } }
  s2.ev 0x070 l.1 []

/-- A read with its state, its bytes, and whether a word of it was uncorrectable. -/
structure Rd where
  s : State
  bytes : Bytes
  ue : Bool
deriving DecidableEq, Repr

/-- The bad bursts that `n` bytes at device address `a` touch. -/
def State.badBursts (s : State) (a n : Nat) : List (Nat × Health) :=
  let lost := (List.range 12).any fun k => (s.stack k).st == .lost
  if lost then
    (upTo (a / 32) ((a + n + 31) / 32 - a / 32)).filterMap fun k =>
      (s.burstHealth k).map fun h => (k, h)
  else s.hbm.ecc.filter fun e => decide (a / 32 ≤ e.1) && decide (32 * e.1 < a + n)

/-- `n` bytes read at a device address (R341). -/
def State.hbmRead (s : State) (a n : Nat) : Rd :=
  let bad := s.badBursts a n
  let s1 := bad.foldl (fun st e => match e.2 with
    | .single => st.hbmCe e.1
    | .uncorrectable => st.hbmUe false e.1) s
  ⟨s1, memReadBytes s.hbm.mem a n, bad.any fun e => e.2 == .uncorrectable⟩

/-- Bytes written at a device address: the codes of whole bursts are renewed; the merge read of a burst written in part
is counted when it is bad, and an uncorrectable burst stays so (R341); pending write-backs of the bursts are dropped
(R107). -/
def State.hbmWrite (s : State) (a : Nat) (bs : Bytes) : State :=
  let n := bs.length
  let whole (k : Nat) : Bool := decide (a ≤ 32 * k) && decide (32 * k + 32 ≤ a + n)
  let touch (k : Nat) : Bool := decide (a / 32 ≤ k) && decide (32 * k < a + n)
  let part := if n = 0 then [] else (s.badBursts a n).filter fun e => !whole e.1
  let s1 := part.foldl (fun st e => match e.2 with
    | .single => st.hbmCe e.1
    | .uncorrectable => st.hbmUe false e.1) s
  { s1 with hbm := { s1.hbm with
    mem := memWriteBytes s1.hbm.mem a bs
    ecc := s1.hbm.ecc.filter fun e => !touch e.1 || (!whole e.1 && e.2 == .uncorrectable)
    wbacks := s1.hbm.wbacks.filter fun w => !touch (w.addr / 32) } }

/-- Entry `i` of a context's segment table (R340, Table 11.2). -/
def Ctx.seg (x : Ctx) (i : Nat) : Nat := recN x.segs (8 * i) 8

/-- Segment `p` lies within some valid segment of a table. -/
def segWithin (p : Nat) (segs : Bytes) : Bool :=
  (List.range 512).any fun i =>
    let e := recN segs (8 * i) 8
    bit e 63 && decide (fld e 28 28 ≤ fld p 28 28)
      && decide (fld p 28 28 + fld p 0 28 ≤ fld e 28 28 + fld e 0 28)

/-- The translation of an access of `n` bytes at context address `a` (R340): the device address, none
when the access fails. A segment of an evaluation context within its parent's is read-only (12
R384). -/
def State.xlate (s : State) (c a n : Nat) (write : Bool) : Option Nat :=
  let x := s.ctx c
  let i := a / 2 ^ 30
  let o := a % 2 ^ 30
  let e := x.seg i
  if 512 ≤ i ∨ !bit e 63 ∨ 2048 * fld e 0 28 < o + n ∨ (write && !bit e 62)
      ∨ (write && x.kind == 2 && segWithin e (s.ctx x.parent).segs) then none
  else some (2048 * fld e 28 28 + o)

/-- A record of `n` bytes of a context read without its codes' events, none when it does not
translate. -/
def State.peek (s : State) (c a n : Nat) : Option Bytes :=
  (s.xlate c a n false).map fun d => memReadBytes s.hbm.mem d n

/-- A record read, zeros when it does not translate. -/
def State.peekD (s : State) (c a n : Nat) : Bytes :=
  (s.peek c a n).getD (List.replicate n 0)

/-- A context access that reads. -/
def State.ctxRead (s : State) (c a n : Nat) : Option Rd :=
  (s.xlate c a n false).map fun d => s.hbmRead d n

/-- The codes of data that are read: the events of their bad bursts (R341); `l` names addresses and lengths. What the part
reads for itself as a record or a table counts nothing (DEDUCED, log 115). -/
def State.meetCodes (s : State) (c : Nat) (l : List (Nat × Nat)) : State :=
  l.foldl (fun st r => match st.ctxRead c r.1 r.2 with
    | some rd => rd.s
    | none => st) s

/-- A context access that writes; nothing when it does not translate. -/
def State.ctxWrite (s : State) (c a : Nat) (bs : Bytes) : State :=
  match s.xlate c a bs.length true with
  | some d => s.hbmWrite d bs
  | none => s

/-! ### Trace (17 R504 to R506) -/

/-- The capacity of the ring in records (R504, R511). -/
def Cnt.capacity (k : Cnt) : Nat := 128 * (if k.trcSize.toNat = 0 then 1 else k.trcSize.toNat)

/-- A record of 32 bytes generated: written, dropped, or written over the oldest (R504, R506). -/
def State.traceWrite (s : State) (rec : Bytes) : State :=
  let k := s.cnt
  let cap := k.capacity
  let ctl := k.trcCtl.toNat
  let used := (k.head + 2 ^ 32 - k.tail) % 2 ^ 32
  let full := decide (cap ≤ used)
  if full && !bit ctl 62 then
    { s with cnt := { k with lost := true, drops := satInc 32 k.drops } }
  else
    match s.xlate (fld ctl 55 6) (k.trcBase.toNat + 32 * (k.head % cap)) 32 true with
    | none => { s with cnt := { k with
        trcCtl := BitVec.ofNat 64 (setFld (setFld ctl 63 1 0) 61 1 1) } }
    | some d =>
      let s1 := s.hbmWrite d rec
      let h := (k.head + 1) % 2 ^ 32
      { s1 with cnt := { s1.cnt with
          head := h
          tail := if full then (h + 2 ^ 32 - cap) % 2 ^ 32 else k.tail
          lost := k.lost || full
          drops := if full then satInc 32 k.drops else k.drops } }

/-- Record type `ty` concerning context `c` is traced (R504). -/
def Cnt.traces (k : Cnt) (ty c : Nat) : Bool :=
  let ctl := k.trcCtl.toNat
  bit ctl 63 && bit ctl ty && fld ctl 55 6 == c

/-- The bytes of a trace record (Table 17.2). -/
def traceBytes (mst seq src ty c : Nat) (data : Bytes) : Bytes :=
  leBytes 8 mst ++ leBytes 4 seq ++ leBytes 2 src ++ leBytes 1 ty ++ leBytes 1 c ++ sliceB data 0 16

/-- A record of a tile queue. -/
def State.traceTile (s : State) (ty c t q step seq : Nat) (data : Bytes) : State :=
  if s.cnt.traces ty c then s.traceWrite (traceBytes step seq (4 * t + q) ty c data) else s

/-- A record of an engine or of the device, numbered by its source. -/
def State.traceUnit (s : State) (ty : Nat) (cs : List Nat) (src mst : Nat) (data : Bytes) : State :=
  let k := s.cnt
  let c := fld k.trcCtl.toNat 55 6
  if k.traces ty c && cs.contains c then
    let n := Tbl.get 0 k.srcSeq src
    let s1 : State := { s with cnt := { k with srcSeq := Tbl.set k.srcSeq src ((n + 1) % 2 ^ 32) } }
    s1.traceWrite (traceBytes mst n src ty c data)
  else s

/-! ### Tile store access (04 R102 to R107) -/

/-- The size of a tile store. -/
def storeSize : Nat := 2 ^ 22

/-- A hard event on a tile (13 R397). -/
def State.hardEvent (s : State) (t : Nat) : State :=
  let x := s.tile t
  (s.setTile t { x with faultCnt := satInc 8 x.faultCnt }).evTile 0x014 t

/-- An uncorrectable word of a tile store is met by the requester of code `req` (R106, R123, 13
R397). -/
def State.storeUe (s : State) (t : Nat) (scrub : Bool) (req w : Nat) : State :=
  let x := s.tile t
  let held := bit x.errStatus.toNat 2
  let log := BitVec.ofNat 64 (2 ^ 63 + b2n scrub * 2 ^ 62 + req * 2 ^ 59 + 8 * w)
  let s1 := s.setTile t { x with
    eccLog := if held then x.eccLog else log
    errStatus := x.errStatus ||| 4 }
  (s1.evTile 0x00C t).hardEvent t

/-- A corrected word of a tile store is met (R106). -/
def State.storeCe (s : State) (t w : Nat) : State :=
  let x := s.tile t
  let s1 := s.setTile t { x with
    wbacks := x.wbacks ++ [⟨8 * w, memReadBytes x.store (8 * w) 8⟩] }
  s1.evTile 0x00B t

/-- A word that crossed the mesh to a tile is bad (13 R393): one bad bit is corrected and counted as R106 counts a
corrected word (DESIGN CHOICE, log 28); an uncorrectable word sets MESH_UE and is a hard event. -/
def State.meshWord (s : State) (t : Nat) (bad : Bool) : State :=
  if bad then
    let x := s.tile t
    ((s.setTile t { x with errStatus := x.errStatus ||| 2 }).evTile 0x013 t).hardEvent t
  else s.evTile 0x00B t

/-- The bad words that `n` bytes at address `a` touch. -/
def Tile.badWords (x : Tile) (a n : Nat) : List (Nat × Health) :=
  x.ecc.filter fun e => decide (a / 8 ≤ e.1) && decide (8 * e.1 < a + n)

/-- `n` bytes read from a tile store by the requester of code `req` (R106). -/
def State.storeRead (s : State) (t req a n : Nat) : Rd :=
  let x := s.tile t
  let bad := x.badWords a n
  let s1 := bad.foldl (fun st e => match e.2 with
    | .single => st.storeCe t e.1
    | .uncorrectable => st.storeUe t false req e.1) s
  ⟨s1, memReadBytes x.store a n, bad.any fun e => e.2 == .uncorrectable⟩

/-- Bytes written to a tile store by the requester of code `req` (R103, R106, R107): a write of part of a word reads
it first, which counts what is bad in it. -/
def State.storeWrite (s : State) (t req a : Nat) (bs : Bytes) : State :=
  let n := bs.length
  let whole (w : Nat) : Bool := decide (a ≤ 8 * w) && decide (8 * w + 8 ≤ a + n)
  let touch (w : Nat) : Bool := decide (a / 8 ≤ w) && decide (8 * w < a + n)
  let part := (s.tile t).ecc.filter fun e => touch e.1 && !whole e.1
  let s1 := part.foldl (fun st e => match e.2 with
    | .single => st.storeCe t e.1
    | .uncorrectable => st.storeUe t false req e.1) s
  let x := s1.tile t
  s1.setTile t { x with
    store := memWriteBytes x.store a bs
    ecc := x.ecc.filter fun e => !touch e.1 || (!whole e.1 && e.2 == .uncorrectable)
    wbacks := x.wbacks.filter fun w =>
      !(decide (a / 64 ≤ w.addr / 64) && decide (64 * (w.addr / 64) < a + n)) }

/-! ### Agent events (14 R442) -/

/-- An event put on an agent slot, dropped when 256 are unacknowledged (R442, R449). -/
def State.slotEvent (s : State) (slot code c : Nat) (payload : Bytes) : State :=
  let x := s.slot slot
  if 256 ≤ x.events.length then
    let y : AgentSlot :=
      { x with lostEvents := satInc 16 x.lostEvents, dropped := satInc 16 x.dropped }
    (s.setSlot slot y).ev 0x0B0 0 []
  else
    let y : AgentSlot := { x with nextEvent := x.nextEvent + 1, lostEvents := 0,
                                  events := x.events ++ [⟨x.nextEvent, code, c, payload, x.lostEvents⟩] }
    (s.setSlot slot y).emit (.event slot x.nextEvent code c x.lostEvents payload)

/-- An event to the owner of a context, or to the device-wide queue of 256 entries. -/
def State.ctxEvent (s : State) (c code : Nat) (payload : Bytes) : State :=
  match (s.ctx c).owner with
  | some slot => s.slotEvent slot code c payload
  | none =>
    if 256 ≤ s.host.unowned.length then s
    else { s with host := { s.host with unowned := s.host.unowned ++ [(code, c, payload)] } }

/-! ### Instruction exceptions (05 R152, R157) -/

/-- An exception of an instruction recorded and reported: TILE_EXC_LOG when it is empty, the trace
record and the event. DEDUCED, log 17. -/
def State.logExc (s : State) (c v t q code cls op seq step : Nat) : State :=
  let x := s.tile t
  let log := if bit x.excLog.toNat 63 then x.excLog else BitVec.ofNat 64
    (2 ^ 63 + q * 2 ^ 61 + code * 2 ^ 57 + cls * 2 ^ 53 + op * 2 ^ 47 + seq % 2 ^ 32)
  let s1 := s.setTile t { x with excLog := log }
  let s2 := s1.traceTile 3 c t q step (seq % 2 ^ 32) (leBytes 8 log.toNat)
  s2.ctxEvent c 0x01 (leBytes 1 v ++ leBytes 8 log.toNat)

/-- An exception that halts the queue (R152, R154). DEDUCED, log 17. -/
def State.haltExc (s : State) (c v t q code cls op seq step : Nat) : State :=
  let s1 := s.setQueue c v q { s.queue c v q with st := .halted, exc := code }
  s1.logExc c v t q code cls op seq step

/-! ### Signals (05 R135, R136) -/

/-- The highest value of a signal counter. -/
def sigMax : Nat := 2 ^ 32 - 1

/-- An increment sent toward a counter. -/
def State.sendSig (s : State) (x : SigInc) : State := { s with sigs := s.sigs ++ [x] }

end Sys2Proof.Machine
end

