-- ==== Sys2Proof/Machine/Enables.lean ====
section
/-! DEFINITION. The enable machine (16_power_clocks R476, Table 16.5). -/

namespace Sys2Proof.Machine

/-- Enable requested. -/
def Enable.request (e : Enable) : Enable :=
  match e.st with
  | .off => { e with st := .starting }
  | .starting => { e with pendOff := false }
  | .on => e
  | .stopping => { e with pendOn := true }

/-- Disable requested. -/
def Enable.drop (e : Enable) : Enable :=
  match e.st with
  | .off => e
  | .starting => { e with pendOff := true }
  | .on => { e with st := .stopping }
  | .stopping => { e with pendOn := false }

/-- The start ends: ON, and STOPPING one slow cycle later when a disable is latched. -/
def Enable.started (e : Enable) : Enable :=
  match e.st with
  | .starting => { e with st := if e.pendOff then .stopping else .on, pendOff := false }
  | _ => e

/-- The stop ends: OFF, and STARTING in the same slow cycle when ENABLE_PENDING is set. -/
def Enable.stopped (e : Enable) : Enable :=
  match e.st with
  | .stopping => { e with st := if e.pendOn then .starting else .off, pendOn := false }
  | _ => e

/-- STATE as the registers show it. -/
def EnSt.code : EnSt → Nat
  | .off => 0
  | .starting => 1
  | .on => 2
  | .stopping => 3

end Sys2Proof.Machine
end

