-- ==== Sys2Proof/Machine/Sha3.lean ====
section
/-! DEFINITION. The hash functions the spec names by their standards: SHA3-512 (FIPS 202), KMAC256
(NIST SP 800-185; 14_host_port R434) and CRC-32C (09_causeway_collectives R262). -/

namespace Sys2Proof.Machine

/-- The lane of column `x` and row `y` of a Keccak state, coordinates taken modulo 5. -/
def lane (a : List W64) (x y : Nat) : W64 := a.getD (x % 5 + 5 * (y % 5)) 0

/-- The state whose lane (x, y) is `f x y`. -/
def lanes (f : Nat → Nat → W64) : List W64 := (List.range 25).map fun i => f (i % 5) (i / 5)

/-- The parity of a column of lanes. -/
def columnParity (a : List W64) (x : Nat) : W64 := (List.range 5).foldl (fun p y => p ^^^ lane a x y) 0

/-- Step mapping θ of FIPS 202, 3.2.1. -/
def keccakTheta (a : List W64) : List W64 :=
  let par := (List.range 5).map (columnParity a)
  lanes fun x y => lane a x y ^^^ lane par (x + 4) 0 ^^^ (lane par (x + 1) 0).rotateLeft 1

/-- The walk of FIPS 202, 3.2.2: step `t` visits a lane and rotates it by the triangular number (t+1)(t+2)/2; the list
gives, for the lanes still to be visited from (x, y), their place and their offset. -/
def rhoWalk : Nat → Nat → Nat → Nat → List (Nat × Nat)
  | 0, _, _, _ => []
  | k + 1, t, x, y => (x + 5 * y, (t + 1) * (t + 2) / 2 % 64) :: rhoWalk k (t + 1) y ((2 * x + 3 * y) % 5)

/-- The offset of the lane at a place; the lane (0, 0) is not visited. -/
def rhoOffset (place : Nat) : Nat := ((rhoWalk 24 0 1 0).find? (·.1 == place)).elim 0 (·.2)

/-- Step mappings ρ and π of FIPS 202, 3.2.2 and 3.2.3: the lane (x, y) takes the rotated lane (x + 3y, x). -/
def keccakRhoPi (a : List W64) : List W64 :=
  let turned := a.zipIdx.map fun e => e.1.rotateLeft (rhoOffset e.2)
  lanes fun x y => lane turned (x + 3 * y) x

/-- Step mapping χ of FIPS 202, 3.2.4. -/
def keccakChi (a : List W64) : List W64 :=
  lanes fun x y => lane a x y ^^^ (lane a (x + 2) y &&& ~~~(lane a (x + 1) y))

/-- The register of FIPS 202, algorithm 5, after `t` steps: x^t modulo x^8 + x^6 + x^5 + x^4 + 1. -/
def rcRegister : Nat → Nat
  | 0 => 1
  | t + 1 => let r := 2 * rcRegister t; if r < 256 then r else Nat.xor r 0x171

/-- The round constant of round `i`: bit 2^j − 1 is the register's low bit after j + 7i steps (FIPS 202, 3.2.5). -/
def roundConstant (i : Nat) : W64 :=
  BitVec.ofNat 64 ((List.range 7).map fun j => rcRegister (j + 7 * i) % 2 * 2 ^ (2 ^ j - 1)).sum

/-- One round of Keccak-f[1600]: θ, ρ, π, χ, and ι with the round's constant. -/
def keccakRound (a : List W64) (i : Nat) : List W64 :=
  let b := keccakChi (keccakRhoPi (keccakTheta a))
  b.set 0 (lane b 0 0 ^^^ roundConstant i)

/-- Keccak-f[1600]: 24 rounds. -/
def keccakF (a : List W64) : List W64 := (List.range 24).foldl keccakRound a

/-- The little-endian 64-bit words of a byte string. -/
def words64 : Nat → Bytes → List W64
  | 0, _ => []
  | n + 1, bs => BitVec.ofNat 64 (leNat (bs.take 8)) :: words64 n (bs.drop 8)

/-- A rate block absorbed. -/
def absorb (a : List W64) (blk : Bytes) : List W64 :=
  let w := words64 25 (blk ++ List.replicate (200 - blk.length) 0)
  keccakF (List.zipWith (· ^^^ ·) a w)

/-- A byte string cut into `k` blocks of `r` bytes, absorbed in order. -/
def absorbAll : Nat → Nat → List W64 → Bytes → List W64
  | 0, _, a, _ => a
  | k + 1, r, a, bs => absorbAll k r (absorb a (bs.take r)) (bs.drop r)

/-- Keccak with a rate, a domain-separation byte and an output of at most one block. -/
def keccak (rate : Nat) (dom : Byte) (msg : Bytes) (outLen : Nat) : Bytes :=
  let padLen := rate - msg.length % rate
  let pad : Bytes :=
    if padLen = 1 then [dom ||| 0x80]
    else dom :: (List.replicate (padLen - 2) 0 ++ [0x80])
  let m := msg ++ pad
  let a := absorbAll (m.length / rate) rate (List.replicate 25 0) m
  (a.flatMap fun w => leBytes 8 w.toNat).take outLen

/-- SHA3-512 (FIPS 202). -/
def sha3_512 (msg : Bytes) : Bytes := keccak 72 0x06 msg 64

/-- `left_encode` of SP 800-185. -/
def leftEncode (n : Nat) : Bytes :=
  let k := (if n = 0 then 1 else (Nat.log2 n) / 8 + 1)
  BitVec.ofNat 8 k :: beBytes k n

/-- `right_encode` of SP 800-185. -/
def rightEncode (n : Nat) : Bytes :=
  let k := (if n = 0 then 1 else (Nat.log2 n) / 8 + 1)
  beBytes k n ++ [BitVec.ofNat 8 k]

/-- `encode_string` of SP 800-185. -/
def encodeString (s : Bytes) : Bytes := leftEncode (8 * s.length) ++ s

/-- `bytepad` of SP 800-185. -/
def bytepad (x : Bytes) (w : Nat) : Bytes :=
  let z := leftEncode w ++ x
  z ++ List.replicate ((w - z.length % w) % w) 0

/-- The bytes of an ASCII string given as character codes. -/
def ascii (s : String) : Bytes := s.toList.map fun c => BitVec.ofNat 8 c.toNat

/-- KMAC256 with a 256-bit output and a customisation string (SP 800-185). -/
def kmac256 (key msg custom : Bytes) : Bytes :=
  let pre := bytepad (encodeString (ascii "KMAC") ++ encodeString custom) 136
  let body := bytepad (encodeString key) 136 ++ msg ++ rightEncode 256
  keccak 136 0x04 (pre ++ body) 32

/-- CRC-32C, reflected, one bit. -/
def crcStep (c : W32) : W32 := if c.toNat % 2 = 1 then (c >>> 1) ^^^ 0x82F63B78 else c >>> 1

/-- CRC-32C, one byte. -/
def crcByte (c : W32) (b : Byte) : W32 :=
  (List.range 8).foldl (fun x _ => crcStep x) (c ^^^ BitVec.ofNat 32 b.toNat)

/-- CRC-32C (Castagnoli) of a byte string. -/
def crc32c (bs : Bytes) : W32 := ~~~(bs.foldl crcByte 0xFFFFFFFF)

end Sys2Proof.Machine
end

