-- ==== Sys2Proof/Machine/ShardMap.lean ====
section
/-! DEFINITION. Groups and trees, tensor records, and the shard map: its records, its install checks
and what they decide (08 R223, R224; 09 R274, R277, R278; 10 R304 to R325).
Assumption log: log 25 (DEDUCED). -/

namespace Sys2Proof.Machine

/-! ### Device ids (09 R274, R295) -/

/-- DEVID. -/
def Fab.devid (f : Fab) : Nat := fld f.id.toNat 16 16
/-- The size of a torus dimension: 0 x, 1 y, 2 z. -/
def Fab.dim (f : Fab) (d : Nat) : Nat :=
  match d with
  | 0 => fld f.id.toNat 11 5 + 1
  | 1 => fld f.id.toNat 6 5 + 1
  | _ => fld f.id.toNat 2 4 + 1
/-- A coordinate of a device id. -/
def devCoord (id d : Nat) : Nat :=
  match d with
  | 0 => fld id 0 5
  | 1 => fld id 5 5
  | _ => fld id 10 4

/-! ### Tensor records (08 R223, Table 8.1) -/

/-- A valid tensor record (its 128 bytes). -/
structure Tensor where
  tid : Nat
  b : Bytes
deriving DecidableEq, Repr

def Tensor.rows (x : Tensor) : Nat := recN x.b 4 4
def Tensor.cols (x : Tensor) : Nat := recN x.b 8 4
/-- MFMT and WFMT. -/
def Tensor.mfmt (x : Tensor) : Nat := recN x.b 12 1
def Tensor.wfmt (x : Tensor) : Nat := fld (recN x.b 13 1) 0 4
/-- The block size of the working copy, 0 for BF16. -/
def Tensor.wblk (x : Tensor) : Nat :=
  match fld (recN x.b 13 1) 4 2 with | 1 => 16 | 2 => 32 | _ => 0
def Tensor.wfit (x : Tensor) : Bool := bit (recN x.b 13 1) 6
def Tensor.bdim (x : Tensor) : Bool := bit (recN x.b 13 1) 7
/-- MODE. -/
def Tensor.frozen (x : Tensor) : Bool := bit (recN x.b 14 1) 0
def Tensor.replica (x : Tensor) : Bool := bit (recN x.b 14 1) 1
def Tensor.fixed (x : Tensor) : Bool := bit (recN x.b 14 1) 2
def Tensor.skipnf (x : Tensor) : Bool := bit (recN x.b 14 1) 3
def Tensor.clipEn (x : Tensor) : Bool := bit (recN x.b 14 1) 4
def Tensor.wire (x : Tensor) : Nat := fld (recN x.b 14 1) 5 2
def Tensor.pgroup (x : Tensor) : Nat := recN x.b 15 1
def Tensor.expect (x : Tensor) : Nat := recN x.b 16 4
def Tensor.ovt0 (x : Tensor) : Nat := recN x.b 20 1
def Tensor.ovtn (x : Tensor) : Nat := recN x.b 21 1
def Tensor.pgf (x : Tensor) : Nat := recN x.b 22 1
/-- MADDR0/1, WADDR0/1, NPADDR, DLADDR, NGROUP. -/
def Tensor.maddr (x : Tensor) (s : Nat) : Nat := recN x.b (24 + 8 * s) 8
def Tensor.waddr (x : Tensor) (s : Nat) : Nat := recN x.b (40 + 8 * s) 8
def Tensor.npaddr (x : Tensor) : Nat := recN x.b 56 8
def Tensor.dladdr (x : Tensor) : Nat := recN x.b 64 8
def Tensor.ngroup (x : Tensor) : Nat := recN x.b 72 2
/-- TAG0/1, SLOTS, WRITTEN, NORM, CHAT, LASTM. -/
def Tensor.tag (x : Tensor) (s : Nat) : Nat := recN x.b (80 + 8 * s) 8
def Tensor.slotSt (x : Tensor) (s : Nat) : Nat := fld (recN x.b 96 1) (4 * s) 3
def Tensor.written (x : Tensor) : Nat := recN x.b 100 4
def Tensor.norm (x : Tensor) : W32 := BitVec.ofNat 32 (recN x.b 104 4)
def Tensor.chat (x : Tensor) : W32 := BitVec.ofNat 32 (recN x.b 108 4)
/-- GR, GC and the number of fragments (R224). -/
def Tensor.gr (x : Tensor) : Nat := ceilDiv x.rows 64
def Tensor.gc (x : Tensor) : Nat := ceilDiv x.cols 128
def Tensor.nfrag (x : Tensor) : Nat := x.gr * x.gc
/-- The bytes of one working fragment (R224). -/
def Tensor.wbytes (x : Tensor) : Nat :=
  match x.wblk with | 16 => 8704 | 32 => 8448 | _ => 16384

/-- The validity of a tensor record for TID (R223). -/
def tensorOk (tid : Nat) (b : Bytes) : Bool :=
  let x : Tensor := ⟨tid, b⟩
  tid != 0 && recN b 0 4 == tid
    && decide (1 ≤ x.rows) && decide (x.rows ≤ 2 ^ 24) && decide (1 ≤ x.cols)
    && decide (x.cols ≤ 2 ^ 24)
    && (x.mfmt == 1 || x.mfmt == 3)
    && ((x.wfmt == 1 && fld (recN b 13 1) 4 2 == 0)
        || (x.wfmt == 5 && (fld (recN b 13 1) 4 2 == 1 || fld (recN b 13 1) 4 2 == 2)))
    && x.wire != 3 && !bit (recN b 14 1) 7 && (x.frozen || decide (1 ≤ x.expect))
    && decide (x.pgf ≤ 64) && zeroAt b [(23, 1), (74, 6)]

/-- The address of a tensor record, in the context of `weightsOf`. -/
def State.tensorAddr (s : State) (c tid : Nat) : Nat := (s.ctx (s.weightsOf c)).trt + 128 * tid

/-- The tensor record of TID, none when it is not valid (R223). An evaluation context reads its
parent's records (12 R384). -/
def State.tensor (s : State) (c tid : Nat) : Option Tensor :=
  match s.peek (s.weightsOf c) (s.tensorAddr c tid) 128 with
  | none => none
  | some b => if tensorOk tid b then some ⟨tid, b⟩ else none

/-- A tensor record written back: bytes 80–127, which the part alone writes (R223). -/
def State.putTensor (s : State) (c : Nat) (x : Tensor) : State :=
  match s.xlate c (s.tensorAddr c x.tid) 128 true with
  | some d => s.hbmWrite (d + 80) (sliceB x.b 80 48)
  | none => s

/-- The state and the tag of a slot set. -/
def Tensor.setSlot (x : Tensor) (s st tag : Nat) : Tensor :=
  let b1 := putRec x.b 96 1 (setFld (recN x.b 96 1) (4 * s) 3 st)
  { x with b := putRec b1 (80 + 8 * s) 8 tag }
/-- The slot that holds the committed version at Milestone `n`; a frozen tensor has its one version in slot 0 (R236,
R241). -/
def Tensor.cur (x : Tensor) (n : Nat) : Nat := if x.frozen then 0 else n % 2
/-- WRITTEN set. -/
def Tensor.setWritten (x : Tensor) (n : Nat) : Tensor := { x with b := putRec x.b 100 4 n }

/-! ### The shard map (10 R304 to R308) -/

/-- An axis: dimension, size and stride. -/
structure Axis where
  dim : Nat
  size : Nat
  stride : Nat
deriving DecidableEq, Repr

/-- A shard map as read: its header, its device entries and its tensor entries. -/
structure SMap where
  hdr : Bytes
  devs : List Bytes
  tens : List Bytes
deriving DecidableEq, Repr

/-- Axis `a` of a header (Table 10.2). -/
def hdrAxis (h : Bytes) (a : Nat) : Axis :=
  ⟨recN h (88 + 8 * a) 1, recN h (90 + 8 * a) 2, recN h (92 + 8 * a) 2⟩
/-- The five axes. -/
def hdrAxes (h : Bytes) : List Axis := (List.range 5).map (hdrAxis h)

def SMap.job (m : SMap) : Nat := recN m.hdr 0 2
def SMap.dcount (m : SMap) : Nat := recN m.hdr 2 2
def SMap.epoch (m : SMap) : Nat := recN m.hdr 4 4
def SMap.replica (m : SMap) : Bool := bit (recN m.hdr 8 1) 0
def SMap.switch (m : SMap) : Bool := bit (recN m.hdr 8 1) 1
def SMap.gdim (m : SMap) : Nat := fld (recN m.hdr 9 1) 0 2
def SMap.gsize (m : SMap) : Nat := recN m.hdr 10 1
def SMap.nleave (m : SMap) : Nat := recN m.hdr 12 2
def SMap.gbudget (m : SMap) : Nat := recN m.hdr 24 8
def SMap.pipe (m : SMap) : Nat := recN m.hdr 48 8
def SMap.exptab (m : SMap) : Nat := recN m.hdr 56 8
def SMap.seq (m : SMap) : Nat := recN m.hdr 64 8
def SMap.decide (m : SMap) : Nat := recN m.hdr 72 8
/-- ORIGIN of a dimension. -/
def hdrOrigin (h : Bytes) (d : Nat) : Nat := recN h (82 + 2 * d) 2

/-- A device entry (Table 10.3). -/
def devId (d : Bytes) : Nat := recN d 0 2
def devDomain (d : Bytes) : Nat := recN d 2 2
def devNexp (d : Bytes) : Nat := recN d 4 2
def devPermutes (d : Bytes) : Nat := recN d 6 2
def devExpoff (d : Bytes) : Nat := recN d 8 4

/-- A tensor entry (Table 10.4). -/
def tenTid (t : Bytes) : Nat := recN t 0 3
def tenOgroup (t : Bytes) : Nat := recN t 4 2
def tenCgroup (t : Bytes) : Nat := recN t 6 2
def tenMirror (t : Bytes) : Bool := bit (recN t 8 1) 0
def tenGather (t : Bytes) : Bool := bit (recN t 8 1) 1
def tenFwd (t : Bytes) : Nat := recN t 10 2
def tenNfrag (t : Bytes) : Nat := recN t 12 4
def tenFbytes (t : Bytes) : Nat := recN t 16 4

/-- Entries of `sz` bytes, each one access (11 R340); none when one does not translate. -/
def State.entries (s : State) (c a sz : Nat) : Nat → Option (List Bytes)
  | 0 => some []
  | n + 1 =>
    match s.peek c a sz with
    | none => none
    | some b => (State.entries s c (a + sz) sz n).map (b :: ·)

/-- A whole map read. -/
def State.readMap (s : State) (c a : Nat) : Option SMap :=
  match s.peek c a 128 with
  | none => none
  | some h =>
    match s.entries c (recN h 32 8) 16 (recN h 2 2 + recN h 12 2),
          s.entries c (recN h 40 8) 32 (recN h 80 2) with
    | some ds, some ts => some ⟨h, ds, ts⟩
    | _, _ => none

/-- The installed map of a context's job. -/
def State.smap (s : State) (c : Nat) : Option SMap :=
  match (s.ctx c).job with
  | some j => match j.map with
    | some a => s.readMap c a
    | none => none
  | none => none

/-- The coordinates on the five axes of a job rank, axis 0 first (R305). -/
def rankCoords : List Axis → Nat → List Nat
  | [], _ => []
  | x :: xs, r => r % x.size :: rankCoords xs (r / x.size)

/-- The relative coordinate in a dimension that a rank has (R304, R305). -/
def relCoord (axes : List Axis) (r d : Nat) : Nat :=
  ((axes.zip (rankCoords axes r)).map fun p => if p.1.dim = d then p.2 * p.1.stride else 0).foldl
    (· + ·) 0

/-- The device id that a job rank's coordinates name. -/
def rankDev (f : Fab) (h : Bytes) (r : Nat) : Nat :=
  let co (d : Nat) : Nat := (hdrOrigin h d + relCoord (hdrAxes h) r d) % f.dim d
  co 0 + 32 * co 1 + 1024 * co 2

/-- A coordinate of a job rank on an axis. -/
def SMap.coord (m : SMap) (r a : Nat) : Nat := ((rankCoords (hdrAxes m.hdr) r)[a]?).getD 0

/-- The job rank of a device id in the map, leaving devices included. -/
def SMap.rankOf (m : SMap) (id : Nat) : Option Nat := indexOf? id (m.devs.map devId)

/-- The tensor entry of TID. -/
def SMap.tensorEntry (m : SMap) (tid : Nat) : Option Bytes := m.tens.find? fun t => tenTid t == tid

/-! ### Ragged division, owners and mirrors (R310 to R312) -/

/-- The units of rank `r` of `n` units over `d` ranks. -/
def shareN (n d r : Nat) : Nat := if r < n % d then n / d + 1 else n / d
/-- Where they start. -/
def shareO (n d r : Nat) : Nat := r * (n / d) + min r (n % d)

/-- The rank that owns unit `f` (R310). -/
def shareOwner (n d f : Nat) : Nat :=
  (((List.range d).find? fun r => decide (shareO n d r ≤ f) && decide (f < shareO n d r + shareN n d r))).getD 0

/-- The positions of the devices of a domain: their job ranks in ascending order (R311). A leaving device has none: its
DOMAIN is ignored (R307). -/
def SMap.domain (m : SMap) (r : Nat) : List Nat :=
  let dm := devDomain ((m.devs[r]?).getD [])
  if m.dcount ≤ r then []
  else (List.range m.dcount).filter fun k => devDomain ((m.devs[k]?).getD []) == dm

/-- The rank that mirrors a job rank (R311). -/
def SMap.mirrorOf (m : SMap) (r : Nat) : Option Nat :=
  let l := m.domain r
  if r < m.dcount ∧ 1 < l.length then
    match indexOf? r l with
    | some i => l[(i + 1) % l.length]?
    | none => none
  else none

/-- The rank that a job rank mirrors. -/
def SMap.mirrors (m : SMap) (r : Nat) : Option Nat :=
  let l := m.domain r
  if r < m.dcount ∧ 1 < l.length then
    match indexOf? r l with
    | some i => l[(i + l.length - 1) % l.length]?
    | none => none
  else none

/-- The device id of a job rank. -/
def SMap.devOf (m : SMap) (r : Nat) : Nat := devId ((m.devs[r]?).getD [])

/-! ### Groups (09 R277, R278) -/

/-- A valid group: its members in order and its fan-out. -/
structure Group where
  members : List Nat
  fan : Nat
deriving DecidableEq, Repr

/-- A list of device ids, 2 bytes each. -/
def memberList (bs : Bytes) (n : Nat) : List Nat := (List.range n).map fun i => recN bs (2 * i) 2

/-- The member list of a group record, each entry one access (11 R340); none when one does not translate. -/
def State.memberIds (s : State) (c : Nat) (r : Bytes) : Option (List Nat) :=
  (s.entries c (recN r 8 8) 2 (recN r 2 2)).map fun l => l.map leNat

/-- The fields of a group record are valid (R277, Table 9.6). -/
def groupRecOk (g : Nat) (r : Bytes) : Bool :=
  let n := recN r 2 2
  let fan := recN r 4 1
  recN r 0 2 == g && decide (1 ≤ n) && decide (n ≤ 16384) && decide (2 ≤ fan) && decide (fan ≤ 8) && recN r 5 1 == 1
    && zeroAt r [(6, 2), (16, 16)]

/-- Group `g` of a context as recorded, none when its record is invalid (R277, Table 9.6). -/
def State.groupRec (s : State) (c g : Nat) : Option Group :=
  match s.peek c ((s.ctx c).grt + 32 * g) 32 with
  | none => none
  | some r =>
    if groupRecOk g r then (s.memberIds c r).map fun l => ⟨l, recN r 4 1⟩ else none

/-- The failed devices of the job of a context (13 R407). -/
def Ctx.failed (x : Ctx) : List Nat := (x.job.map (·.failed)).getD []

/-- The first device after position `i` of a cyclic list that is not failed; `fuel` bounds the walk. -/
def nextAlive (l f : List Nat) : Nat → Nat → Option Nat
  | 0, _ => none
  | k + 1, i =>
    match l[i % l.length]? with
    | none => none
    | some d => if f.contains d then nextAlive l f k (i + 1) else some d

/-- The device that stands in for a device: itself, or the next survivor of its domain (13 R404,
R408). -/
def State.standIn (s : State) (c d : Nat) : Nat :=
  let f := (s.ctx c).failed
  if !f.contains d then d
  else match s.smap c with
    | none => d
    | some m => match m.rankOf d with
      | none => d
      | some r =>
        let l := (m.domain r).map m.devOf
        (nextAlive l f l.length (((indexOf? d l).getD 0) + 1)).getD d

/-- Group `g` of a context, with stand-ins in the places of failed devices (R277, 13 R408). -/
def State.group (s : State) (c g : Nat) : Option Group :=
  (s.groupRec c g).map fun x =>
    if (s.ctx c).failed.isEmpty then x else { x with members := x.members.map (s.standIn c) }

/-- The ranks of a device in a list of members. -/
def ranksIn (dev : Nat) (l : List Nat) : List Nat :=
  (List.range l.length).filter fun r => (l[r]?).getD 0x10000 == dev

/-- The record of a group, or the list that a valid record names, does not translate. -/
def State.groupUnreadable (s : State) (c g : Nat) : Bool :=
  match s.peek c ((s.ctx c).grt + 32 * g) 32 with
  | none => true
  | some r => groupRecOk g r && (s.memberIds c r).isNone

/-- The parent of rank `r` in the tree of a group of `n` with root `root` and fan-out `f` (R278). -/
def treeParent (n root f r : Nat) : Option Nat :=
  let i := (r + n - root) % n
  if i = 0 then none else some ((root + (i - 1) / f) % n)

/-- The children of rank `r`, in list order (R278). -/
def treeChildren (n root f r : Nat) : List Nat :=
  let i := (r + n - root) % n
  ((upTo (f * i + 1) f).filter fun j => decide (j < n)).map fun j => (root + j) % n

/-- Every rank of the subtree of rank `r`; `fuel` bounds the depth. -/
def treeSub (n root f : Nat) : Nat → Nat → List Nat
  | 0, r => [r]
  | k + 1, r => r :: (treeChildren n root f r).flatMap (treeSub n root f k)

/-- The depth that bounds a tree walk. -/
def treeFuel : Nat := 15

/-- The lowest rank of a list. -/
def minOf (l : List Nat) : Nat := l.foldl min (l.headD 0)

/-! ### Owned and held fragments (R310 to R312) -/

/-- The fragments that a device owns of a tensor (R310, 08 R245): by its ranks in the owner group, or
all of them when the tensor is replicated. -/
def ownedIn (m : SMap) (x : Tensor) (t : Bytes) (members : List Nat) (dev : Nat) : List Nat :=
  let n := members.length
  let rs := ranksIn dev members
  if x.replica || m.replica then (if rs.isEmpty then [] else List.range x.nfrag)
  else rs.flatMap fun r => upTo (shareO (tenNfrag t) n r) (shareN (tenNfrag t) n r)

/-- The fragments that a device owned under the map as written. -/
def State.ownedBy (s : State) (c : Nat) (m : SMap) (x : Tensor) (t : Bytes) (dev : Nat) : List Nat :=
  ownedIn m x t (((s.groupRec c (tenOgroup t)).map (·.members)).getD []) dev

/-- The fragments that a device owns, stand-ins counted (13 R408). -/
def State.ownedNow (s : State) (c : Nat) (m : SMap) (x : Tensor) (t : Bytes) (dev : Nat) : List Nat :=
  ownedIn m x t (((s.group c (tenOgroup t)).map (·.members)).getD []) dev

/-- The fragments that this device mirrors of a tensor (R311). -/
def State.mirrored (s : State) (c : Nat) (m : SMap) (x : Tensor) (t : Bytes) : List Nat :=
  if tenMirror t && !x.replica && !m.replica then
    match m.rankOf s.fab.devid with
    | none => []
    | some r => match m.mirrors r with
      | none => []
      | some o => s.ownedBy c m x t (m.devOf o)
  else []

/-- The fragments of a tensor that this device owns. Without a shard map the device owns all
(DEDUCED, log 24). -/
def State.owned (s : State) (c : Nat) (x : Tensor) : List Nat :=
  match s.smap c with
  | none => List.range x.nfrag
  | some m => match m.tensorEntry x.tid with
    | none => []
    | some t => s.ownedNow c m x t s.fab.devid

/-- The fragments rebuilt on this device, in order (13 R410). -/
def State.rebuiltHere (s : State) (c : Nat) (m : SMap) (tid : Nat) : List Nat :=
  match (s.ctx c).job, m.rankOf s.fab.devid with
  | some j, some r => ((Tbl.get [] j.rebuilt r).filter fun p => p.1 == tid).map (·.2)
  | _, _ => []

/-- The fragments that this device holds: the map's in ascending index (R312), then the rebuilt ones
(13 R410). -/
def State.heldFrags (s : State) (c : Nat) (x : Tensor) : List Nat :=
  match s.smap c with
  | none => List.range x.nfrag
  | some m => match m.tensorEntry x.tid with
    | none => []
    | some t =>
      sortBy (fun a b => decide (a ≤ b)) (s.ownedBy c m x t s.fab.devid ++ s.mirrored c m x t)
        ++ s.rebuiltHere c m x.tid

/-- The local ordinal of a fragment on this device (08 R224, 10 R312). -/
def State.localOrd (s : State) (c : Nat) (x : Tensor) (f : Nat) : Option Nat :=
  indexOf? f (s.heldFrags c x)

/-- The virtual tile that holds the buffer of a fragment on this device (Table 8.1). -/
def State.ownerTile (s : State) (c : Nat) (x : Tensor) (f : Nat) : Option Nat :=
  (s.localOrd c x f).map fun j => x.ovt0 + j % (x.ovtn + 1)

/-- Every tensor of the job: the valid records of the map's entries, in ascending TID. -/
def State.jobTensors (s : State) (c : Nat) : List Tensor :=
  match s.smap c with
  | none => []
  | some m =>
    (sortBy (fun a b => decide (a ≤ b)) (m.tens.map tenTid)).filterMap fun tid => s.tensor c tid

/-! ### Install checks (R309, Table 10.5) -/

/-- The strides of the axes along a dimension: each the product of the sizes before it, in ascending
stride (R304). -/
def stridesOk (n : Nat) : Nat → List Axis → Bool
  | p, [] => decide (p ≤ n)
  | p, x :: xs => x.stride == p && stridesOk n (p * x.size) xs

/-- BAD_AXES. -/
def badAxes (f : Fab) (h : Bytes) : Bool :=
  let axes := hdrAxes h
  let along (d : Nat) : List Axis :=
    sortBy (fun a b => decide (a.stride < b.stride) || (a.stride == b.stride && decide (a.size ≤ b.size)))
      (axes.filter fun x => x.dim == d)
  let gdim := fld (recN h 9 1) 0 2
  axes.any (fun x => x.size == 0 || decide (3 < x.dim) || (x.dim == 3 && x.size != 1))
    || (List.range 3).any (fun d => !stridesOk (f.dim d) 1 (along d))
    || recN h 2 2 != axes.foldl (fun p x => p * x.size) 1 || decide (16384 < recN h 2 2)
    || (gdim != 3 && (decide (recN h 10 1 < 2) || decide (16 < recN h 10 1)))
    || fld (recN h 8 1) 2 6 != 0 || fld (recN h 9 1) 2 6 != 0
    || !zeroAt h [(11, 1), (14, 10)]
    || (List.range 5).any (fun a => !zeroAt h [(89 + 8 * a, 1), (94 + 8 * a, 2)])
    || (bit (recN h 8 1) 0 && (axes.drop 1).any fun x => decide (1 < x.size))

/-- The first of the checks that refuses: codes in the order of the checks, 0 where one passes. UNREADABLE stands where
what does not translate is first read (R309; DEDUCED, log 25). -/
def firstCode (l : List Nat) : Nat := (l.find? (· != 0)).getD 0

/-- A check that refuses with a code. -/
def refuse (code : Nat) (bad : Bool) : Nat := if bad then code else 0

/-- BAD_DEVICES, the group record of group 0 last. The checks read group records as they are written, no stand-ins in
them (R305, R309). -/
def State.checkDevices (s : State) (c : Nat) (h : Bytes) (ds : List Bytes) : Nat :=
  let ids := ds.map devId
  firstCode
    [refuse 2 ((List.range (recN h 2 2)).any fun r => (ids[r]?).getD 0x10000 != rankDev s.fab h r),
     refuse 2 (!noDup ids), refuse 2 (!ids.contains s.fab.devid), refuse 2 (ds.any fun d => !zeroAt d [(12, 4)]),
     refuse 0x0A (s.groupUnreadable c 0),
     refuse 2 (match s.groupRec c 0 with
       | none => true
       | some g => g.members != ids)]

/-- A group of a tensor entry breaks R277 or has a member outside group 0. -/
def State.badGroup (s : State) (c g : Nat) (ids : List Nat) : Bool :=
  match s.groupRec c g with
  | none => true
  | some x =>
    let ranks := x.members.map fun d => (indexOf? d ids).getD ids.length
    ranks.any (fun r => decide (ids.length ≤ r)) || (g != 0 && !ascending ranks)

/-- The record of a tensor entry does not translate, or is not valid (R223). -/
def State.checkRecord (s : State) (c : Nat) (t : Bytes) : Nat :=
  firstCode [refuse 0x0A (s.peek c (s.tensorAddr c (tenTid t)) 128).isNone, refuse 4 (s.tensor c (tenTid t)).isNone]

/-- What a tensor entry says against its record and its groups: NFRAG, the groups, the owners, and in replicated-data
mode REPLICA and group 0 (R332). -/
def State.badEntry (s : State) (c : Nat) (replica : Bool) (t : Bytes) : Bool :=
  match s.tensor c (tenTid t), s.groupRec c (tenOgroup t), s.groupRec c (tenCgroup t) with
  | some x, some og, some cg =>
    (replica && (!x.replica || tenOgroup t != 0)) || (og.members.zip (List.range og.members.length)).any fun p =>
      (x.replica || decide (0 < shareN (tenNfrag t) og.members.length p.2)) && !cg.members.contains p.1
  | _, _, _ => true

/-- BAD_TENSOR, clause by clause and entry by entry. -/
def State.checkTensors (s : State) (c : Nat) (replica : Bool) (ids : List Nat) (ts : List Bytes) : Nat :=
  let group (g : Nat) : List Nat := [refuse 0x0A (s.groupUnreadable c g), refuse 4 (s.badGroup c g ids)]
  firstCode (ts.map (s.checkRecord c) ++ [refuse 4 (!noDup (ts.map tenTid))]
    ++ ts.map (fun t => refuse 4 (((s.tensor c (tenTid t)).map (·.nfrag)).getD 0 != tenNfrag t))
    ++ ts.flatMap (fun t => group (tenOgroup t) ++ group (tenCgroup t))
    ++ ts.map (fun t => refuse 4 (s.badEntry c replica t))
    ++ ts.map fun t => refuse 4 (fld (recN t 3 1) 0 8 != 0 || fld (recN t 8 1) 2 6 != 0 || !zeroAt t [(9, 1), (20, 12)]))

/-- The layer counts of a pipeline record. -/
def pipeCounts (r : Bytes) : List Nat := (List.range (recN r 0 2)).map fun i => recN r (64 + 2 * i) 2

/-- A queue entry breaks its rules (R319): its ranks are of devices of the map, `n` of them. -/
def badQueue (n : Nat) (q : Bytes) : Bool :=
  decide (n ≤ recN q 0 2) || decide (n ≤ recN q 2 2) || recN q 4 4 == 0
    || decide (65535 < recN q 4 4) || recN q 8 4 % 64 != 0 || !zeroAt q [(12, 4), (24, 8)]

/-- The fixed part of a pipeline record breaks R317, or has a reserved byte that is not 0. -/
def badPipe (h r : Bytes) : Bool :=
  let p := recN r 0 2
  p != (hdrAxis h 2).size || p == 0 || decide (32 < p) || decide (recN r 2 2 < p) || decide (1 < recN r 4 1)
    || (recN r 4 1 == 1 && recN r 8 4 == 0) || !zeroAt r [(5, 3), (26, 38)]

/-- The layer counts of an EXPLICIT record break R317. -/
def badCounts (r : Bytes) : Bool :=
  let cs := pipeCounts r
  recN r 4 1 == 0 && (cs.foldl (· + ·) 0 != recN r 2 2 || cs.any (· == 0))

/-- The queue entries of a map, none when the record or one of them does not translate. -/
def State.queueEntries (s : State) (c : Nat) (m : SMap) : Option (List Bytes) :=
  if m.pipe = 0 then some []
  else match s.peek c m.pipe 64 with
    | none => none
    | some r => s.entries c (recN r 16 8) 32 (recN r 24 2)

/-- BAD_PIPE: the record, its counts, and the queue table. -/
def State.checkPipe (s : State) (c : Nat) (m : SMap) : Nat :=
  if m.pipe = 0 then 0
  else match s.peek c m.pipe 64 with
    | none => 0x0A
    | some r =>
      if badPipe m.hdr r then 5
      else match s.peek c m.pipe (64 + 2 * recN r 0 2) with
        | none => 0x0A
        | some b =>
          if badCounts b then 5
          else match s.queueEntries c m with
            | none => 0x0A
            | some qs => refuse 5 (qs.any (badQueue (m.dcount + m.nleave)))

/-- The endpoints that a device of rank `r` holds of a map: queue index and role (R319). -/
def endpointsOf (qs : List Bytes) (r : Nat) : List (Nat × Bool) :=
  (qs.zip (List.range qs.length)).flatMap fun p =>
    (if recN p.1 0 2 = r then [(p.2, false)] else []) ++ (if recN p.1 2 2 = r then [(p.2, true)] else [])

/-- BAD_EXPERT, none when an entry does not translate (R324). A map without an expert table has no experts. -/
def State.badExpert (s : State) (c : Nat) (m : SMap) : Option Bool :=
  if m.exptab = 0 then some ((m.devs.take m.dcount).any fun d => devNexp d != 0)
  else
    let d := (hdrAxis m.hdr 3).size
    let nOf (k : Nat) : Nat := match (List.range m.dcount).find? fun r => m.coord r 3 == k with
      | some r => devNexp ((m.devs[r]?).getD [])
      | none => 0
    let total := ((List.range d).map nOf).foldl (· + ·) 0
    (List.range m.dcount).foldl (fun acc r =>
      match acc with
      | none => none
      | some bad =>
        let e := (m.devs[r]?).getD []
        let k := m.coord r 3
        match s.entries c (m.exptab + 8 * devExpoff e) 8 (devNexp e) with
        | none => none
        | some xs => some (bad || decide (1024 < devNexp e) || devNexp e != shareN total d k
            || (xs.zip (List.range xs.length)).any fun p => recN p.1 0 4 != shareO total d k + p.2))
      (some false)

/-- The tokens of a sequence shard (R325). -/
def shardTokens (t n layout q : Nat) : Nat :=
  if layout = 0 then shareN t n q else shareN t (2 * n) q + shareN t (2 * n) (2 * n - 1 - q)

/-- TOO_LONG, none when the record does not translate (R325). -/
def State.tooLong (s : State) (c : Nat) (m : SMap) : Option Bool :=
  if m.seq = 0 then some false
  else (s.peek c m.seq 16).map fun r =>
    let n := (hdrAxis m.hdr 4).size
    let t := recN r 0 4
    decide (2 ^ 24 < t) || decide (64 < n) || decide (1 < recN r 4 1) || !zeroAt r [(5, 11)]
      || (List.range n).any fun q => decide (2 ^ 18 < shardTokens t n (recN r 4 1) q)

/-- The endpoint slots that other contexts hold. -/
def State.otherEndpoints (s : State) (c : Nat) : Nat :=
  (s.fab.endpoints.filter fun e => e.2.valid && e.2.ctx != c).length

/-- QUEUE_LIMIT: the device would hold more than 64 endpoints (R319). -/
def State.checkQueues (s : State) (c : Nat) (m : SMap) : Nat :=
  refuse 6 (decide (64 < s.otherEndpoints c
    + (endpointsOf ((s.queueEntries c m).getD []) ((m.rankOf s.fab.devid).getD 0xFFFF)).length))

/-- A check that may meet what does not translate. -/
def refuseOpt (code : Nat) (bad : Option Bool) : Nat :=
  match bad with
  | none => 0x0A
  | some b => refuse code b

/-- The code of Table 10.5 for a map, its checks in the order of the table; `switchBad` is the arming
check of R327. -/
def State.checkMap (s : State) (c a epoch : Nat) (switchBad : SMap → Bool) : Nat :=
  match s.peek c a 128 with
  | none => 0x0A
  | some h =>
    if badAxes s.fab h then 1
    else match s.entries c (recN h 32 8) 16 (recN h 2 2 + recN h 12 2) with
    | none => 0x0A
    | some ds =>
      match firstCode [s.checkDevices c h ds, refuse 3 (recN h 4 4 != epoch)] with
      | 0 =>
        (match s.entries c (recN h 40 8) 32 (recN h 80 2) with
        | none => 0x0A
        | some ts =>
          let m : SMap := ⟨h, ds, ts⟩
          firstCode [s.checkTensors c m.replica (ds.map devId) ts, s.checkPipe c m, s.checkQueues c m,
            refuseOpt 7 (s.badExpert c m), refuseOpt 8 (s.tooLong c m), refuse 9 (switchBad m)])
      | code => code

/-! ### What an installation decides (R315, R318, R319) -/

/-- The DECIDE byte of each tensor entry (R315). -/
def decideBytes (m : SMap) : List Nat :=
  let idx := (m.tens.zip (List.range m.tens.length)).filter fun p => tenGather p.1
  let order := sortBy (fun a b => pairLe (tenFwd a.1, a.2) (tenFwd b.1, b.2)) idx
  let r := order.foldl (fun (acc : Nat × Tbl Nat) p =>
    let whole := tenNfrag p.1 * tenFbytes p.1
    let slice := ceilDiv (tenNfrag p.1) m.gsize * tenFbytes p.1
    if acc.1 + whole ≤ m.gbudget then (acc.1 + whole, Tbl.set acc.2 p.2 1)
    else if m.gdim ≠ 3 ∧ acc.1 + slice ≤ m.gbudget then (acc.1 + slice, Tbl.set acc.2 p.2 2)
    else (acc.1, Tbl.set acc.2 p.2 3)) (0, [])
  (List.range m.tens.length).map fun t => Tbl.get 0 r.2 t

/-- The index of the largest value, the lowest on a tie. -/
def argMax (l : List Nat) : Nat :=
  (l.zip (List.range l.length)).foldl (fun b p => if (l[b]?).getD 0 < p.1 then p.2 else b) 0

/-- The index of the largest value, the highest on a tie. -/
def argMaxLast (l : List Nat) : Nat :=
  (l.zip (List.range l.length)).foldl (fun b p => if (l[b]?).getD 0 ≤ p.1 then p.2 else b) 0

/-- Layers left by rounding given to the largest remainders. -/
def giveRest : Nat → List Nat → List Nat → List Nat
  | 0, cnt, _ => cnt
  | k + 1, cnt, rem =>
    let b := argMax rem
    giveRest k (cnt.set b ((cnt[b]?).getD 0 + 1)) (rem.set b 0)

/-- The layer counts of AUTO (R318). -/
def autoCounts (p l w a : Nat) : List Nat :=
  let inv := (List.range p).map fun i => 2 ^ 40 / ((p - i) * a + w)
  let sm := inv.foldl (· + ·) 0
  let cnt := inv.map fun v => l * v / sm
  let rem := inv.map fun v => l * v % sm
  let full := giveRest (l - cnt.foldl (· + ·) 0) cnt rem
  (List.range p).foldl (fun counts i => if (counts[i]?).getD 0 = 0 then
      let b := argMaxLast counts
      (counts.set b ((counts[b]?).getD 0 - 1)).set i 1
    else counts) full

/-- A free endpoint slot taken for each endpoint of a map, counts 0 (R319, R328). -/
def placeEndpoints (c : Nat) (qs : List Bytes) : List (Nat × Bool) → Tbl Endpoint → Tbl Endpoint
  | [], t => t
  | p :: ps, t =>
    match (List.range 64).find? fun k => !(Tbl.get {} t k).valid with
    | some k =>
      let x : Endpoint := { valid := true, receiver := p.2, ctx := c, qidx := p.1,
                            depth := recN ((qs[p.1]?).getD []) 4 4 }
      placeEndpoints c qs ps (Tbl.set t k x)
    | none => placeEndpoints c qs ps t

/-- A checked map put in force: the DECIDE bytes and AUTO counts are written, the endpoints restart,
and the job takes the map and its epoch (R309, R315, R318, R319, R328). -/
def State.installMap (s : State) (c a : Nat) : State :=
  match s.readMap c a with
  | none => s
  | some m =>
    let ds := decideBytes m
    let s1 := (ds.zip (List.range ds.length)).foldl (fun st b => st.ctxWrite c (m.decide + b.2) (leBytes 1 b.1)) s
    let s2 := match (if m.pipe = 0 then none else s1.peek c m.pipe 64) with
      | none => s1
      | some r => if recN r 4 1 = 1 then
          s1.ctxWrite c (m.pipe + 64) ((autoCounts (recN r 0 2) (recN r 2 2) (recN r 8 4)
            (recN r 12 4)).flatMap fun n => leBytes 2 n)
        else s1
    let qs := (s2.queueEntries c m).getD []
    let lost := (s2.fab.endpoints.filter fun e =>
      e.2.valid && e.2.ctx == c && e.2.sends != e.2.credits).length
    let kept := s2.fab.endpoints.filter fun e => !(e.2.valid && e.2.ctx == c)
    let eps := placeEndpoints c qs (endpointsOf qs ((m.rankOf s2.fab.devid).getD 0xFFFF)) kept
    let s3 : State := { s2 with fab := { s2.fab with endpoints := eps } }
    let s4 := if lost = 0 then s3 else s3.ev 0x08D 0 [c] lost
    let x := s4.ctx c
    s4.setCtx c { x with smapCode := 0, job := x.job.map fun j =>
      { j with epoch := m.epoch, map := some a, failed := [], rebuilt := [], awaiting := [] } }

end Sys2Proof.Machine
end

