-- ==== Sys2Proof/Machine/Link.lean ====
section
/-! DEFINITION. The links of the fabric: ports and their credits, sequence numbers and replay buffers,
routing, and the sending of frames (09_causeway_collectives R260 to R275, 13_fault_tolerance R409).
Assumption log: log 57 (DESIGN CHOICE), log 58 (DEDUCED), log 59 (DEDUCED). -/

namespace Sys2Proof

open Machine

/-- The credits a frame occupies (R264). -/
def Frame.credits (f : Frame) : Nat := ceilDiv (40 + f.payload.length) 256
/-- ACK and NAK frames use no credits and no LSEQ (R264, R266). -/
def Frame.bare (f : Frame) : Bool := f.ty == 1 || f.ty == 2
/-- The size of a frame on the line (R262). -/
def Frame.size (f : Frame) : Nat := 58 + f.payload.length

/-- The end-to-end check of a frame (Table 9.2): CRC-32C over bytes 0 and 2–5, bytes 14–31 and the
payload. -/
def Frame.crc (f : Frame) : Nat :=
  (crc32c (leBytes 1 (16 * f.ver + f.ty) ++ leBytes 2 f.dst ++ leBytes 2 f.src ++ leBytes 2 f.job
    ++ leBytes 4 f.epoch ++ leBytes 2 f.group ++ leBytes 2 f.cseq ++ leBytes 4 f.offset
    ++ leBytes 2 f.payload.length ++ leBytes 2 0 ++ f.payload)).toNat
/-- A frame with its E2E field formed (R268). -/
def Frame.seal (f : Frame) : Frame := { f with e2e := f.crc }

/-- A frame with other header fields: the E2E field is formed again, and stays wrong where it was wrong. -/
def Frame.relabel (f g : Frame) : Frame := { g with e2e := if f.e2e = f.crc then g.crc else (g.crc + 1) % 2 ^ 32 }
/-- A frame as a v1 link carries it (R273). -/
def Frame.forV1 (f : Frame) : Frame := f.relabel { f with ver := 1, job := 0, epoch := 0, group := 0, cseq := 0 }
/-- The MAC address of a device: 02-43-57-00 and its id, most significant byte first (R262). -/
def macOf (dev : Nat) : Nat := 0x024357000000 + dev % 65536

end Sys2Proof

namespace Sys2Proof.Machine

/-- A fabric port. -/
def State.port (s : State) (p : Nat) : Port := Tbl.get {} s.fab.ports p
/-- A fabric port replaced. -/
def State.setPort (s : State) (p : Nat) (x : Port) : State :=
  { s with fab := { s.fab with ports := Tbl.set s.fab.ports p x } }

/-- The loop-back registers of a port, the host port being number 24 (18 R526). -/
def State.lb (s : State) (n : Nat) : LoopBack := Tbl.get {} s.tst.ports n
/-- STATE of a port as FAB_PORTn_STAT shows it: ON in a loop-back run (R301, 18 R514). -/
def State.portState (s : State) (p : Nat) : Nat :=
  if (s.lb p).run && !(s.lb p).waits then 2 else (s.port p).en.st.code

/-- The port is on the line: started, its PLL locked, neither lost nor retraining. -/
def Port.live (x : Port) : Bool := x.en.st != .off && x.pll && !x.lost && !x.retraining

/-- The EtherType of the port's Causeway frames, FAB_CTL as it was at the port's start (R262, R296). -/
def Port.etype (x : Port) : Nat := fld x.runFab.toNat 16 16

/-- The port is ON, UP and not retraining (R270). -/
def Port.isUp (x : Port) : Bool := x.en.st == .on && x.up && !x.retraining

/-- The link of the port works: it is UP, or it still waits, STOPPING, until every frame is acknowledged
(16_power_clocks Table 16.6). -/
def Port.linkOn (x : Port) : Bool := x.en.st != .off && x.up && !x.retraining

/-- The receive buffer of a virtual channel in credits of 256 B (R264). -/
def vcBuffer (vc : Nat) : Nat := match vc with | 0 => 64 | 1 => 512 | 2 => 1024 | _ => 512

/-- The send credits held for a virtual channel. -/
def Port.credits (x : Port) (vc : Nat) : Nat := Tbl.get 0 x.cred vc
/-- The virtual channels of a frame type (Table 9.3; a replica's fragment rides on VC3, R282). -/
def vcMatches (ty vc : Nat) : Bool :=
  match ty with
  | 0 => vc == 0
  | 1 => true
  | 2 => true
  | 3 => vc == 2 || vc == 3
  | 4 => vc == 2 || vc == 3
  | 5 => vc == 1
  | 6 => vc == 1
  | 7 => vc == 0
  | 8 => vc == 0
  | 9 => vc == 1
  | _ => false

/-- The frame types that a v1 link carries (R273). -/
def v1Type (ty : Nat) : Bool := ty == 0 || ty == 1 || ty == 2 || ty == 3 || ty == 5 || ty == 6

/-- A v1 link carries the frame: of those types, what a v3 link alone knows stays off it (R273). -/
def onV1 (f : Frame) : Bool :=
  v1Type f.ty && (match f.msg with
    | some (.control ..) => false
    | some (.mirror ..) => false
    | some (.ring ..) => false
    | _ => true)

/-- FAB_LOG written at a logged event while it is empty (R298). -/
def State.fabLog (s : State) (cause port src epoch : Nat) : State :=
  if bit s.fab.log.toNat 63 then s
  else
    let log := BitVec.ofNat 64 (2 ^ 63 + cause * 2 ^ 59 + port * 2 ^ 48 + src * 2 ^ 32 + epoch)
    { s with fab := { s.fab with log := log } }

/-! ### Sending on a port -/

/-- Credits to return on a virtual channel of a port. -/
def State.owe (s : State) (p vc n : Nat) : State :=
  let x := s.port p
  s.setPort p { x with owed := Tbl.set x.owed vc (Tbl.get 0 x.owed vc + n) }

/-- The CREDIT field that returns what a port owes, at most 255 on each channel (Table 9.2). -/
def Port.creditField (x : Port) : Nat :=
  (List.range 4).foldl (fun a v => a + min 255 (Tbl.get 0 x.owed v) * 256 ^ v) 0
/-- What a port owes after its CREDIT field is sent. -/
def Port.owedAfter (x : Port) : Tbl Nat :=
  (List.range 4).foldl (fun t v => Tbl.set t v (Tbl.get 0 x.owed v - 255)) x.owed

/-- The bytes in the replay buffer (R266). DEDUCED, log 57. -/
def Port.replayBytes (x : Port) : Nat := (x.replay.map fun r => r.frame.size).foldl (· + ·) 0

/-- The port can send the frame now: it holds the credits and has room to keep it (R264, R266). A port that is ON but
not UP sends its hellos, and NAKs for what it does not accept (R261, R266). Frames on VC0 wait for no room behind
data (R265). -/
def Port.canSend (x : Port) (f : Frame) : Bool :=
  if !x.live then false
  else if f.bare then true
  else (f.vc == 0 || decide (x.replayBytes + f.size ≤ 2 ^ 19)) &&
    (if x.up then decide (f.credits ≤ x.credits f.vc) else f.ty == 0)

/-- The first waiting frame that can be sent: each sub-channel of each virtual channel is in order and holds up no
other (R265). `b` lists the sub-channels that wait. -/
def pickTx (x : Port) : List (Nat × Bool) → List TxFrame → Option (TxFrame × List TxFrame)
  | _, [] => none
  | b, t :: ts =>
    if !b.contains (t.frame.vc, t.second) && x.canSend t.frame then some (t, ts)
    else (pickTx x ((t.frame.vc, t.second) :: b) ts).map fun r => (r.1, t :: r.2)

/-- A frame put on the line of a port, with the addresses and the EtherType of R262 and, on a v1 link, the header of R273
(R262, R264, R266). -/
def State.transmit (s : State) (p : Nat) (t : TxFrame) : State :=
  let x := s.port p
  let g := if x.ver = 1 then t.frame.forV1 else t.frame
  let f : Frame := { g with lack := x.rxSeq, credit := x.creditField, lseq := if g.bare then 0 else x.txSeq
                            etype := x.etype, dmac := macOf g.dst, smac := macOf s.fab.devid }
  let y : Port := { x with owed := x.owedAfter }
  let z : Port := if f.bare then y else
    { y with txSeq := (x.txSeq + 1) % 65536
             replay := x.replay ++ [⟨f, t.frame, 0⟩]
             cred := if x.up then Tbl.set x.cred f.vc (x.credits f.vc - f.credits) else x.cred }
  let s1 := (s.setPort p z).emit (.frame p f)
  match t.holds with
  | some h => s1.owe h.1 h.2.1 h.2.2
  | none => s1

/-- Waiting frames of a port sent while they can be; `fuel` bounds their number. -/
def State.drainPort (p : Nat) : Nat → State → State
  | 0, s => s
  | k + 1, s =>
    match pickTx (s.port p) [] (s.port p).waiting with
    | none => s
    | some r =>
      State.drainPort p k ((s.setPort p { s.port p with waiting := r.2 }).transmit p r.1)

/-- A frame queued on a port. -/
def State.enqueue (s : State) (p : Nat) (t : TxFrame) : State :=
  let x := s.port p
  State.drainPort p (x.waiting.length + 1) (s.setPort p { x with waiting := x.waiting ++ [t] })

/-! ### Routing (R274, R275) -/

/-- A device id with one coordinate replaced. -/
def setCoord (id d v : Nat) : Nat :=
  match d with
  | 0 => setFld id 0 5 v
  | 1 => setFld id 5 5 v
  | _ => setFld id 10 4 v

/-- The devices after `id` in a dimension, `n` of them, upward or downward. -/
def ringWalk (size d : Nat) (up : Bool) (id : Nat) : Nat → List Nat
  | 0 => []
  | n + 1 =>
    let c := devCoord id d
    let nx := setCoord id d (if up then (c + 1) % size else (c + size - 1) % size)
    nx :: ringWalk size d up nx n

/-- The direction of the next hop toward a device: dimension order, the shorter way around, upward when
both are equally long (R275), and the other way when the way would pass a failed device (13 R409). -/
def Fab.hop (f : Fab) (failed : List Nat) (dst : Nat) : Option Nat :=
  let self := f.devid
  ((List.range 3).find? fun d => devCoord dst d != devCoord self d).bind fun d =>
    let n := f.dim d
    if n ≤ devCoord dst d then none
    else
      let plus := (devCoord dst d + n - devCoord self d) % n
      let up := decide (plus ≤ n - plus)
      let way := ringWalk n d up self (if up then plus else n - plus)
      let bad := way.any fun h => h != dst && failed.contains h
      some (2 * d + b2n (up == bad))

/-- The ports that are UP in a direction, in ascending number. -/
def State.upPorts (s : State) (dir : Nat) : List Nat :=
  (List.range 24).filter fun p => (s.port p).isUp && (s.port p).dir == dir

/-- The UP port whose peer is a device that is not a neighbour in the torus (R274). -/
def State.directPort (s : State) (dst : Nat) : Option Nat :=
  (s.upPorts 6).find? fun p => (s.port p).peer == dst

/-- The context of a fabric tag: one that is ON and whose job's map carries it. -/
def State.ctxOfJob (s : State) (job : Nat) : Option Nat :=
  (s.ctxs.keys.filter fun c => (s.ctx c).on && (s.ctx c).kind == 0).find? fun c =>
    match s.smap c with
    | some m => m.job == job
    | none => false

/-- The port on which a frame leaves (R275). -/
def State.outPort (s : State) (f : Frame) : Option Nat :=
  match s.directPort f.dst with
  | some p => some p
  | none =>
    let failed := match s.ctxOfJob f.job with
      | some c => (s.ctx c).failed
      | none => []
    match s.fab.hop failed f.dst with
    | none => none
    | some d =>
      let ps := s.upPorts d
      if ps.isEmpty then none else ps[(f.flow + f.src) % ps.length]?

/-- Bytes cut into frames of at most `size` bytes of payload, with OFFSET and LAST (Table 9.2). -/
def cutFrames (size : Nat) (proto : Frame) : Nat → Nat → Bytes → List Frame
  | 0, _, _ => []
  | k + 1, o, bs =>
    let rest := bs.drop size
    { proto with offset := proto.offset + o, payload := bs.take size, last := rest.isEmpty,
                 fragHdr := proto.fragHdr && o == 0 }
      :: (if rest.isEmpty then [] else cutFrames size proto k (o + size) rest)

/-- On the link of direction `dir` a frame uses the second sub-channel of that dimension once it has crossed, or on this
hop crosses, the dimension's wrap link on its way from its source (R265). -/
def Fab.secondSub (f : Fab) (dir src : Nat) : Bool :=
  let d := dir / 2
  let n := f.dim d
  let c := devCoord f.devid d
  if 6 ≤ dir then false
  else if dir % 2 = 0 then decide ((c + 1) % n < devCoord src d)
  else decide (devCoord src d < (c + n - 1) % n)

/-- The frames in which the link of a port carries a frame: on a v1 link none, when it cannot carry it, and otherwise
payloads of at most 4,096 bytes (R273). The part that goes last gives up the receive buffer. -/
def State.linkFrames (s : State) (p : Nat) (t : TxFrame) : List TxFrame :=
  let x := s.port p
  let second := s.fab.secondSub x.dir t.frame.src
  if x.ver != 1 || t.frame.payload.length ≤ 4096 then
    if x.ver == 1 && !onV1 t.frame then [] else [{ t with second := second }]
  else if !onV1 t.frame then []
  else
    let n := t.frame.payload.length / 4096 + 1
    (cutFrames 4096 t.frame n 0 t.frame.payload).map fun f =>
      { frame := t.frame.relabel { f with last := f.last && t.frame.last }
        holds := if f.last then t.holds else none, second := second }

/-- A frame leaves toward its destination on its port, or waits while no port in its direction is UP. -/
def State.route (s : State) (t : TxFrame) : State :=
  match s.outPort t.frame with
  | none => { s with fab := { s.fab with unrouted := s.fab.unrouted ++ [t] } }
  | some p =>
    match s.linkFrames p t, t.holds with
    | [], some h => s.owe h.1 h.2.1 h.2.2
    | l, _ => l.foldl (fun st x => st.enqueue p x) s

/-- A frame created by this device, sent toward its destination with its E2E field formed (R268).
DEDUCED, log 58. -/
def State.sendFrame (s : State) (f0 : Frame) : State :=
  let f := { f0 with src := s.fab.devid }.seal
  if f.dst = s.fab.devid then { s with fab := { s.fab with inbox := s.fab.inbox ++ [f] } }
  else s.route { frame := f }

/-- A frame in transit forwarded unchanged (R268, R275). -/
def State.forward (s : State) (p : Nat) (f : Frame) : State :=
  s.route { frame := f, holds := if p < 24 then some (p, f.vc, f.credits) else none }

/-- Frames without a port tried again. -/
def State.reroute (s : State) : State :=
  s.fab.unrouted.foldl (fun st t => st.route t) { s with fab := { s.fab with unrouted := [] } }

/-- A frame that this device created and that satisfies `q` has not been accepted yet: it waits, or is not acknowledged
by the receiver of its link (R266; DEDUCED, log 43). -/
def State.unaccepted (s : State) (q : Frame → Bool) : Bool :=
  let mine (f : Frame) : Bool := f.src == s.fab.devid && q f
  s.fab.unrouted.any (fun t => mine t.frame) || s.fab.inbox.any mine
    || s.fab.ports.any fun x => x.2.waiting.any (fun t => mine t.frame) || x.2.replay.any fun r => mine r.orig

/-- The next hop toward a device is a v1 link (R273). -/
def State.v1Hop (s : State) (dst flow : Nat) : Bool :=
  match s.outPort { dst := dst, src := s.fab.devid, flow := flow } with
  | some p => (s.port p).ver == 1
  | none => false

/-- A transfer sent in frames; an empty transfer is one frame of LEN 0. -/
def State.sendBytes (s : State) (proto : Frame) (bs : Bytes) : State :=
  let size := if s.v1Hop proto.dst proto.flow then 4096 else 8192
  (cutFrames size proto (bs.length / size + 1) 0 bs).foldl (fun st f => st.sendFrame f) s

/-- A device is a member of the job in its current epoch (R272). -/
def State.jobMember (s : State) (c dev : Nat) : Bool :=
  match s.group c 0 with
  | some g => g.members.contains dev
  | none => true

/-- The report of a receiving stream to its peer: that the flow is open, rows freed, rows taken into the ring (R288). A
device that is no member of the job gets none (R272). -/
def State.reportRing (s : State) (c peer flow freed taken : Nat) : State :=
  if !s.jobMember c peer then s
  else s.sendFrame { ty := 3, vc := 2, dst := peer, group := 0xFFFF, cseq := flow, last := true, flow := flow
                     job := ((s.smap c).map (·.job)).getD 0, epoch := ((s.ctx c).job.map (·.epoch)).getD 0
                     msg := some (.ring flow freed taken) }

/-! ### The part's causes of recovery (13 R396, R402) -/

/-- A cause of recovery raised for the job of a context; RECOVERY_ENTER enters it. -/
def State.raise (s : State) (c cause subject : Nat) : State :=
  let x := s.ctx c
  if x.job.isNone then s
  else s.setCtx c { x with recov := { x.recov with raised := x.recov.raised ++ [(cause, subject)] } }

/-- The contexts that hold a place in a job. -/
def State.jobCtxs (s : State) : List Nat :=
  s.ctxs.keys.filter fun c => (s.ctx c).on && (s.ctx c).job.isSome

/-- A peer becomes suspect: reported for every job whose group 0 lists it (R271, R396). -/
def State.suspectPeer (s : State) (dev : Nat) : State :=
  s.jobCtxs.foldl (fun st c =>
    match st.group c 0 with
    | some g => if g.members.contains dev && dev != st.fab.devid then st.raise c 1 dev else st
    | none => st) s

/-- Every port to a peer is down; a port that retrains is not (R267, R271). -/
def State.peerDown (s : State) (dev : Nat) : Bool :=
  (List.range 24).all fun p => !((s.port p).en.st != .off && (s.port p).up && (s.port p).peer == dev)

/-- The frames that wait on a port sent another way, but for those that belong to the link itself. -/
def State.moveWaiting (s : State) (l : List TxFrame) : State :=
  (l.filter fun t => !t.frame.bare && t.frame.ty != 0).foldl (fun st t => st.route t) s

/-- A port goes down: frames still unacknowledged are a failure of the running steps of their jobs; the
others move to the direction's other ports (R267, R271). -/
def State.portDown (s : State) (p : Nat) (lost : Bool) : State :=
  let x := s.port p
  let jobs := (x.replay.filter fun r => 3 ≤ r.orig.ty).map fun r => r.orig.job
  let y : Port := { x with up := false, lost := x.lost || lost, waiting := [], replay := [],
                           retraining := false, cred := [], owed := [], naked := false }
  let s1 := s.setPort p y
  let s2 := (s1.jobCtxs.filter fun c => match s1.smap c with
      | some m => jobs.contains m.job
      | none => false).foldl (fun st c => st.raise c 2 st.fab.devid) s1
  s2.moveWaiting x.waiting

end Sys2Proof.Machine
end

