-- ==== Sys2Proof/Machine/Remote.lean ====
section
/-! DEFINITION. Accesses to host memory and to peer HBM: their requests, their parts and their answers
(11_memory_tiers R345; 14_host_port R443, R444). -/

namespace Sys2Proof.Machine

/-- A queue pair. -/
def State.qp (s : State) (n : Nat) : Option Qp := Tbl.find s.host.qps n
/-- A queue pair replaced. -/
def State.setQp (s : State) (n : Nat) (x : Qp) : State :=
  { s with host := { s.host with qps := Tbl.set s.host.qps n x } }

/-- A host region by its handle, none when it has been removed; 0 is never valid (R443). -/
def State.region (s : State) (h : Nat) : Option Region :=
  if h = 0 then none else (Tbl.find s.host.regions h).bind fun r => if r.removing then none else some r

/-- An access of `n` bytes to host memory, handle in bits 63:48 and offset below, is inside its region and
permitted. -/
def State.hostOk (s : State) (a n : Nat) (write : Bool) : Bool :=
  match s.region (fld a 48 16) with
  | none => false
  | some r => decide (fld a 0 48 + n ≤ r.len) && bit r.access (b2n write)

/-- The path MTU of its code (R443). -/
def mtuBytes (code : Nat) : Nat := match code with | 3 => 1024 | 4 => 2048 | _ => 4096

/-- A request recorded, and its tag. -/
def State.newRemote (s : State) (r : Remote) : State :=
  { s with remotes := s.remotes ++ [{ r with tag := s.nextTag }], nextTag := s.nextTag + 1 }

/-- A RoCEv2 packet sent; one for a paused PFC_PRIO waits (R430). -/
def State.rdmaEmit (s : State) (p : Rdma) : State :=
  if s.host.paused then { s with host := { s.host with heldTx := s.host.heldTx ++ [p] } } else s.emit (.rdma p)

/-- A packet sent on a queue pair as requester. -/
def State.rdmaSend (s : State) (n : Nat) (q : Qp) (p0 : Rdma) (tag : Nat) : State :=
  let p : Rdma := { p0 with qpn := q.peerQpn, psn := q.txPsn }
  (s.setQp n { q with txPsn := (q.txPsn + 1) % 2 ^ 24, sent := q.sent ++ [⟨p, tag, 0⟩] }).rdmaEmit p

/-- One part of an access to host memory. -/
def State.hostPart (s : State) (h : Nat) (r0 : Remote) (a : Nat) (data : Bytes) : State :=
  match Tbl.find s.host.regions h with
  | none => s.newRemote { r0 with answered := true, failed := true }
  | some g =>
    match s.qp g.qpn with
    | none => s.newRemote { r0 with answered := true, failed := true }
    | some q =>
      let tag := s.nextTag
      (s.newRemote r0).rdmaSend g.qpn q
        { op := if r0.write then .write else .read, qpn := 0, psn := 0, rkey := g.rkey, addr := g.base + a,
          len := r0.len, data := data } tag

/-- The offsets and lengths of the parts of `n` bytes. -/
def partsOf (size n : Nat) : List (Nat × Nat) :=
  (List.range (ceilDiv n size)).map fun i => (i * size, min size (n - i * size))

/-- An access to host memory of `n` bytes begun; `data` is empty for a read. -/
def State.hostAccess (s : State) (c : Nat) (key : List Nat) (a n : Nat) (write : Bool) (data : Bytes) : State :=
  let h := fld a 48 16
  let size := match (Tbl.find s.host.regions h).bind fun g => s.qp g.qpn with
    | some q => mtuBytes q.mtu
    | none => 4096
  (partsOf size n).foldl (fun st p =>
    st.hostPart h { tag := 0, ctx := c, key := key, off := p.1, host := true, write := write, len := p.2 }
      (fld a 0 48 + p.1) (sliceB data p.1 p.2)) s

/-- The fabric tag and epoch of a context's job. -/
def State.jobTag (s : State) (c : Nat) : Nat := ((s.smap c).map (·.job)).getD 0
def State.jobEpoch (s : State) (c : Nat) : Nat := ((s.ctx c).job.map (·.epoch)).getD 0

/-- An access to the HBM of a peer begun: REQ frames on VC1 (Table 9.3, R345). -/
def State.peerAccess (s : State) (c : Nat) (key : List Nat) (dev a n : Nat) (write : Bool) (data : Bytes)
    (queue : Option Nat) (last : Bool) : State :=
  let size := if s.v1Hop dev 0 then 4096 else 8192
  let ps := partsOf size n
  ps.foldl (fun st p =>
    let tag := st.nextTag
    let st1 := st.newRemote
      { tag := 0, ctx := c, key := key, off := p.1, host := false, write := write, len := p.2 }
    st1.sendFrame { ty := 5, vc := 1, dst := dev, job := st1.jobTag c, epoch := st1.jobEpoch c, last := true,
                    payload := sliceB data p.1 (if write then p.2 else 0)
                    msg := some (.request tag write a n p.1 p.2
                      (queue.map fun q => (q, last && decide (n ≤ p.1 + p.2)))) }) s

/-- The parts of an access. -/
def State.remoteParts (s : State) (c : Nat) (key : List Nat) : List Remote :=
  s.remotes.filter fun r => r.ctx == c && r.key == key
/-- Every part of every access whose key begins so has been answered. -/
def State.remoteOver (s : State) (c : Nat) (pre : List Nat) : Bool :=
  s.remotes.all fun r => !(r.ctx == c && pre.isPrefixOf r.key) || r.answered
/-- The failed parts of the accesses whose key begins so. -/
def State.remoteFails (s : State) (c : Nat) (pre : List Nat) : List Remote :=
  s.remotes.filter fun r => r.ctx == c && pre.isPrefixOf r.key && r.failed
/-- What a read returned, its parts in order. -/
def State.remoteData (s : State) (c : Nat) (key : List Nat) : Bytes :=
  ((sortBy (fun (a b : Remote) => decide (a.off ≤ b.off)) (s.remoteParts c key)).map (·.data)).flatten
/-- The accesses whose key begins so forgotten. -/
def State.dropRemotes (s : State) (c : Nat) (pre : List Nat) : State :=
  { s with remotes := s.remotes.filter fun r => !(r.ctx == c && pre.isPrefixOf r.key) }

/-- The answer of a part: its data, or a failure. -/
def State.answerRemote (s : State) (tag : Nat) (ok : Bool) (data : Bytes) : State :=
  { s with remotes := s.remotes.map fun r =>
      if r.tag == tag && !r.answered then { r with answered := true, failed := !ok, data := data } else r }

end Sys2Proof.Machine
end

