-- ==== Sys2Proof/Machine/MatrixCalc.lean ====
section
/-! DEFINITION. The arithmetic of the matrix array: exact products, blocks, pass modes, accumulation,
residue checks and the conversion of results (02_number_formats R38, R39, R50, R60 to R62;
03_matrix_array R90 to R92).
Assumption log: log 22 (DEDUCED), log 23 (DESIGN CHOICE), log 35 (DESIGN CHOICE). -/

namespace Sys2Proof.Machine

/-! ### Exact values -/

/-- An exact value with an invalid-operation mark. -/
structure XV where
  v : Fv
  bad : Bool
deriving DecidableEq, Repr

/-- The canonical quiet NaN. -/
def fvNaN : Fv := .nan false true 0x400000

/-- An exact product (R38, R39): `0 · ∞` is invalid, a signalling NaN raises invalid. -/
def fvMul (a b : Fv) : XV :=
  match a, b with
  | .nan _ q _, .nan _ q' _ => ⟨fvNaN, !q || !q'⟩
  | .nan _ q _, _ => ⟨fvNaN, !q⟩
  | _, .nan _ q _ => ⟨fvNaN, !q⟩
  | .inf s, .inf t => ⟨.inf (s != t), false⟩
  | .inf s, .fin t m _ => if m = 0 then ⟨fvNaN, true⟩ else ⟨.inf (s != t), false⟩
  | .fin s m _, .inf t => if m = 0 then ⟨fvNaN, true⟩ else ⟨.inf (s != t), false⟩
  | .fin s m e, .fin t n f => ⟨.fin (s != t) (m * n) (e + f), false⟩

/-- An exact sum; `∞ − ∞` is invalid. -/
def fvAdd (a b : Fv) : XV :=
  match a, b with
  | .nan _ q _, .nan _ q' _ => ⟨fvNaN, !q || !q'⟩
  | .nan _ q _, _ => ⟨fvNaN, !q⟩
  | _, .nan _ q _ => ⟨fvNaN, !q⟩
  | .inf s, .inf t => if s == t then ⟨.inf s, false⟩ else ⟨fvNaN, true⟩
  | .inf s, .fin _ _ _ => ⟨.inf s, false⟩
  | .fin _ _ _, .inf t => ⟨.inf t, false⟩
  | .fin s m e, .fin t n f => let r := exactAdd s m e t n f; ⟨.fin r.1 r.2.1 r.2.2, false⟩

/-- A value rounded once into FP32, NaN canonical (R39). -/
def fvRound (x : XV) : FRes :=
  match x.v with
  | .nan _ q _ => ⟨nan32, flIf (x.bad || !q) flInvalid⟩
  | .inf s => ⟨inf32 s, flIf x.bad flInvalid⟩
  | .fin s m e => let r := roundF32 s m e; ⟨r.v, r.fl ||| flIf x.bad flInvalid⟩

/-- An exact term added into an FP32 accumulator with one rounding (R62). -/
def accAdd (acc : W32) (x : XV) : FRes :=
  let y := fvAdd (decF32 acc) x.v
  fvRound ⟨y.v, y.bad || x.bad⟩

/-! ### Pass modes (R60 to R62) -/

/-- The BF16 layout. -/
def bf16 : FloatFmt := (floatFmt 1).getD ⟨8, 7, 127, .ieee⟩

/-- A value rounded to nearest BF16. -/
def toBf16 (v : Fv) : Fv := decElem 1 (convFloat bf16 false .nearest v).bits

/-- The negation of an exact value. -/
def fvNeg : Fv → Fv
  | .nan s q f => .nan s q f
  | .inf s => .inf (!s)
  | .fin s m e => .fin (!s) m e

/-- An exact value whose sum and products cannot be invalid by themselves. -/
def xvOk (v : Fv) : XV := ⟨v, false⟩

/-- An exact difference. -/
def xvSub (a : XV) (b : Fv) : XV :=
  let y := fvAdd a.v (fvNeg b)
  ⟨y.v, y.bad || a.bad⟩

/-- A pass mode of a product (0 PASS1, 1 PASS2, 2 PASS3), and for each operand whether it is sourced from
BF16, so that it has only its first piece (R61). -/
structure PassMode where
  mode : Nat
  narrowA : Bool := false
  narrowB : Bool := false
deriving DecidableEq, Repr

/-- The pieces of an operand (R61): aₕ and aₗ under PASS2, aₕ, aₘ and aₗ under PASS3, each with the invalid
mark of the subtraction that forms it. The overflow of a first piece into an infinity raises no overflow
flag: R61 and R41 do not say that it does (DESIGN CHOICE, log 23). -/
def splitPass (mode : Nat) (narrow : Bool) (v : Fv) : List XV :=
  let h := toBf16 v
  if narrow then [xvOk h, xvOk fvZ, xvOk fvZ]
  else
    let r := xvSub (xvOk v) h
    let m : XV := ⟨toBf16 r.v, r.bad⟩
    let q := xvSub r m.v
    if mode = 1 then [xvOk h, m] else [xvOk h, m, ⟨toBf16 q.v, q.bad⟩]
where
  /-- A piece that is zero. -/
  fvZ : Fv := .fin false 0 0

/-- A finite value test. -/
def fvFin : Fv → Bool
  | .fin _ _ _ => true
  | _ => false

/-- The sign of a finite value or an infinity. -/
def fvSign : Fv → Bool
  | .nan s _ _ => s
  | .inf s => s
  | .fin s _ _ => s

/-- A finite value is zero. -/
def fvZero : Fv → Bool
  | .fin _ m _ => m == 0
  | _ => false

/-- The exact sum of a list of exact terms, from −0 (R38). -/
def fvSum (l : List XV) : XV :=
  l.foldl (fun a x => let y := fvAdd a.v x.v; ⟨y.v, y.bad || a.bad || x.bad⟩) ⟨.fin true 0 0, false⟩

/-- The partial products of Table 2.7 by piece numbers. -/
def passTerms : Nat → List (Nat × Nat)
  | 1 => [(0, 0), (0, 1), (1, 0), (1, 1)]
  | _ => [(0, 0), (0, 1), (1, 0), (0, 2), (2, 0), (1, 1)]

/-- The product of two pieces. -/
def pieceMul (a b : XV) : XV :=
  let y := fvMul a.v b.v
  ⟨y.v, y.bad || a.bad || b.bad⟩

/-- The term of an element pair (R62): in PASS1 the product; in PASS2 and PASS3 the exact sum of the
partial products of Table 2.7, with the sign of a zero sum taken from the operands as presented. -/
def passProduct (p : PassMode) (a b : Fv) : XV :=
  if p.mode = 0 then fvMul a b
  else
    let pa := splitPass p.mode p.narrowA a
    let pb := splitPass p.mode p.narrowB b
    let zero : XV := xvOk (.fin false 0 0)
    let x := fvSum ((passTerms p.mode).map fun ij =>
      pieceMul ((pa[ij.1]?).getD zero) ((pb[ij.2]?).getD zero))
    if fvZero x.v then ⟨.fin (fvSign a != fvSign b) 0 0, x.bad⟩ else x

/-! ### Dot products -/

/-- A list cut into groups of `n`. -/
def chunks {α : Type} (n : Nat) : Nat → List α → List (List α)
  | 0, _ => []
  | f + 1, l => if l.isEmpty then [] else l.take n :: chunks n f (l.drop n)

/-- The terms of a reduction: one for each element pair, or one for each block when an operand is
block-scaled (R50, R62). -/
def dotTerms (pass : PassMode) (bsize : Nat) (a b : List Fv) : List XV :=
  let ps := (a.zip b).map fun p => passProduct pass p.1 p.2
  if bsize = 0 then ps else (chunks bsize ps.length ps).map fvSum

/-- An FP32 accumulation over a reduction, from the prior value or −0, in ascending reduction index
(R38, R62; the order is DEDUCED, log 22). -/
def dotF (pass : PassMode) (bsize : Nat) (c0 : W32) (a b : List Fv) : FRes :=
  (dotTerms pass bsize a b).foldl (fun r x =>
    let y := accAdd r.v x
    ⟨y.v, r.fl ||| y.fl⟩) ⟨c0, flNone⟩

/-- An INT32 accumulation modulo 2^32; a wrap raises overflow (R50). -/
def dotI (c0 : Int) (a b : List Int) : Int × ExFlags :=
  (a.zip b).foldl (fun r p =>
    let t := r.1 + p.1 * p.2
    let w := sext 32 (wrapInt 32 t)
    (w, if w = t then r.2 else r.2 ||| flOverflow)) (c0, flNone)

/-! ### Matrices -/

/-- The transpose of a matrix with `n` columns. -/
def transposeN {α : Type} (d : α) (n : Nat) (m : List (List α)) : List (List α) :=
  (List.range n).map fun j => m.map fun r => (r[j]?).getD d

/-- The exact value of a zero element. -/
def fvPos0 : Fv := .fin false 0 0

/-- The integer value of an exact integer element. -/
def fvInt : Fv → Int
  | .fin s m e => let n : Int := ((m * 2 ^ e.toNat : Nat) : Int); if s then -n else n
  | _ => 0

/-! ### Residue checks (03 R90 to R92) -/

/-- The FP32 sum of a list in order. -/
def sumF (l : List W32) : W32 := l.foldl faddC (zero32 true)

/-- The outcome of one comparison. -/
inductive Residue where
  | pass | skip | fault
deriving DecidableEq, Repr

/-- The test of R90 with its coefficient `n · 2^(m-24)`: `|s − y1| > n · 2^(m-24) · y2`. -/
def residueTest (n m : Nat) (results : List W32) (y1 y2 : W32) : Residue :=
  let s := sumF results
  if results.any (fun r => !isFin32 r) || !isFin32 s || !isFin32 y1 || !isFin32 y2 then .skip
  else
    match decF32 s, decF32 y1, decF32 y2 with
    | .fin ss ms es, .fin s1 m1 e1, .fin _ m2 e2 =>
      if distLeX ss ms es s1 m1 e1 (n * m2) (e2 + m - 24) then .pass else .fault
    | _, _, _ => .skip
where
  /-- `|a − b| ≤ c`. -/
  distLeX (sa : Bool) (ma : Nat) (ea : Int) (sb : Bool) (mb : Nat) (eb : Int) (mc : Nat) (ec : Int) :
      Bool :=
    let d := exactAdd sa ma ea (!sb) mb eb
    magCmp d.2.1 d.2.2 mc ec != .gt

/-- The magnitude of an exact value. -/
def fvAbs : Fv → Fv
  | .nan _ q f => .nan false q f
  | .inf _ => .inf false
  | .fin _ m e => .fin false m e

/-- The check of one group of results (a streamed row of WS or IS, an output column of OS): `side` is
the reduction vector that all results share, `sums` and `mags` the FP32 sums and sums of magnitudes
of the other operand for each reduction index, `c0s` the prior values (R90, R91). The spec does not give the
order of these FP32 additions: the sums over j run in ascending j from −0, and a check product starts from the
sum of the prior values and takes the products in ascending reduction index (DESIGN CHOICE, log 35). -/
def residueGroup (delta kp w m : Nat) (side : List Fv) (sums mags : List W32) (c0s results : List W32) :
    Residue :=
  let y1 := dotF ⟨0, false, false⟩ 0 (sumF c0s) side (sums.map decF32)
  let y2 := dotF ⟨0, false, false⟩ 0 (sumF (c0s.map abs32)) (side.map fvAbs) (mags.map decF32)
  residueTest (delta + kp + w + 2) m results y1.v y2.v

/-- The FP32 sum and sum of magnitudes of a vector of elements (R90). -/
def checkSums (l : List Fv) : W32 × W32 :=
  (sumF (l.map fun v => (fvRound ⟨v, false⟩).v), sumF (l.map fun v => (fvRound ⟨fvAbs v, false⟩).v))

/-- The exact check of an integer instruction without block scales, modulo 2^32 (R92). -/
def residueInt (side : List Int) (sums c0s results : List Int) : Residue :=
  let y := (side.zip sums).foldl (fun a p => a + p.1 * p.2) (c0s.foldl (· + ·) 0)
  if wrapInt 32 y = wrapInt 32 (results.foldl (· + ·) 0) then .pass else .fault

end Sys2Proof.Machine
end

