-- ==== Sys2Proof/Machine/Frags.lean ====
section
/-! DEFINITION. Update fragments on their way: their wire form, their owners, the trees that combine them
and their delivery to update-on-arrival units (08_update_on_arrival R224 to R226, R281, R282 of
09_causeway_collectives).
Assumption log: log 43 (DEDUCED), log 57 (DESIGN CHOICE). -/

namespace Sys2Proof.Machine

/-! ### Elements (08 R224, 02 R58) -/

/-- Row and column of element `i` of fragment `f` (R224). -/
def Tensor.rowCol (x : Tensor) (f i : Nat) : Nat × Nat :=
  (64 * (f % x.gr) + i / 128, 128 * (f / x.gr) + i % 128)
/-- The element lies inside the tensor. -/
def Tensor.inside (x : Tensor) (f i : Nat) : Bool :=
  let p := x.rowCol f i
  decide (p.1 < x.rows) && decide (p.2 < x.cols)
/-- The linear index of an element in the logical tensor (R58). -/
def Tensor.linear (x : Tensor) (f i : Nat) : Nat :=
  let p := x.rowCol f i
  (p.1 * x.cols + p.2) % 2 ^ 48

/-! ### Wire form (Table 8.2) -/

/-- The element format of a wire code. -/
def wireFmt (w : Nat) : Nat := match w with | 1 => 3 | 2 => 1 | _ => 0
/-- The header of a fragment. -/
def fragHeader (f : Fragment) : Bytes :=
  leBytes 3 f.tid ++ leBytes 1 (b2n f.suspect + 2 * b2n f.empty + 4 * f.wire) ++ leBytes 4 f.fidx
    ++ leBytes 8 f.mstone ++ leBytes 4 f.expect ++ leBytes 4 f.contrib ++ leBytes 2 f.srank
    ++ leBytes 2 0 ++ leBytes 4 f.epoch
/-- A fragment as it travels; its elements are exact in the wire format. -/
def fragBytes (f : Fragment) : Bytes :=
  let code := wireFmt f.wire
  fragHeader f ++ (if f.empty then [] else if code = 0 then f.elems.flatMap fun v => leBytes 4 v.toNat
    else f.elems.flatMap fun v => leBytes 2 (convTo! code true .nearest (decF32 v)).bits)
/-- A fragment read from its bytes. -/
def parseFrag (b : Bytes) : Fragment :=
  let fl := recN b 3 1
  let w := fld fl 2 2
  let empty := bit fl 1
  let code := wireFmt w
  let sz := if code = 0 then 4 else 2
  { tid := recN b 0 3, fidx := recN b 4 4, mstone := recN b 8 8, expect := recN b 16 4,
    contrib := recN b 20 4, srank := recN b 24 2, epoch := recN b 28 4, suspect := bit fl 0,
    empty := empty, wire := w, reserved := fld fl 4 4 != 0 || recN b 26 2 != 0,
    elems := if empty || w == 3 then [] else
      (chunks sz 8192 (b.drop 32)).map fun e => elemToF32 code (leNat e) }

/-- The wire format of a tensor's remote fragments: E6M9 in place of FP32 in class N (04 R118). -/
def State.wireOf (s : State) (c : Nat) (x : Tensor) : Nat :=
  if x.wire = 0 ∧ !(s.ctx c).classW then 1 else x.wire

/-- A fragment converted into the wire format at site 1, with the rank of the sender as ordinal
(Table 2.6, R226, R281). -/
def State.toWire (s : State) (c rank : Nat) (x : Tensor) (f : Fragment) : Fragment :=
  let w := s.wireOf c x
  let key := srKey (s.ctx c).jobSeed f.tid f.mstone
  let code := wireFmt w
  { f with wire := w, elems := if code = 0 then f.elems else
      (f.elems.zip (List.range 8192)).map fun p =>
        elemToF32 code (convTo! code true (.stochastic (srBits key (x.linear f.fidx p.2) 1 (rank % 4096)))
          (decF32 p.1)).bits }

/-! ### Delivery to a reduction buffer -/

/-- The tile whose unit takes a fragment of a tensor: the owner tile of Table 8.1; for a fragment that the device
does not hold the tensor's first owner tile, without a record the tile of virtual id 0 (DESIGN CHOICE, log 109). -/
def State.uoaTile (s : State) (c : Nat) (f : Fragment) : Nat :=
  s.physD c (((s.tensor c f.tid).map fun x => (s.ownerTile c x f.fidx).getD x.ovt0).getD 0)

/-- A contribution put behind those that wait at a unit (R227). -/
def State.contribute (s : State) (x : Contribution) : State :=
  let t := s.uoaTile x.ctx x.frag
  let u := s.uoa t
  s.setUoa t { u with waiting := u.waiting ++ [x] }

/-- A fragment of a local instruction is accepted (R227). -/
def State.accepted (s : State) (c : Nat) (who : Option (Nat × Nat × Nat)) : State :=
  match who with
  | none => s
  | some w => { s with flight := s.flight.map fun f =>
      if f.ctx == c && f.vt == w.1 && f.queue == w.2.1 && f.seq == w.2.2
      then { f with frags := f.frags - 1 } else f }

/-! ### Trees (R281, R282) -/

/-- The places of a contributor tree: the members, the fan-out, the root's rank, and whether the tensor
is replicated. -/
structure FragTree where
  group : Nat
  members : List Nat
  fan : Nat
  root : Nat
  replica : Bool
deriving DecidableEq, Repr

/-- The device that owns a fragment (10 R310). -/
def State.ownerDev (s : State) (c : Nat) (t : Bytes) (f : Nat) : Nat :=
  match s.group c (tenOgroup t) with
  | none => s.fab.devid
  | some g =>
    (g.members[shareOwner (tenNfrag t) g.members.length f]?).getD s.fab.devid

/-- The tree on which a fragment travels, none when the contributor group does not list its root. -/
def State.fragTree (s : State) (c : Nat) (m : SMap) (x : Tensor) (t : Bytes) (f : Nat) :
    Option FragTree :=
  match s.group c (tenCgroup t) with
  | none => none
  | some g =>
    let rep := x.replica || m.replica
    let root := if rep then some 0 else indexOf? (s.ownerDev c t f) g.members
    root.map fun r => ⟨tenCgroup t, g.members, g.fan, r, rep⟩

/-- The frame that carries parts of a fragment. -/
def State.fragFrame (s : State) (c vc dst group : Nat) (m : SMap) (f : Fragment) : Frame :=
  { ty := 4, vc := vc, dst := dst, job := m.job, epoch := ((s.ctx c).job.map (·.epoch)).getD 0,
    group := group, flow := f.fidx, fragHdr := true }

/-- The inputs of a node combined in fixed order: FP32 sums in ascending lowest rank, counts added,
SUSPECT bits ORed (R279, R281). -/
def combineFrags (fs : List Fragment) : Option Fragment :=
  let l := sortBy (fun a b => decide (a.srank ≤ b.srank)) fs
  match l with
  | [] => none
  | f :: rest => some <| rest.foldl (fun a g =>
      { a with contrib := a.contrib + g.contrib, suspect := a.suspect || g.suspect
               reserved := a.reserved || g.reserved
               empty := a.empty && g.empty
               elems := if g.empty then a.elems else if a.empty then
                   g.elems.map (faddC (zero32 true) ·)
                 else (a.elems.zip g.elems).map fun p => faddC p.1 p.2 }) f

/-- A replica's fragment sent down the tree and taken into this device's own buffer (R282). -/
def State.replicaDown (s : State) (c rank : Nat) (m : SMap) (tr : FragTree) (f : Fragment)
    (port : Option (Nat × Nat × Nat)) : State :=
  let s1 := (treeChildren tr.members.length tr.root tr.fan rank).foldl (fun st k =>
    st.sendBytes (st.fragFrame c 3 ((tr.members[k]?).getD 0) tr.group m f) (fragBytes f)) s
  s1.contribute { ctx := c, frag := f, port := port }

/-! ### Reduction nodes (R279 to R281) -/

/-- An accumulator of a reduction store held for a chunk, in the first field that has one free; none while all 256 of
every field are held (R280; the field is a DESIGN CHOICE, log 57). -/
def State.takeAcc (s : State) (c : Nat) (key : List Nat) : Option State :=
  if s.fab.accs.any fun a => a.ctx == c && a.key == key then some s
  else ((List.range 4).find? fun k => decide ((s.fab.accs.filter fun a => a.field == k).length < 256)).map fun k =>
    { s with fab := { s.fab with accs := s.fab.accs ++ [⟨k, c, key⟩] } }
/-- Accumulators given back. -/
def State.freeAccs (s : State) (c : Nat) (keys : List (List Nat)) : State :=
  { s with fab := { s.fab with accs := s.fab.accs.filter fun a => !(a.ctx == c && keys.contains a.key) } }
/-- Every accumulator of every field is held. -/
def Fab.accsFull (f : Fab) : Bool := decide (1024 ≤ f.accs.length)

/-- The inputs of a node in addition order in fixed-order mode: the lowest rank that each combines, and the rank from
which it comes, its own among them (R279). -/
def inputOrder (n root fan r : Nat) : List (Nat × Nat) :=
  sortBy (fun a b => decide (a.1 ≤ b.1))
    ((r, r) :: (treeChildren n root fan r).map fun k => (minOf (treeSub n root fan treeFuel k), k))

/-- The end-to-end credit that a node grants a child: the key names the chunk or the fragment (R280). -/
def State.sendGrant (s : State) (c group from_ to_ dst flow : Nat) (ty vc cseq : Nat) (key : List Nat) : State :=
  s.sendFrame { ty := ty, vc := vc, dst := dst, job := ((s.smap c).map (·.job)).getD 0
                epoch := ((s.ctx c).job.map (·.epoch)).getD 0, group := group, cseq := cseq, last := true, flow := flow
                rankFrom := some from_, rankTo := some to_, msg := some (.grant key) }

/-- The keys of the two accumulators of a fragment at a node: a fragment is two chunks of 4,096 elements. -/
def FragNode.accKeys (n : FragNode) : List (List Nat) :=
  [[1, n.tid, n.fidx, n.mstone, n.rank, 0], [1, n.tid, n.fidx, n.mstone, n.rank, 1]]
/-- The same node. -/
def FragNode.same (n k : FragNode) : Bool :=
  k.ctx == n.ctx && k.tid == n.tid && k.fidx == n.fidx && k.mstone == n.mstone && k.rank == n.rank
/-- A node replaced. -/
def State.setNode (s : State) (n : FragNode) : State :=
  { s with fab := { s.fab with frags := s.fab.frags.filter (fun k => !n.same k) ++ [n] } }

/-- A node whose inputs are all in sends their combination on: toward the owner, or, at the root of a replica's tree,
down (R281, R282). -/
def State.nodeSend (s : State) (c : Nat) (m : SMap) (x : Tensor) (tr : FragTree) (n : FragNode) : State :=
  let s1 : State := { s with fab := { s.fab with frags := s.fab.frags.filter fun k => !n.same k } }
  let s2 := s1.freeAccs c n.accKeys
  match combineFrags (n.inputs.map (·.2)) with
  | none => s2
  | some g0 =>
    let g := s2.toWire c n.rank x g0
    match treeParent tr.members.length tr.root tr.fan n.rank with
    | some p => s2.sendBytes (s2.fragFrame c 2 ((tr.members[p]?).getD 0) tr.group m g) (fragBytes g)
    | none => s2.replicaDown c n.rank m tr { g with contrib := 1, expect := 1, srank := 0 } none

/-- A node goes on. With children it needs its accumulators first. Its own contribution is added, and so accepted, once
those before it in fixed order are in (R227, R279); the child whose input is the next is granted a credit (R280). The sum
goes on when it is whole and the parent has granted a credit for it; the owner, which adds in its reduction buffer, grants
none (R229, Table 9.7). -/
def State.nodeStep (s : State) (c : Nat) (m : SMap) (x : Tensor) (tr : FragTree) (n : FragNode) : State :=
  let len := tr.members.length
  let leaf := (treeChildren len tr.root tr.fan n.rank).isEmpty
  match if leaf then some s else n.accKeys.foldl (fun o k => o.bind fun st => st.takeAcc c k) (some s) with
  | none => s
  | some s1 =>
    let order := (inputOrder len tr.root tr.fan n.rank).map (·.2)
    let isIn (r : Nat) : Bool := if r = n.rank then n.own else n.inputs.any fun i => i.1 == r
    let added := n.own && (order.takeWhile (· != n.rank)).all isIn
    let s2 := if added then s1.accepted c n.sender else s1
    let n2 : FragNode := if added then { n with sender := none } else n
    match order.find? fun r => !isIn r with
    | some r =>
      if r = n.rank || n.granted.contains r then s2.setNode n2
      else (s2.setNode { n2 with granted := r :: n2.granted }).sendGrant c tr.group n.rank r
        ((tr.members[r]?).getD 0) n.fidx 3 3 0 [1, n.tid, n.fidx, n.mstone]
    | none =>
      let asks := match treeParent len tr.root tr.fan n.rank with
        | some p => tr.replica || p != tr.root
        | none => false
      if asks && !n.go then s2.setNode n2 else s2.nodeSend c m x tr n2

/-- A node found again goes on. -/
def State.stepNode (s : State) (n0 : FragNode) : State :=
  match s.fab.frags.find? n0.same, s.smap n0.ctx, s.tensor n0.ctx n0.tid with
  | some n, some m, some x =>
    (match (m.tensorEntry n.tid).bind fun t => s.fragTree n.ctx m x t n.fidx with
    | some tr => s.nodeStep n.ctx m x tr n
    | none => s)
  | _, _, _ => s

/-- A node goes on, and where it gives accumulators back that others wait for, those go on. -/
def State.runNode (s : State) (n : FragNode) : State :=
  let s1 := s.stepNode n
  if s.fab.accsFull && !s1.fab.accsFull then s1.fab.frags.foldl State.stepNode s1 else s1

/-- The node of a rank for a fragment, as it is or new. -/
def State.nodeOf (s : State) (c tid fidx mstone rank : Nat) : FragNode :=
  let n : FragNode := { ctx := c, tid := tid, fidx := fidx, mstone := mstone, rank := rank }
  (s.fab.frags.find? n.same).getD n

/-- A fragment taken into the node of a rank: this device's own contribution, or the input of the child `from_`. -/
def State.nodeInput (s : State) (c rank from_ : Nat) (f : Fragment) (who : Option (Nat × Nat × Nat)) : State :=
  let n := s.nodeOf c f.tid f.fidx f.mstone rank
  let own := from_ == rank
  let n1 : FragNode := { n with own := n.own || own, inputs := n.inputs ++ [(from_, f)]
                                sender := if own then who else n.sender }
  (s.setNode n1).runNode n1

/-- The parent's credit for a fragment has come (R280). -/
def State.nodeGrant (s : State) (c tid fidx mstone rank : Nat) : State :=
  let n1 : FragNode := { s.nodeOf c tid fidx mstone rank with go := true }
  (s.setNode n1).runNode n1

/-- The node of this device that still lacks its own contribution: the ranks it holds in order (13
R408). -/
def State.ownNode (s : State) (c : Nat) (tr : FragTree) (f : Fragment) : Option Nat :=
  (ranksIn s.fab.devid tr.members).find? fun r => !(s.fab.frags.any fun k =>
    k.ctx == c && k.tid == f.tid && k.fidx == f.fidx && k.mstone == f.mstone && k.rank == r && k.own)

/-- A fragment that a local instruction sends: to the unit of its owner tile on this device, or onto its
contributor tree (R225, R226, R281). What leaves outside a tree is accepted when it is sent (DEDUCED, log 43). -/
def State.sendFragment (s : State) (c : Nat) (who : Option (Nat × Nat × Nat)) (f : Fragment) : State :=
  match s.smap c, s.tensor c f.tid with
  | some m, some x =>
    match m.tensorEntry f.tid with
    | none => s.contribute { ctx := c, frag := f, sender := who }
    | some t =>
      let owner := s.ownerDev c t f.fidx
      if owner = s.fab.devid ∧ !(x.replica || m.replica) then
        s.contribute { ctx := c, frag := f, sender := who }
      else match (s.fragTree c m x t f.fidx).bind fun tr => (s.ownNode c tr f).map fun r => (tr, r) with
        | some p => s.nodeInput c p.2 p.2 { f with srank := ((m.rankOf s.fab.devid).getD 0) } who
        | none =>
          let g := s.toWire c 0 x f
          (s.sendBytes (s.fragFrame c 2 owner (tenCgroup t) m g) (fragBytes g)).accepted c who
  | _, _ => s.contribute { ctx := c, frag := f, sender := who }

/-- The rank of this device that is the parent of a rank of the device `src`, and that rank. -/
def parentNode (tr : FragTree) (self src : Nat) : Option (Nat × Nat) :=
  (ranksIn self tr.members).findSome? fun r =>
    ((treeChildren tr.members.length tr.root tr.fan r).find? fun k => tr.members[k]? == some src).map fun k => (r, k)

/-- A whole fragment that arrived from another device (R281, R282): taken by the owner's unit, by the mirror
to which the owner forwards it (10 R313), by a replica, or by the node of this device. -/
def State.fragArrived (s : State) (c src vc : Nat) (f : Fragment) (port : Option (Nat × Nat × Nat)) :
    State :=
  let free (st : State) : State := match port with
    | some p => st.owe p.1 p.2.1 p.2.2
    | none => st
  match s.smap c, s.tensor c f.tid with
  | some m, some x =>
    match m.tensorEntry f.tid with
    | none => s.contribute { ctx := c, frag := f, port := port }
    | some t =>
      match (if s.ownerDev c t f.fidx = src ∧ !(x.replica || m.replica) then none else s.fragTree c m x t f.fidx) with
      | none => s.contribute { ctx := c, frag := f, port := port }
      | some tr =>
        if tr.replica && vc == 3 then
          s.replicaDown c ((ranksIn s.fab.devid tr.members).headD 0) m tr f port
        else if !tr.replica && s.ownerDev c t f.fidx == s.fab.devid then
          s.contribute { ctx := c, frag := f, port := port }
        else match parentNode tr s.fab.devid src with
          | some r => (free s).nodeInput c r.1 r.2 f none
          | none => s.contribute { ctx := c, frag := f, port := port }
  | _, _ => s.contribute { ctx := c, frag := f, port := port }

end Sys2Proof.Machine
end

