-- ==== Sys2Proof/Machine/Control.lean ====
section
/-! DEFINITION. The part's own reductions, exchanges and multicasts on the control flows: the sums of curvature, the norm
sums, the digests and the roots (09_causeway_collectives R278, R279, R292; 06_curvature_taps R174; 07_root_solver R210;
08_update_on_arrival R235, R246).
Assumption log: log 43 (DEDUCED), log 54 (DESIGN CHOICE), log 58 (DEDUCED), log 65 (DESIGN CHOICE). -/

namespace Sys2Proof.Machine

/-! ### What travels -/

/-- The sums of one sub-tile position of a factor block (06 R174). -/
structure GramPos where
  fid : Nat
  block : Nat
  row : Nat
  col : Nat
  count : Nat
  vals : List W32
deriving DecidableEq, Repr

/-- The same position. -/
def GramPos.at (x g : GramPos) : Bool := x.fid == g.fid && x.block == g.block && x.row == g.row && x.col == g.col

/-- Sums added to the sums of the same position, or put at the end. -/
def addGram (l : List GramPos) (g : GramPos) : List GramPos :=
  if l.any fun x => x.at g then
    l.map fun x => if x.at g then
      { x with count := x.count + g.count, vals := (x.vals.zip g.vals).map fun p => faddC p.1 p.2 } else x
  else l ++ [g]

/-- Sums as the bytes of a control transfer, and back. -/
def gramBytes (l : List GramPos) : Bytes :=
  l.flatMap fun g => leBytes 3 g.fid ++ leBytes 3 g.block ++ leBytes 2 g.row ++ leBytes 2 g.col ++ leBytes 8 g.count
    ++ g.vals.flatMap fun v => leBytes 4 v.toNat
def gramOf (b : Bytes) : List GramPos :=
  (chunks 4114 (b.length / 4114 + 1) b).map fun r =>
    ⟨recN r 0 3, recN r 3 3, recN r 6 2, recN r 8 2, recN r 10 8,
      (chunks 4 1024 (r.drop 18)).map fun v => BitVec.ofNat 32 (leNat v)⟩

/-- Kinds of the part's own transfers (R292): the sums of 06 R174 and the answer that they have been accepted, norm sums
going up and coming down (08 R235), digests (08 R246), roots, their withdrawals and the answers to both (07 R210), and
the sums of this device's engines before they leave it. -/
def ctlGram : Nat := 1
def ctlNorm : Nat := 2
def ctlDigest : Nat := 3
def ctlRoot : Nat := 4
def ctlRootReply : Nat := 5
def ctlRootDrop : Nat := 6
def ctlGramAck : Nat := 7
def ctlNormDown : Nat := 8
def ctlGramOwn : Nat := 9
def ctlDropReply : Nat := 10

/-- Two inputs of a reduction added (R279): sums of curvature position by position, norms in FP32. -/
def ctlAdd (kind : Nat) (a b : Bytes) : Bytes :=
  if kind = ctlGram then gramBytes ((gramOf b).foldl addGram (gramOf a))
  else leBytes 4 (faddC (BitVec.ofNat 32 (leNat a)) (BitVec.ofNat 32 (leNat b))).toNat

/-! ### Records -/

/-- The same reduction or exchange at the same rank. -/
def Control.same (x y : Control) : Bool := x.ctx == y.ctx && x.kind == y.kind && x.key == y.key && x.rank == y.rank
/-- The record of an exchange at a rank, as it is or new. -/
def State.control (s : State) (c kind : Nat) (key : List Nat) (rank : Nat) : Control :=
  let k : Control := { ctx := c, kind := kind, key := key, rank := rank }
  (s.fab.controls.find? k.same).getD k
/-- A record replaced, or put at the end. -/
def State.setControl (s : State) (k : Control) : State :=
  { s with fab := { s.fab with controls := s.fab.controls.filter (fun x => !x.same k) ++ [k] } }
/-- An input of an exchange noted: the rank from which it comes, its lowest rank and its data. -/
def State.noteControl (s : State) (c kind : Nat) (key : List Nat) (rank from_ low : Nat) (data : Bytes) : State :=
  let x := s.control c kind key rank
  s.setControl { x with inputs := x.inputs.filter (fun i => i.1 != from_) ++ [(from_, low, data)] }

/-- The group of a reduction or multicast, the device alone where its context has none. -/
def State.controlGroup (s : State) (c g : Nat) : Group := (s.group c g).getD ⟨[s.fab.devid], 2⟩

/-- The devices of a group by rank as its record lists them, whoever stands in for those that have failed. -/
def State.controlRecord (s : State) (c g : Nat) : List Nat := ((s.groupRec c g).map (·.members)).getD [s.fab.devid]

/-! ### Transfers -/

/-- A control transfer from a rank to a rank of a device, on one of the 64 control flows, which the group and the root
choose (R292; DESIGN CHOICE, log 65). -/
def State.sendControl (s : State) (c dev group from_ to_ vc kind : Nat) (key : List Nat) (low : Nat) (data : Bytes) :
    State :=
  s.sendFrame { ty := 3, vc := vc, dst := dev, group := group, last := true, flow := 4096 + (group + kind) % 64
                job := ((s.smap c).map (·.job)).getD 0
                epoch := ((s.ctx c).job.map (·.epoch)).getD 0
                rankFrom := some from_, rankTo := some to_
                msg := some (.control kind key low data) }

/-- A transfer sent from a rank to its children in a tree, away from the root (R278). -/
def State.controlDown (s : State) (c gid root rank kind : Nat) (key : List Nat) (low : Nat) (data : Bytes) : State :=
  let g := s.controlGroup c gid
  (treeChildren g.members.length root g.fan rank).foldl (fun st k =>
    st.sendControl c ((g.members[k]?).getD 0) gid rank k 3 kind key low data) s

/-- A multicast begun at this device's rank of a group: noted here, where the record lists this device, and sent down
the tree rooted at that rank (R278, R292). -/
def State.controlMulticast (s : State) (c gid kind : Nat) (key : List Nat) (data : Bytes) : State :=
  let r := (indexOf? s.fab.devid (s.controlRecord c gid)).getD 0
  (s.noteControl c kind key 0 r r data).controlDown c gid r r kind key r data

/-- An answer to a device: its low field names the device that answers. -/
def State.controlReply (s : State) (c dev kind : Nat) (key : List Nat) (data : Bytes) : State :=
  s.sendControl c dev 0 0 0 2 kind key s.fab.devid data

/-! ### Reductions -/

/-- The keys of a reduction: the step, what is reduced, the group, and the root's rank. -/
def ctlGroup (key : List Nat) : Nat := (key[2]?).getD 0
def ctlRootRank (key : List Nat) : Nat := (key[3]?).getD 0

/-- The inputs of a node in ascending lowest rank, combined in that order (R279): the lowest rank and the sum. -/
def Control.sum (k : Control) (own : Bytes) : Nat × Bytes :=
  let ins := sortBy (fun (a b : Nat × Bytes) => decide (a.1 ≤ b.1)) ((k.rank, own) :: k.inputs.map (·.2))
  match ins with
  | [] => (k.rank, own)
  | x :: xs => (x.1, xs.foldl (fun a y => ctlAdd k.kind a y.2) x.2)

/-- A node of a reduction whose own contribution and whose children's are in sends their sum to its parent; at the root
it is the result, which a norm sum sends down again (R279, R292). -/
def State.reduceControl (s : State) (k : Control) : State :=
  let gid := ctlGroup k.key
  let g := s.controlGroup k.ctx gid
  let n := g.members.length
  let root := ctlRootRank k.key
  let kids := treeChildren n root g.fan k.rank
  match k.own with
  | none => s
  | some own =>
    if k.sent || !kids.all fun r => k.inputs.any fun i => i.1 == r then s
    else
      let x := k.sum own
      match treeParent n root g.fan k.rank with
      | some p => (s.setControl { k with sent := true }).sendControl k.ctx ((g.members[p]?).getD 0) gid k.rank p 2 k.kind
          k.key x.1 x.2
      | none =>
        let s1 := s.setControl { k with sent := true, accepted := true, result := some x.2 }
        if k.kind = ctlNorm then s1.controlDown k.ctx gid root k.rank ctlNormDown k.key x.1 x.2 else s1

/-- This device's contribution to a reduction at a rank. -/
def State.contributeControl (s : State) (c kind : Nat) (key : List Nat) (rank : Nat) (own : Bytes) : State :=
  let k : Control := { s.control c kind key rank with own := some own }
  (s.setControl k).reduceControl k

/-- A control transfer that has come to a rank of this device, by kind. Sums are answered when they are taken in; what
travels away from a root is noted and sent on (R278, R292). -/
def State.takeControl (s : State) (c : Nat) (f : Frame) (kind : Nat) (key : List Nat) (low : Nat) (data : Bytes) :
    State :=
  let gid := f.group
  let g := s.controlGroup c gid
  let rank := f.rankTo.getD ((ranksIn s.fab.devid g.members).headD 0)
  let from_ := f.rankFrom.getD ((indexOf? f.src g.members).getD 0)
  if kind = ctlGram then
    let s1 := s.noteControl c kind key rank from_ low data
    (s1.reduceControl (s1.control c kind key rank)).sendControl c f.src gid rank from_ 2 ctlGramAck key 0 []
  else if kind = ctlNorm then
    let s1 := s.noteControl c kind key rank from_ low data
    s1.reduceControl (s1.control c kind key rank)
  else if kind = ctlGramAck then s.setControl { s.control c ctlGram key rank with accepted := true }
  else if kind = ctlNormDown then
    (s.setControl { s.control c ctlNorm key rank with result := some data, accepted := true }).controlDown c gid
      (ctlRootRank key) rank kind key low data
  else if kind = ctlDigest then
    (s.noteControl c kind (key.take 1) 0 low low data).controlDown c gid low rank kind key low data
  else if kind = ctlRoot ∨ kind = ctlRootDrop then
    let member := ((s.controlRecord c gid)[rank]?).getD s.fab.devid == s.fab.devid
    (if member then s.noteControl c kind key 0 low low data else s).controlDown c gid low rank kind key low data
  else s.noteControl c kind key 0 low low data

/-- The reductions of a kind that this device has joined for a step have all been accepted. -/
def State.controlsAccepted (s : State) (c kind step : Nat) : Bool :=
  s.fab.controls.all fun k => !(k.ctx == c && k.kind == kind && k.key.head? == some step && k.own.isSome) || k.accepted

end Sys2Proof.Machine
end

