-- ==== Sys2Proof/Machine/Counters.lean ====
section
/-! DEFINITION. Counters and trace: what a counter of a timed event has counted, snapshots, and the trace
control register (17_counters_trace R496 to R511).
Assumption log: log 119 (DEDUCED). -/

namespace Sys2Proof.Machine

/-- The condition events (R496), and STORE_CONFLICT: what they count depends on cycles, which the model does
not have (log 61). -/
def timedEvents : List Nat :=
  [0x000, 0x002, 0x003, 0x004, 0x005, 0x006, 0x00A, 0x010, 0x016, 0x01C, 0x01D, 0x04A, 0x065, 0x084, 0x086,
   0x089, 0x091]

/-- The units of an event's scope (Table 17.1). -/
def scopeUnits (e : Nat) : Nat := if e < 0x40 then 256 else if e < 0x60 then 16 else if e < 0x70 then 24 else 1

/-- A tile counter counts a timed event of scope tile (R498). -/
def tileTimed (c : Counter) : Bool :=
  let n := c.sel.toNat
  bit n 31 && timedEvents.contains (fld n 0 9) && isTileEvent (fld n 0 9)

/-- A chip counter counts a timed event: UNIT is in its scope where UMODE names one, and FAB_CREDIT_STALL and
FAB_RSTORE_WAIT, which belong to no context, pass no filter (R497, R499). -/
def chipTimed (c : Counter) : Bool :=
  let n := c.sel.toNat
  let e := fld n 0 9
  bit n 63 && timedEvents.contains e && !(bit n 61 && (e == 0x065 || e == 0x089))
    && (!bit n 53 || decide (fld n 45 8 < scopeUnits e))

/-- A counter with what its timed event has added since it was last read: free value number `n`. -/
def Counter.settled (c : Counter) (timed : Counter → Bool) (n : Nat) : Counter :=
  if timed c then c.add (Config.freeNat n) else c

/-- The counters of a table settled, the free values numbered from `n`. -/
def settleTbl (timed : Counter → Bool) : Nat → Tbl Counter → Tbl Counter
  | _, [] => []
  | n, e :: t => (e.1, e.2.settled timed n) :: settleTbl timed (n + 1) t

/-- The counters of a tile settled. -/
def State.settleTile (s : State) (t : Nat) : State :=
  let x := s.tile t
  let s1 : State := { s with free := s.free + x.counters.length }
  s1.setTile t { x with counters := settleTbl tileTimed s.free x.counters }

/-- The chip counters settled. -/
def State.settleChip (s : State) : State :=
  { s with free := s.free + s.cnt.chip.length
           cnt := { s.cnt with chip := settleTbl chipTimed s.free s.cnt.chip } }

/-- COUNT and OVF copied into the snapshot registers (R502). -/
def Counter.copied (c : Counter) : Counter := { c with snap := c.count, snapOvf := c.ovf }

/-- A chip counter has a COUNTER record of context `c` (R504). -/
def Counter.recorded (x : Counter) (c : Nat) : Bool :=
  let n := x.sel.toNat
  bit n 63 && bit n 61 && fld n 54 6 == c

/-- Every counter copied, with the COUNTER records of the chip counters while TCTX is admitted (R502, R504, Table 17.9). -/
def State.snapshot (s : State) : State :=
  let s1 := (s.tiles.keys.foldl State.settleTile s).settleChip
  let tiles := s1.tiles.mapv fun _ x => { x with counters := x.counters.mapv fun _ k => k.copied }
  let s2 : State := { s1 with tiles := tiles, cnt := { s1.cnt with chip := s1.cnt.chip.mapv fun _ k => k.copied } }
  let c := fld s.cnt.trcCtl.toNat 55 6
  let on := (s.ctx c).en.st != .off
  (s2.cnt.chip.select fun _ k => on && k.recorded c).foldl (fun st e =>
    st.traceUnit 8 [c] 0x500 (st.ctx c).mstone
      (leBytes 6 e.2.snap ++ leBytes 1 e.1 ++ leBytes 1 (b2n e.2.snapOvf))) s2

/-- SNAP_NOW: a snapshot at once, which sets MANUAL (R502). -/
def execSnapNow (s : State) : Res :=
  let s1 := s.snapshot
  .next { s1 with cnt := { s1.cnt with ctl := BitVec.ofNat 32 (setFld s1.cnt.ctl.toNat 23 1 1) } }

/-- The snapshot of a Milestone of context `c`'s job, when SNAP_CTX names it (R502). -/
def State.mstoneSnapshot (s : State) (c m : Nat) : State :=
  let k := s.cnt.ctl.toNat
  if bit k 31 && fld k 24 6 == c then
    let s1 := s.snapshot
    { s1 with cnt := { s1.cnt with ctl := BitVec.ofNat 32 (setFld s1.cnt.ctl.toNat 23 1 0), snapM := m } }
  else s

/-- CNT_TRC_CTL written: setting EN empties the ring and clears ERR (R504, R511). -/
def State.writeTrcCtl (s : State) (v : W64) : State :=
  let n := v.toNat
  let was := bit s.cnt.trcCtl.toNat 63
  let start := bit n 63 && !was
  let err := if bit n 63 then 0 else fld s.cnt.trcCtl.toNat 61 1
  let keep := setFld (setFld (setFld (setFld n 61 1 err) 48 7 0) 9 31 0) 0 1 0
  { s with cnt := { s.cnt with
    trcCtl := BitVec.ofNat 64 keep
    head := if start then 0 else s.cnt.head
    tail := if start then 0 else s.cnt.tail } }

/-- TRACE_ENABLE: CNT_TRC_CTL written with EN set (R504). -/
def execTraceEnable (v : W64) (s : State) : Res := .next (s.writeTrcCtl (v ||| BitVec.ofNat 64 (2 ^ 63)))

end Sys2Proof.Machine
end

