-- ==== Sys2Proof/Machine/Operands.lean ====
section
/-! DEFINITION. The operand forms of the instruction set: the header of an instruction word, operand,
precondition and transfer descriptors, and the checks of their reserved bits (05_instruction_set
R130, R131, R141, R142, R148). -/

namespace Sys2Proof.Machine

/-! ### Instruction words (Table 5.2) -/

/-- Assigned classes and opcodes (Tables 5.3, 5.6, 5.8, 5.10, R145, R148). -/
def opAssigned (cls op : Nat) : Bool :=
  match cls with
  | 0 => op ≤ 1
  | 1 => op ≤ 1
  | 2 => op ≤ 0x0A || (0x10 ≤ op && op ≤ 0x14) || op == 0x18 || (0x20 ≤ op && op ≤ 0x23)
      || op == 0x28 || op == 0x29
  | 3 => op ≤ 1
  | 4 => op == 0
  | 5 => op == 0
  | 6 => op ≤ 5
  | 7 => op ≤ 9
  | _ => false

/-- CLASS. -/
def wCls (w : Nat) : Nat := fld w 124 4
/-- OP. -/
def wOp (w : Nat) : Nat := fld w 118 6
/-- W_EN. -/
def wWaits (w : Nat) : Bool := bit w 117
/-- W_SIG. -/
def wWSig (w : Nat) : Nat := fld w 112 5
/-- W_COUNT, where 0 means 256. -/
def wWCount (w : Nat) : Nat := if fld w 104 8 = 0 then 256 else fld w 104 8
/-- S_EN. -/
def wSigs (w : Nat) : Bool := bit w 103
/-- S_SIG. -/
def wSSig (w : Nat) : Nat := fld w 98 5
/-- S_TILE. -/
def wSTile (w : Nat) : Nat := fld w 90 8
/-- The reserved bits of the header are zero (R131). -/
def wHdrOk (w : Nat) : Bool := fld w 88 2 == 0

/-! ### Operand descriptors (Table 5.4) -/

/-- An operand descriptor, with the value of its index register. -/
structure Opd where
  d : Nat
  idx : Nat
deriving DecidableEq, Repr

/-- KIND. -/
def Opd.kind (o : Opd) : Nat := fld o.d 124 4
/-- FMT. -/
def Opd.fmt (o : Opd) : Nat := fld o.d 120 4
/-- BLK. -/
def Opd.blk (o : Opd) : Nat := fld o.d 118 2
/-- The block size, 0 when not block-scaled. -/
def Opd.bsize (o : Opd) : Nat := match o.blk with | 1 => 16 | 2 => 32 | _ => 0
/-- RULE: FIT. -/
def Opd.fit (o : Opd) : Bool := bit o.d 117
/-- TSCALE. -/
def Opd.tscale (o : Opd) : Bool := bit o.d 116
/-- VT. -/
def Opd.vt (o : Opd) : Nat := fld o.d 108 8
/-- ADDR. -/
def Opd.addr (o : Opd) : Nat := fld o.d 86 22
/-- SADDR. -/
def Opd.saddr (o : Opd) : Nat := fld o.d 64 22
/-- PITCH in bytes. -/
def Opd.pitch (o : Opd) : Nat := 16 * fld o.d 48 16
/-- FLOW (KIND 0x1). -/
def Opd.flow (o : Opd) : Nat := fld o.d 52 12
/-- The effective address (R141). -/
def Opd.ea (o : Opd) : Nat := o.addr + o.idx * fld o.d 28 16 * 64
/-- TID (KIND 0x2). -/
def Opd.tid (o : Opd) : Nat := fld o.d 92 24
/-- The first fragment index, modulo 2^32 (R225). -/
def Opd.fbase (o : Opd) : Nat := (fld o.d 72 20 + o.idx) % 2 ^ 32
/-- The index register a descriptor names: IDX, or FIDX for KIND 0x2. -/
def opdIdxReg (d : Nat) : Nat := if fld d 124 4 = 2 then fld d 68 4 else fld d 44 4

/-- The reserved values and bits of an operand descriptor (R141). -/
def opdOk (d : Nat) : Bool :=
  let k := fld d 124 4
  decide (k ≤ 2) && fld d 120 4 != 0xF && fld d 118 2 != 3 && fld d 0 28 == 0
    && (k != 1 || (fld d 108 8 == 0 && fld d 48 4 == 0))
    && (k != 2 || fld d 28 40 == 0)

/-- An operand descriptor of a queue's table, with its index register captured (R141). -/
def opdOf (tc : TileCtx) (q : Queue) (n : Nat) : Opd :=
  let d := (Tbl.get 0 tc.opTab n).toNat
  ⟨d, (q.ireg (opdIdxReg d)).toNat⟩

/-! ### Precondition descriptors (Table 5.5) -/

/-- One side of a precondition descriptor: root enable, group size, base and stride, ring and root
line addresses, block size and root format. -/
structure Pre where
  en : Bool
  gsz : Nat
  gbase : Nat
  gstr : Nat
  ring : Nat
  root : Nat
  b : Nat
  fmt : Nat
deriving DecidableEq, Repr

/-- The A side. -/
def preA (d : Nat) : Pre :=
  ⟨bit d 127, fld d 118 4 + 1, fld d 110 8, fld d 102 8, 64 * fld d 66 16, 64 * fld d 34 16,
    64 * (fld d 12 6 + 1), if bit d 5 then 1 else 3⟩
/-- The B side. -/
def preB (d : Nat) : Pre :=
  ⟨bit d 126, fld d 98 4 + 1, fld d 90 8, fld d 82 8, 64 * fld d 50 16, 64 * fld d 18 16,
    64 * (fld d 6 6 + 1), if bit d 4 then 1 else 3⟩
/-- The segment length G. -/
def preSeg (d : Nat) : Nat := 64 * (fld d 122 4 + 1)
/-- DY: operand B is dY. -/
def preDyB (d : Nat) : Bool := bit d 3
/-- Reserved bits (R141). -/
def preOk (d : Nat) : Bool := fld d 0 3 == 0
/-- The members of a share group in group order (R142). -/
def Pre.members (p : Pre) : List Nat := (List.range p.gsz).map fun i => p.gbase + i * p.gstr

/-! ### Transfer descriptors (R148, Table 5.9) -/

/-- DADDR of a post, with its index step. -/
def postAddr (payload : Nat) (q : Queue) : Nat :=
  fld payload 66 22 + (q.ireg (fld payload 62 4)).toNat * fld payload 46 16 * 64
/-- The reserved payload bits of a post. -/
def postOk (payload : Nat) : Bool := fld payload 0 46 == 0

/-- The fields of a move descriptor. -/
structure Move where
  src : Nat
  dst : Nat
  rows : Nat
  rowbytes : Nat
  spitch : Nat
  dpitch : Nat
  srcSpace : Nat
  dstSpace : Nat
  srcVt : Nat
  dstVt : Nat
  flags : Nat
  mcount : Nat
  mstride : Nat
  tid : Nat
  mstone : Nat
  status : Nat
deriving DecidableEq, Repr

/-- A move descriptor read from its 64 bytes (Table 5.9). -/
def moveOf (d : Bytes) : Move :=
  ⟨recN d 0 8, recN d 8 8, recN d 16 4, recN d 20 4, recN d 24 4, recN d 28 4, recN d 32 1,
    recN d 33 1, recN d 34 1, recN d 35 1, recN d 36 1, recN d 37 1, recN d 38 1, recN d 40 4,
    recN d 48 8, recN d 56 4⟩

/-- The reserved values of a move descriptor (Table 5.9, Table 5.11 DESCRIPTOR). -/
def moveOk (d : Bytes) : Bool :=
  let m := moveOf d
  m.rows != 0 && decide (m.srcSpace ≤ 4) && decide (m.dstSpace ≤ 4) && fld m.flags 2 6 == 0
    && fld m.tid 24 8 == 0 && zeroAt d [(39, 1), (44, 4), (60, 4)]

end Sys2Proof.Machine
end

