-- ==== Sys2Proof/Machine/Ncp.lean ====
section
/-! DEFINITION. The Ngutas Command Protocol: how a request is authenticated, ordered, checked and answered, and
how an agent slot is freed (14_host_port R433 to R440; 16_power_clocks R475). -/

namespace Sys2Proof.Machine

/-! ### Deep sleep (16 R475, R489) -/

/-- An event that ends deep sleep: DEEP is cleared; in deep sleep the exit begins. -/
def State.wakeDeep (s : State) : State :=
  { s with pmc := { s.pmc with
    deep := false
    deepState := if s.pmc.deepState = 2 then 3 else if s.pmc.deepState = 1 then 0 else s.pmc.deepState } }

/-! ### Messages (R433, R434) -/

/-- The header of a message (Table 14.3). -/
def ncpHeader (ver ty flags slot session tag len status ctx : Nat) : Bytes :=
  leBytes 1 ver ++ leBytes 1 ty ++ leBytes 1 flags ++ leBytes 1 slot ++ leBytes 4 session ++ leBytes 4 tag
    ++ leBytes 2 len ++ leBytes 1 status ++ leBytes 1 ctx ++ List.replicate 16 0

/-- The authentication tag of a message under a session key (R434). -/
def ncpMac (key hdr payload : Bytes) : Bytes := kmac256 key (hdr ++ payload) (ascii "NCP")

/-- The header of a request of type `ty`. -/
def ncpReqHeader (ty : Nat) (m : Ncp) : Bytes :=
  ncpHeader m.ver ty m.flags m.slot m.session m.tag m.payload.length m.status m.ctx

/-- The request's slot is attached or pending, its session is the slot's, and its tag verifies (R434). -/
def State.authentic (s : State) (ty : Nat) (m : Ncp) : Bool :=
  let x := s.slot m.slot
  decide (m.slot < 8) && x.st != 0 && m.session == x.session
    && m.mac == ncpMac x.key (ncpReqHeader ty m) m.payload

/-- A message silently discarded (R434). -/
def State.authDiscard (s : State) : State :=
  ({ s with host := { s.host with authFail := satInc 16 s.host.authFail } }).ev 0x0AD 0 []

/-- The boot ROM serves the port (15 Table 15.1). -/
def State.romServes (s : State) : Bool := s.sec.stage == 4 || s.sec.stage == 5 || s.sec.stage == 6

/-- NCP requests are answered: the link is up, under the ROM or at READY (15 R452). -/
def State.ncpServed (s : State) : Bool := s.host.link && (s.romServes || s.sec.stage == 9)

/-- A response sent to a slot's agent. -/
def State.sendReply (s : State) (a : Nat) (r : Reply) : State :=
  let x := s.slot a
  let h := ncpHeader 1 r.ty 1 a x.session r.tag r.payload.length r.status r.ctx
  s.emit (.reply x.src a x.session r (ncpMac x.key h r.payload))

/-- A response cached for its tag and sent; tag 0 lies outside the window (R435). -/
def State.answer (s : State) (a : Nat) (r : Reply) : State :=
  let x := s.slot a
  let cache := if r.tag = 0 then x.cache
    else x.cache.map fun e => if e.1 = r.tag then (r.tag, some r) else e
  (s.setSlot a { x with cache := cache }).sendReply a r

/-! ### Requests (R435, R436) -/

/-- What a request comes to: an answer now, or one that waits (R440). -/
inductive NcpAct where
  | done (s : State) (status : Nat) (payload : Bytes)
  | later (s : State)
deriving DecidableEq, Repr

/-- What a type needs: a session of an attached agent, ADMIN, an admitted context, or ownership of one
(Table 14.4). -/
inductive Perm where
  | session | attached | admin | inContext | owner | adminCtx
deriving DecidableEq, Repr

/-- The context is admitted (12 R370). -/
def State.isAdmitted (s : State) (c : Nat) : Bool := (s.ctx c).en.st != .off

/-- The status of a request that lacks its context or its permission, 0 when it lacks neither. -/
def State.permStatus (s : State) (p : Perm) (m : Ncp) : Nat :=
  let x := s.slot m.slot
  let own := (s.ctx m.ctx).owner == some m.slot
  match p with
  | .session => 0
  | .attached => if x.st = 2 then 0 else 3
  | .admin => if x.st = 2 ∧ x.admin then 0 else 3
  | .inContext => if x.st ≠ 2 then 3 else if s.isAdmitted m.ctx then 0 else 9
  | .owner => if x.st ≠ 2 then 3 else if !s.isAdmitted m.ctx then 9 else if own || x.admin then 0 else 3
  | .adminCtx => if x.st ≠ 2 ∨ !x.admin then 3 else if s.isAdmitted m.ctx then 0 else 9

/-- The firmware-fetch types (15 R454). -/
def fwType (ty : Nat) : Bool := decide (0x50 ≤ ty) && decide (ty ≤ 0x5F)

/-- A request acts: its form, what the ROM serves, its permission, then its own effect (R436, Table 14.5). -/
def State.ncpAct (s : State) (ty : Nat) (m : Ncp) (p : Perm) (lenOk : Bool) (body : State → NcpAct) : NcpAct :=
  if s.romServes && !fwType ty then .done s 0x0A []
  else if m.ver ≠ 1 ∨ m.flags ≠ 0 ∨ m.status ≠ 0 ∨ 64 ≤ m.ctx ∨ !lenOk ∨ (fwType ty && !s.romServes) then
    .done s 4 []
  else
    let st := s.permStatus p m
    if st ≠ 0 then .done s st [] else body s

/-- The outcome of a request answered or left for later. -/
def State.ncpFinish (ty : Nat) (m : Ncp) (r : NcpAct) : State :=
  match r with
  | .done s st pl => s.answer m.slot { ty := ty, tag := m.tag, status := st, ctx := m.ctx, payload := pl }
  | .later s => s

/-- The events that end deep sleep: every request but KEEPALIVE, EVENT_ACK and CFG_READ (16 R475). -/
def wakesDeep (ty : Nat) : Bool := ty != 0x04 && ty != 0x41 && ty != 0x10

/-- A request of type `ty`: discarded, answered from the cache, refused for its tag, or executed (R434 to
R436). -/
def State.ncp (s : State) (ty : Nat) (m : Ncp) (p : Perm) (lenOk : Bool) (body : State → NcpAct) : State :=
  if !s.ncpServed then s
  else if !s.authentic ty m then s.authDiscard
  else
    let s0 := if wakesDeep ty then s.wakeDeep else s
    let x := s0.slot m.slot
    match x.cache.find? fun e => e.1 == m.tag with
    | some e => (match e.2 with
      | none => s0
      | some r => (({ s0 with host := { s0.host with dup := satInc 16 s0.host.dup } }).ev 0x0AE 0 []).sendReply
          m.slot r)
    | none =>
      if x.high < m.tag ∧ m.tag ≤ x.high + 64 then
        let s1 := s0.setSlot m.slot { x with high := m.tag, cache := ((m.tag, none) :: x.cache).take 256 }
        State.ncpFinish ty m (s1.ncpAct ty m p lenOk body)
      else s0.sendReply m.slot { ty := ty, tag := m.tag, status := 8, ctx := m.ctx, payload := [] }

/-- The types of requests (Table 14.4, 15 Table 15.3). -/
def ncpTypes : List Nat :=
  [0x01, 0x02, 0x03, 0x04, 0x05, 0x10, 0x11, 0x20, 0x21, 0x22, 0x23, 0x24, 0x25, 0x26, 0x30, 0x31, 0x32, 0x33, 0x34, 0x41,
   0x50, 0x51, 0x52, 0x53]

/-- NCP_AUTH_DISCARD: a message whose tag, slot or session does not verify is discarded (R434). One of a reserved type
that verifies, for which the table has no row, is answered with BAD_MSG, under the ROM with ROM (R436). -/
def execNcpAuthDiscard (ty : Nat) (m : Ncp) (s : State) : Res :=
  if !s.ncpServed || ty == 1 then .next s
  else if !s.authentic ty m then .next s.authDiscard
  else if ncpTypes.contains ty then .next s
  else .next (s.ncp ty m .session false fun st => .done st 4 [])

/-! ### Answers that come later (R440) -/

/-- A request kept for a later answer. -/
def State.deferReq (s : State) (ty : Nat) (m : Ncp) : State :=
  { s with host := { s.host with
    deferred := s.host.deferred ++ [⟨m.slot, m.session, m.tag, ty, m.ctx⟩] } }

/-- The requests of a type that name a context are answered with a status (R440). -/
def State.answerLater (s : State) (ty c status : Nat) : State :=
  let mine := s.host.deferred.filter fun d => d.ty == ty && d.ctx == c
  let s1 : State := { s with host := { s.host with
    deferred := s.host.deferred.filter fun d => !(d.ty == ty && d.ctx == c) } }
  mine.foldl (fun st d =>
    if (st.slot d.slot).st == 0 || (st.slot d.slot).session != d.session then st
    else st.answer d.slot { ty := ty, tag := d.tag, status := status, ctx := c, payload := [] }) s1

/-! ### Freeing a slot (R438, 15 R456) -/

/-- A descriptor in flight names a host region (R444): the handle is in the address of a space-3 end. -/
def State.regionUsed (s : State) (h : Nat) : Bool :=
  s.flight.any (fun f =>
    let names (d : Bytes) : Bool :=
      let m := moveOf d
      f.cls == 3 && ((m.srcSpace == 3 && m.src / 2 ^ 48 == h) || (m.dstSpace == 3 && m.dst / 2 ^ 48 == h))
    match f.work with
    | .post d => names d
    | .moving d _ => names d
    | _ => false)

/-- Regions whose removal waited are gone once no descriptor in flight names them (R444). -/
def State.settleRegions (s : State) : State :=
  { s with host := { s.host with
    regions := s.host.regions.filter fun e => !(e.2.removing && !s.regionUsed e.1) } }

/-- A queue pair closed: what was under way on it ends in a transport error (R444). -/
def State.closeQp (s : State) (n : Nat) : State :=
  match Tbl.find s.host.qps n with
  | none => s
  | some q =>
    let tags := q.sent.map (·.tag)
    { s with
      host := { s.host with qps := Tbl.erase s.host.qps n }
      remotes := s.remotes.map fun r =>
        if r.host && tags.contains r.tag && !r.answered then { r with answered := true, failed := true } else r }

/-- A slot freed: its events, responses, watches, QPs and rkeys are gone, its regions go once unused, its contexts
are unowned, and a firmware fetch it held is released (R438, 15 R456). -/
def State.freeSlot (s : State) (a : Nat) : State :=
  let fetch := match s.sec.fetch with
    | some f => f.slot == a
    | none => false
  let s1 := ((s.host.qps.filter fun q => q.2.slot == a).map (·.1)).foldl State.closeQp (s.setSlot a {})
  let drop (_ : Nat) (w : Watch) : Watch := if w.slot = a then { w with armed := false } else w
  let ctxs := s1.ctxs.mapv fun _ x =>
    { x with owner := if x.owner = some a then none else x.owner, watches := x.watches.mapv drop }
  let gone (_ : Nat) (r : Region) : Region := if r.slot = a then { r with removing := true } else r
  let s2 : State := { s1 with
    ctxs := ctxs
    host := { s1.host with
      regions := s1.host.regions.mapv gone
      maps := s1.host.maps.filter fun e => e.2.slot != a
      deferred := s1.host.deferred.filter fun d => d.slot != a }
    sec := if fetch then { s1.sec with fetch := none, imem := [], stage := if s1.sec.stage = 5 then 4 else s1.sec.stage }
           else s1.sec }
  s2.settleRegions

end Sys2Proof.Machine
end

