-- ==== Sys2Proof/Machine/TapSlots.lean ====
section
/-! DEFINITION. Tap slots: the binding a TCFG carries, the pages of a panel, samples and the latch, and how a slot takes
a binding (05_instruction_set R145; 06_curvature_taps R162, R166, R167, R169). -/

namespace Sys2Proof.Machine

/-- The fields of a TCFG (R145, Table 6.2). -/
def tcfgSlot (p : Nat) : TapSlot :=
  { bound := fld p 60 24 != 0, fid := fld p 60 24, side := fld p 59 1, boff := fld p 41 18, log2s := fld p 38 3,
    pr0 := fld p 31 7, pnr := fld p 25 6, pc0 := fld p 18 7, pnc := fld p 12 6, tpage := fld p 6 6,
    foff := fld p 0 6 }

/-- Sub-tiles of a panel. -/
def TapSlot.tiles (x : TapSlot) : Nat := (x.pnr + 1) * (x.pnc + 1)
/-- The tap pages of a panel. -/
def TapSlot.pages (x : TapSlot) : List Nat := upTo x.tpage x.tiles
/-- Two slots have the same binding. -/
def TapSlot.sameBinding (x y : TapSlot) : Bool :=
  { x with suspect := false, samples := 0, step := none } ==
    { y with suspect := false, samples := 0, step := none }

/-- A page zeroed. -/
def zeroPage : List W32 := List.replicate 1024 0
/-- The page of a tap store. -/
def TileCtx.page (tc : TileCtx) (p : Nat) : List W32 := Tbl.get zeroPage tc.pages p

/-- The panel and the counts of a slot zeroed; samples still in the latch stay (R145, R169). -/
def TileCtx.clearPanel (tc : TileCtx) (k : Nat) : TileCtx :=
  let ps := (tc.slot k).pages
  { tc with pages := tc.pages.filter fun e => !ps.contains e.1
            counts := tc.counts.filter fun e => !ps.contains e.1 }

/-- A slot takes a binding: the panel and the samples of the old one are discarded, unless the binding is
the same (R169). The answer says whether a bound slot was discarded. -/
def TileCtx.bind (tc : TileCtx) (k : Nat) (x : TapSlot) : TileCtx × Bool :=
  let y := tc.slot k
  if y.sameBinding x then (tc, false)
  else
    let tc1 := if y.bound then
        { tc.clearPanel k with latch := tc.latch.filter fun z => z.slot != k } else tc
    (tc1.setSlot k (if x.bound then x else {}), y.bound)

/-! ### Samples (R166) -/

/-- The exact product of two BF16 features added into a panel element with one rounding. -/
def gramAdd (acc a b : W32) : W32 := ffmaC a b acc

/-- One sub-tile of a panel updated by a sample; features outside the sample are absent, and the whole
sub-tile is present or none of it. -/
def tapSubtile (pg : List W32) (x : TapSample) (r0 c0 : Nat) : Option (List W32) :=
  let at_ (i : Nat) : Option W32 := if i < x.first then none else x.vals[i - x.first]?
  match at_ r0, at_ c0 with
  | some _, some _ => some <| (pg.zip (List.range 1024)).map fun p =>
      gramAdd p.1 ((at_ (r0 + p.2 / 32)).getD 0) ((at_ (c0 + p.2 % 32)).getD 0)
  | _, _ => none

/-- A taken sample added into its slot's panel, and counted for each sub-tile that it reaches (R166). -/
def TileCtx.addSample (tc : TileCtx) (x : TapSample) : TileCtx :=
  let sl := tc.slot x.slot
  (List.range sl.tiles).foldl (fun t k =>
    let u := k / (sl.pnc + 1)
    let v := k % (sl.pnc + 1)
    match tapSubtile (t.page (sl.tpage + k)) x (32 * (sl.pr0 + u)) (32 * (sl.pc0 + v)) with
    | none => t
    | some pg => { t with pages := Tbl.set t.pages (sl.tpage + k) pg
                          counts := Tbl.set t.counts (sl.tpage + k)
                            (Tbl.get 0 t.counts (sl.tpage + k) + 1) }) tc

/-- The oldest sample of the latch added. -/
def TileCtx.tapOne (tc : TileCtx) : TileCtx :=
  match tc.latch with
  | [] => tc
  | x :: xs => { tc with latch := xs }.addSample x

/-- Every sample of the latch added, in order. -/
def TileCtx.tapAll (tc : TileCtx) : TileCtx :=
  tc.latch.foldl (fun t x => t.addSample x) { tc with latch := [] }

/-- The elements that the latch holds (R162, R181). -/
def TileCtx.latchUse (tc : TileCtx) : Nat := (tc.latch.map fun x => x.vals.length).foldl (· + ·) 0

/-- Oldest samples added until the latch holds at most `lim` elements. -/
def TileCtx.tapUntil (lim : Nat) : Nat → TileCtx → TileCtx
  | 0, tc => tc
  | n + 1, tc => if tc.latchUse ≤ lim then tc else TileCtx.tapUntil lim n tc.tapOne

/-- The binding of a TCFG in place, once the matrix instructions that name its slot and were in flight when it issued
have completed (R145). A matrix instruction that issues behind a TCFG that still waits takes its samples under the old
binding until then: the spec does not say which (DESIGN CHOICE, log 45). -/
def State.settleTcfg (s : State) : State :=
  s.flight.foldl (fun st f => match f.work with
    | .tcfg k x =>
      if (st.flight.takeWhile fun g => g != f).any fun g => g.ctx == f.ctx && g.vt == f.vt && g.slots.contains k then st
      else
        let r := (st.tc f.ctx f.vt).bind k x
        let s1 := st.setTc f.ctx f.vt r.1
        let s2 := if r.2 then s1.evTile 0x011 (s1.physD f.ctx f.vt) else s1
        { s2 with flight := s2.flight.map fun g => if g == f then { g with work := .done } else g }
    | _ => st) s

end Sys2Proof.Machine
end

