-- ==== Sys2Proof/Machine/Issue.lean ====
section
/-! DEFINITION. The sequencer: when an instruction issues, what an exception at issue does, how the
program counter moves, and how an instruction completes (05_instruction_set R128 to R140, R148,
R150 to R152). -/

namespace Sys2Proof.Machine

/-- The place of an instruction at issue: physical tile, queue, context, virtual tile, the queue as
it stands, and the instruction word. -/
structure Env where
  t : Nat
  q : Nat
  c : Nat
  v : Nat
  qu : Queue
  w : Nat
deriving DecidableEq, Repr

/-- The payload, bits 87:0. -/
def Env.pl (e : Env) : Nat := fld e.w 0 88
/-- The class. -/
def Env.cls (e : Env) : Nat := wCls e.w
/-- The opcode. -/
def Env.op (e : Env) : Nat := wOp e.w

/-- What an instruction does when it comes to issue. -/
inductive Act where
  /-- It raises an exception and does not execute. -/
  | exc (code : Nat)
  /-- It cannot issue yet. -/
  | wait (for_ : WaitFor)
  /-- It executes: the state with its writes, its in-flight record and the queue after it. -/
  | go (s : State) (f : Flight → Flight) (k : Queue → Queue)

/-- Exception codes of Table 5.11. -/
def xInvalid : Nat := 1
def xAccess : Nat := 2
def xVersion : Nat := 3
def xDescriptor : Nat := 4
def xSignalOvf : Nat := 5
def xFetch : Nat := 6
def xPoison : Nat := 7

/-- A guard: raises the exception when the condition holds. -/
def Act.when (c : Bool) (code : Nat) (k : Act) : Act := if c then .exc code else k

/-- A wait of a queue is satisfiable now (R135, R140, 12 R381). -/
def State.satisfiable (s : State) (c v q : Nat) (w : WaitFor) : Bool :=
  match w with
  | .signal n k => decide (k ≤ (s.tc c v).sig n)
  | .mstone m => (s.ctx c).reached m
  | .fence => s.flight.all fun f => !(f.ctx == c && f.vt == v && f.queue == q)
  | .send k =>
    let x : Endpoint := Tbl.get {} s.fab.endpoints k
    decide (x.sends - x.credits < x.depth)
  | .receive k =>
    let x : Endpoint := Tbl.get {} s.fab.endpoints k
    decide (x.credits + (s.flight.filter fun f => f.endpoint == some k).length < x.sends)
  | .version _ => false
  | .descriptors => decide ((s.flight.filter fun f => f.ctx == c && f.vt == v && f.posted).length < 64)
  | .unit => false

/-! ### Switches (12 R375, R376) -/

/-- The primaries on the tiles of a context's map: resident there or lending the tile. -/
def State.outsOf (s : State) (c : Nat) : List Nat :=
  ((s.ctx c).map.filterMap fun t =>
    let x := s.tile t
    match x.lentFrom with
    | some p => some p
    | none => x.resident.map s.weightsOf).eraseDups.filter (· != c)

/-- Every tile that a gang switch to a context involves. -/
def State.switchTiles (s : State) (c : Nat) : List Nat :=
  ((s.ctx c).map ++ (s.outsOf c).flatMap fun p => (s.ctx p).map).eraseDups

/-- An evaluation of the context is queued against its last Milestone (R383). -/
def State.evalDue (s : State) (c : Nat) : Bool :=
  s.ctxs.any fun e => e.2.kind == 2 && e.2.parent == c && e.2.evalAt == (s.ctx c).mstone
    && (e.2.en.st == .starting || e.2.en.st == .on)

/-- An evaluation of the context is on one of its tiles. -/
def State.evalIn (s : State) (c : Nat) : Bool :=
  (s.ctx c).map.any fun t => match (s.tile t).resident with
    | some e => (s.ctx e).kind == 2 && (s.ctx e).parent == c
    | none => false

/-- The step of a context's job waits for an evaluation to be switched in (R383). -/
def State.evalPending (s : State) (c : Nat) : Bool :=
  match (s.ctx c).job with
  | none => false
  | some j => !j.begun && !j.resync && s.evalDue c && !s.evalIn c

/-- A gang switch that involves the tile is pending. -/
def State.gangPending (s : State) (t : Nat) : Bool :=
  (s.ctxBlk.switches.any fun c => (s.switchTiles c).contains t)
    || s.ctxs.any fun e => e.2.map.contains t && s.evalPending e.1

/-- A switch that involves the context is pending (R389). -/
def State.switchPending (s : State) (c : Nat) : Bool :=
  (s.ctxBlk.switches.any fun i => i == c || (s.outsOf i).contains c) || s.evalPending c

/-- A wait at issue that R375 lists. -/
def WaitFor.atPoint : WaitFor → Bool
  | .version _ => false
  | .unit => false
  | _ => true

/-- A queue is idle, halted, or waits at issue on what R375 lists, or has issued YIELD. -/
def Queue.atPoint (q : Queue) : Bool :=
  match q.st with
  | .idle => true
  | .halted => true
  | .waiting => q.waits.atPoint || q.yielded
  | .running => q.yielded

/-- The work left of a descriptor in flight of virtual tile `own` reads or writes the store of virtual tile `v`. -/
def Flight.touches (f : Flight) (v : Nat) : Bool :=
  let ends (d : Bytes) : Bool :=
    if f.cls = 3 then
      let m := moveOf d
      let at_ (space vt : Nat) : Bool := (space == 0 && f.vt == v) || (space == 1 && vt == v)
      let many := bit m.flags 0 && m.dstSpace == 1
        && (List.range (m.mcount + 1)).any fun i => m.dstVt + i * m.mstride == v
      at_ m.srcSpace m.srcVt || at_ m.dstSpace m.dstVt || many
    else f.vt == v && !(bit (recN d 3 1) 0 && bit (recN d 3 1) 1)
  match f.work with
  | .post d => ends d
  | .moving d _ => ends d
  | _ => false

/-- A tile is at a preemption point for a context (R375). -/
def State.atPoint (s : State) (c t : Nat) : Bool :=
  match (s.ctx c).vid t with
  | none => true
  | some v => ((List.range 4).all fun q => (s.queue c v q).atPoint)
      && s.flight.all fun f => f.ctx != c || (!(f.vt == v && decide (f.cls ≤ 2)) && !f.touches v)

/-- The tile holds: a gang switch that involves it is pending and it is at a preemption point (R376). -/
def State.holds (s : State) (c t : Nat) : Bool :=
  (s.ctx c).kind == 0 && s.gangPending t && s.atPoint c t

/-- A condition that reclaims a lent tile holds: a wait of the primary on it is satisfiable, or a
descriptor of the primary on it has finished its work; a gang switch or a destroy of the primary reclaims it
too (12 R381). -/
def State.reclaimable (s : State) (t : Nat) : Bool :=
  match (s.tile t).lentFrom with
  | none => false
  | some c =>
    match (s.ctx c).vid t with
    | none => true
    | some v =>
      s.switchPending c || (s.ctx c).ending || s.gangPending t
        || ((s.tile t).resident.any fun l => (s.ctx l).ending) || ((List.range 4).any fun q =>
        let qu := s.queue c v q
        qu.st == .waiting && s.satisfiable c v q qu.waits)
      || s.flight.any fun f => f.ctx == c && f.vt == v && f.posted && f.work == .done

/-- What the waiting queues below `q` leave of a counter: waits on one counter are tested in queue order, each against
the value that the earlier ones left (R135). -/
def TileCtx.leftBelow (tc : TileCtx) (q n : Nat) : Nat :=
  (List.range q).foldl (fun v k =>
    match (tc.q k).st, (tc.q k).waits with
    | .waiting, .signal m c => if m = n ∧ c ≤ v then v - c else v
    | _, _ => v) (tc.sig n)

/-- The context that SOLV_CTL names as an engine's Layby (07 R212). Scratch is addressed in it. -/
def Engine.layby (x : Engine) : Nat := fld x.ctl.toNat 16 6

/-- Work items in flight: those of the current product that are left, at most MAX_ITEMS (07 R212, R217). -/
def Engine.items (x : Engine) : Nat :=
  let f := fld x.ctl.toNat 8 7
  let cap := if f = 0 then 1 else min f 64
  match x.run with
  | some r => if r.prods.isEmpty || r.outcome.isSome then 0 else min cap (ceilDiv r.n 256 ^ 2 - r.panels.length)
  | none => 0

/-- Queue 3 of a Layby context on a lent tile waits for a work item: an engine that names the context has items pending,
and none has run on the tile since the queue last issued (12 R380). -/
def State.itemFirst (s : State) (c t q : Nat) (qu : Queue) : Bool :=
  q == 3 && (s.tile t).lentFrom.isSome && qu.item != some qu.seq
    && s.engines.any fun g => bit g.2.ctl.toNat 22 && g.2.layby == c && g.2.items != 0

/-- The queue may issue: the tile is in RUN, has a resident context that is ON and not held, is not
held for a switch or for a work item, and the queue is running or waiting (R132, 12 R375, R376, R380, 13 R412). DEDUCED,
log 2. -/
def State.issueEnv (s : State) (i : Issue) : Option Env :=
  let x := s.tile i.tile
  match x.resident with
  | none => none
  | some c =>
    match (s.ctx c).vid i.tile with
    | none => none
    | some v =>
      let qu := s.queue c v i.queue
      if x.runs && !s.holds c i.tile && !s.itemFirst c i.tile i.queue qu && (s.ctx c).on && !(s.ctx c).ending && !(s.ctx c).held && decide (i.queue < 4)
          && !s.reclaimable i.tile && (qu.st == .running || qu.st == .waiting) && !qu.yielded then
        some ⟨i.tile, i.queue, c, v, qu, i.word.toNat⟩
      else none

/-- A fetch: the state after the read, and the word at the program counter. -/
structure Fetched where
  s : State
  word : Option Nat
deriving DecidableEq, Repr

/-- The instruction word at a program counter of a context: 16 little-endian bytes of the image (R130). There is none
when the program counter is outside the image, the image does not translate, or the word is uncorrectable (Table 5.11,
FETCH). -/
def State.fetch (s : State) (c pc : Nat) : Fetched :=
  let x := s.ctx c
  if x.plen < pc + 16 then ⟨s, none⟩
  else match s.ctxRead c (x.program + pc) 16 with
    | none => ⟨s, none⟩
    | some r => ⟨r.s, if r.ue then none else some (leNat r.bytes)⟩

/-- A virtual tile named by an instruction: below V, and the tile itself for a Layby context (R128,
12 R380). -/
def State.vtOk (s : State) (e : Env) (v : Nat) : Bool :=
  let x := s.ctx e.c
  decide (v < x.map.length) && (x.kind != 1 || v == e.v)

/-- The program counter after an instruction that falls through: the ends of loop bodies are passed
here (R150). -/
def loopEnd : List LoopFrame → Queue → Nat → Queue
  | [], q, pc => { q with pc := pc % 2 ^ 48, loops := [] }
  | f :: fs, q, pc =>
    if pc = f.start + 16 * f.len then
      let n := q.ireg f.ic - 1
      let q1 := q.setIreg f.ic n
      if n != 0 then { q1 with pc := f.start % 2 ^ 48, loops := f :: fs }
      else loopEnd fs q1 pc
    else { q with pc := pc % 2 ^ 48, loops := f :: fs }

/-- The queue advanced past an instruction. -/
def Queue.advance (q : Queue) : Queue := loopEnd q.loops q (q.pc + 16)

/-- The queue waits at issue (R154). -/
def State.waitAt (s : State) (e : Env) (w : WaitFor) : State :=
  s.setQueue e.c e.v e.q { e.qu with st := .waiting, waits := w }

/-- The issue sequence number of a queue's next instruction (R155). -/
def Queue.num (q : Queue) : Nat := q.seq - q.seq0

/-- An exception at issue: the queue halts and the instruction does not execute (R152). DEDUCED, log 12. CLASS and OP
of the log come from the word that the command carries, also for FETCH, whose word could not be fetched (DESIGN CHOICE,
log 48). -/
def State.excAt (s : State) (e : Env) (code : Nat) : State :=
  s.haltExc e.c e.v e.t e.q code e.cls e.op e.qu.num e.qu.step

/-- The in-flight record of an instruction that issues. -/
def Env.flight (e : Env) : Flight :=
  { ctx := e.c, vt := e.v, queue := e.q, seq := e.qu.seq, num := e.qu.num, step := e.qu.step, cls := e.cls,
    op := e.op, sig := if wSigs e.w then some (wSTile e.w, wSSig e.w) else none }

/-- The instruction has issued: its wait count is consumed (R135), it takes the sequence number
(R132), and it is in flight. DEDUCED, log 7. -/
def State.commit (s : State) (e : Env) (f : Flight → Flight) (k : Queue → Queue) : State :=
  let tc := s.tc e.c e.v
  let tc1 := if wWaits e.w then tc.setSig (wWSig e.w) (tc.sig (wWSig e.w) - wWCount e.w) else tc
  let q1 := k { tc1.q e.q with st := .running, seq := e.qu.seq + 1 }
  let s1 := s.setTc e.c e.v (tc1.setQ e.q q1)
  let s2 : State := { s1 with flight := s1.flight ++ [f e.flight] }
  let s3 := s2.evTile 0x001 e.t
  if bit (fld s3.cnt.trcCtl.toNat 40 8) e.cls then
    s3.traceTile 1 e.c e.t e.q e.qu.step (e.qu.num % 2 ^ 32) (leBytes 1 e.cls ++ leBytes 1 e.op)
  else s3

/-- What the instruction at issue comes to. -/
def State.act (s : State) (e : Env) : Act → State
  | .exc code => s.excAt e code
  | .wait w => s.waitAt e w
  | .go s1 f k => s1.commit e f k

/-- A fetched instruction word at the head of its queue: it waits, raises an exception, or issues (R131, R132,
R135, R128). DEDUCED, log 12. -/
def State.issueWord (s : State) (cls op : Nat) (e : Env) (body : Env → State → Act) : State :=
  if opAssigned e.cls e.op && !(e.cls == cls && e.op == op) then s
  else if wWaits e.w && decide ((s.tc e.c e.v).leftBelow e.q (wWSig e.w) < wWCount e.w) then
    s.waitAt e (.signal (wWSig e.w) (wWCount e.w))
  else if !opAssigned e.cls e.op || !wHdrOk e.w then s.excAt e xInvalid
  else if wSigs e.w && !s.vtOk e (wSTile e.w) then s.excAt e xAccess
  else s.act e (body e s)

/-- An instruction that comes to issue: its word is fetched, and a command that names another word than the image
holds at the program counter is not due (R130, R132). DEDUCED, log 2. -/
def State.issue (s : State) (cls op : Nat) (i : Issue) (body : Env → State → Act) : State :=
  match s.issueEnv i with
  | none => s
  | some e =>
    let x := s.fetch e.c e.qu.pc
    match x.word with
    | none => x.s.excAt e xFetch
    | some w => if w = e.w then x.s.issueWord cls op e body else s

/-- An instruction whose only effect is on its own queue. -/
def goQueue (s : State) (k : Queue → Queue) : Act := .go s id k

/-- An instruction in flight belongs to this queue. -/
def Flight.ofQueue (f : Flight) (c v q : Nat) : Bool := f.ctx == c && f.vt == v && f.queue == q

/-- The tile whose data a move reads, and the tiles that it writes (R149, R21). -/
def Move.srcTile (m : Move) (own : Nat) : Nat := if m.srcSpace = 1 then m.srcVt else own
/-- The virtual tiles that a move writes, in order: the multicast of FLAGS bit 0, which applies to space 1. -/
def Move.dstTiles (m : Move) (own : Nat) : List Nat :=
  if m.dstSpace = 0 then [own]
  else if m.dstSpace ≠ 1 then []
  else if bit m.flags 0 then (List.range (m.mcount + 1)).map fun i => m.dstVt + i * m.mstride
  else [m.dstVt]

/-- A move in flight has still to write virtual tile `dst` from virtual tile `src`. -/
def Flight.owes (f : Flight) (src dst : Nat) : Bool :=
  let into (d : Bytes) : Bool :=
    f.cls == 3 && (moveOf d).srcTile f.vt == src && ((moveOf d).dstTiles f.vt).contains dst
  match f.work with
  | .post d => into d
  | .moving d _ => into d
  | _ => false

/-- An earlier transfer of a queue (its `seq` below `ord`) from tile `src` to tile `dst` has not arrived: a later one
waits for it (01 R21). -/
def State.owedBefore (s : State) (c v q ord src dst : Nat) : Bool :=
  s.flight.any fun g => g.ofQueue c v q && decide (g.seq < ord) && g.owes src dst

/-- Descriptors of a tile and context in flight (R148). -/
def State.posts (s : State) (c v : Nat) : Nat :=
  (s.flight.filter fun f => f.ctx == c && f.vt == v && f.posted).length

/-- The transfer descriptor of a post, read at issue (R148): an exception, a wait beyond 64
descriptors in flight, or the state and the bytes. -/
def State.post (s : State) (e : Env) (k : State → Bytes → Bool → Act) : Act :=
  if !postOk e.pl then .exc xInvalid
  else
    let a := postAddr e.pl e.qu
    if a % 64 != 0 then .exc xDescriptor
    else if storeSize < a + 64 then .exc xAccess
    else if 64 ≤ s.posts e.c e.v then .wait .descriptors
    else
      let r := s.storeRead e.t 6 a 64
      k r.s r.bytes r.ue

/-! ### Completion (R134) -/

/-- The context is resident on the tile of its virtual tile `v`; the completions of a context that is
not resident are held (12 R377). -/
def State.residentAt (s : State) (c v : Nat) : Bool :=
  match (s.ctx c).phys v with
  | some t => (s.tile t).resident == some c
  | none => false

/-- The unit of a class: classes 0x6 and 0x7 both go to the sequencer (Table 5.3). -/
def unitOf (cls : Nat) : Nat := if cls = 7 then 6 else cls

/-- The instruction may complete: its context is resident, its work and its fragments are done, and
no earlier instruction of its queue and unit is still in flight. -/
def State.mayComplete (s : State) (f : Flight) : Bool :=
  s.residentAt f.ctx f.vt && f.work == .done && f.frags == 0 &&
    s.flight.all fun g => !(g.ofQueue f.ctx f.vt f.queue && unitOf g.cls == unitOf f.cls && decide (g.seq < f.seq))

/-- An instruction completes: its status word is written, its flags are ORed into the queue, its
signal is raised, and a poisoned completion is reported (R134, R148, R152, R41); a host region that only it still named
is removed (14 R444). DEDUCED, log 7. -/
def State.complete (s : State) (f : Flight) : State :=
  let t := s.physD f.ctx f.vt
  let s0 := (State.settleTcfg { s with flight := s.flight.filter fun g => g != f }).settleRegions
  let s1 := match f.statusAt with
    | some a => s0.storeWrite t 6 a (leBytes 8 f.status)
    | none => s0
  let qu := s1.queue f.ctx f.vt f.queue
  let s2 := s1.setQueue f.ctx f.vt f.queue { qu with flags := qu.flags ||| f.flags }
  let s3 := if bit (fld s2.cnt.trcCtl.toNat 40 8) f.cls then
      s2.traceTile 2 f.ctx t f.queue f.step (f.num % 2 ^ 32)
        (leBytes 1 f.cls ++ leBytes 1 f.op ++ leBytes 1 f.flags.toNat ++ leBytes 1 (b2n f.poison))
    else s2
  let s4 := if f.poison then
      let x := s3.tile t
      (s3.setTile t { x with errStatus := x.errStatus ||| 1 }).logExc f.ctx f.vt t f.queue xPoison
        f.cls f.op f.num f.step
    else s3
  match f.sig with
  | some (dv, n) => s4.sendSig ⟨f.ctx, f.vt, f.queue, dv, n, 1, f.cls, f.op, f.num, f.step, f.seq⟩
  | none => s4

end Sys2Proof.Machine
end

