-- ==== Sys2Proof/Machine/Sync.lean ====
section
/-! DEFINITION. Synchronisation and control instructions, completion and signal increments
(05_instruction_set R134 to R140, R150, R151; 12 R369, R375; 14 R441). -/

namespace Sys2Proof.Machine

/-- The context is a Layby or an evaluation context, in which the instruction raises INVALID_INSTR
(12 R369). -/
def State.minor (s : State) (e : Env) : Bool := (s.ctx e.c).kind != 0

/-! ### Class 0x6 -/

/-- SADD: VALUE is added to a signal of a virtual tile (Table 5.10). -/
def bodySadd (e : Env) (s : State) : Act :=
  let vt := fld e.pl 80 8
  let val := fld e.pl 59 16
  Act.when (fld e.pl 0 59 != 0 || val == 0) xInvalid <|
  Act.when (!s.vtOk e vt) xAccess <|
  .go (s.sendSig ⟨e.c, e.v, e.q, vt, fld e.pl 75 5, val, 6, 0, e.qu.num, e.qu.step, e.qu.seq⟩) id Queue.advance

/-- SADD (R150). -/
def execSadd (i : Issue) (s : State) : Res := .next (s.issue 6 0 i bodySadd)

/-- An instruction without payload that only falls through. -/
def bodyPlain (e : Env) (s : State) : Act :=
  Act.when (e.pl != 0) xInvalid <| goQueue s Queue.advance

/-- SWAIT (R150). -/
def execSwait (i : Issue) (s : State) : Res := .next (s.issue 6 1 i bodyPlain)

/-- SREAD: I[ID] = counter SIG (Table 5.10), read after the count that the instruction itself
consumes at issue has been subtracted (DEDUCED, log 20). -/
def bodySread (e : Env) (s : State) : Act :=
  let n := fld e.pl 79 5
  let used := if wWaits e.w && wWSig e.w == n then wWCount e.w else 0
  Act.when (fld e.pl 0 79 != 0) xInvalid <|
  goQueue s fun q =>
    (q.setIreg (fld e.pl 84 4) (BitVec.ofNat 32 ((s.tc e.c e.v).sig n - used))).advance

/-- SREAD (R150). -/
def execSread (i : Issue) (s : State) : Res := .next (s.issue 6 2 i bodySread)

/-- MARRIVE: the queue's step number advances and the arrival is noted (R138, R139). -/
def bodyMarrive (e : Env) (s : State) : Act :=
  Act.when (e.pl != 0 || s.minor e) xInvalid <|
  goQueue s fun q => { q.advance with step := q.step + 1, arrived := some q.step }

/-- MARRIVE (R138). -/
def execMarrive (i : Issue) (s : State) : Res := .next (s.issue 6 3 i bodyMarrive)

/-- MWAIT: it issues once Milestone s + k has completed (R140). -/
def bodyMwait (e : Env) (s : State) : Act :=
  let m := ((e.qu.step : Int) + sext 8 (fld e.pl 0 8)).toNat
  Act.when (fld e.pl 8 80 != 0 || s.minor e) xInvalid <|
  if (s.ctx e.c).reached m then goQueue s Queue.advance else .wait (.mstone m)

/-- MWAIT (R140). -/
def execMwait (i : Issue) (s : State) : Res := .next (s.issue 6 4 i bodyMwait)

/-- FENCE: it issues when every earlier instruction of the queue has completed (Table 5.10). -/
def bodyFence (e : Env) (s : State) : Act :=
  Act.when (e.pl != 0) xInvalid <|
  if s.flight.all fun f => !f.ofQueue e.c e.v e.q then goQueue s Queue.advance else .wait .fence

/-- FENCE (R150). -/
def execFence (i : Issue) (s : State) : Res := .next (s.issue 6 5 i bodyFence)

/-! ### Class 0x7 -/

/-- NOP (R150). -/
def execNop (i : Issue) (s : State) : Res := .next (s.issue 7 0 i bodyPlain)

/-- IMOV: I[ID] = IMM. -/
def bodyImov (e : Env) (s : State) : Act :=
  Act.when (fld e.pl 32 52 != 0) xInvalid <|
  goQueue s fun q => (q.setIreg (fld e.pl 84 4) (BitVec.ofNat 32 (fld e.pl 0 32))).advance

/-- IMOV (R150). -/
def execImov (i : Issue) (s : State) : Res := .next (s.issue 7 1 i bodyImov)

/-- IADD: I[ID] = I[IS] + IMM modulo 2^32. -/
def bodyIadd (e : Env) (s : State) : Act :=
  Act.when (fld e.pl 32 48 != 0) xInvalid <|
  goQueue s fun q =>
    (q.setIreg (fld e.pl 84 4) (q.ireg (fld e.pl 80 4) + BitVec.ofNat 32 (fld e.pl 0 32))).advance

/-- IADD (R150). -/
def execIadd (i : Issue) (s : State) : Res := .next (s.issue 7 2 i bodyIadd)

/-- A body that ends at an offset runs past the end of the enclosing body. -/
def loopPast : List LoopFrame → Nat → Bool
  | [], _ => false
  | f :: _, n => decide (f.start + 16 * f.len < n)

/-- LOOP: the next LEN instructions run I[IC] times (Table 5.10, R151). A fifth level, and a body that
runs past the end of the enclosing body, raise INVALID_INSTR. -/
def bodyLoop (e : Env) (s : State) : Act :=
  let ic := fld e.pl 84 4
  let len := fld e.pl 76 8
  let start := e.qu.pc + 16
  Act.when (fld e.pl 0 76 != 0 || len == 0 || decide (60 < len)
    || decide (4 ≤ e.qu.loops.length) || loopPast e.qu.loops (start + 16 * len)) xInvalid <|
  goQueue s fun q =>
    if q.ireg ic = 0 then loopEnd q.loops q (start + 16 * len)
    else { q with pc := start % 2 ^ 48, loops := ⟨start, len, ic⟩ :: q.loops }

/-- LOOP (R150, R151). -/
def execLoop (i : Issue) (s : State) : Res := .next (s.issue 7 3 i bodyLoop)

/-- A branch target lies outside the innermost loop body. -/
def brOut : List LoopFrame → Int → Bool
  | [], _ => false
  | f :: _, x => decide (x < f.start) || decide ((f.start + 16 * f.len : Int) ≤ x)

/-- BR: a branch by OFF instructions from itself; a taken branch out of a loop body raises
INVALID_INSTR (Table 5.10, R151). DEDUCED, log 10. -/
def bodyBr (e : Env) (s : State) : Act :=
  let taken := !bit e.pl 83 || e.qu.ireg (fld e.pl 84 4) != 0
  let target := ((e.qu.pc : Int) + 16 * sext 32 (fld e.pl 0 32)) % (2 ^ 48 : Int)
  Act.when (fld e.pl 32 51 != 0 || (taken && brOut e.qu.loops target)) xInvalid <|
  goQueue s fun q => if taken then { q with pc := target.toNat } else q.advance

/-- BR (R150). -/
def execBr (i : Issue) (s : State) : Res := .next (s.issue 7 4 i bodyBr)

/-- HALT: the queue becomes idle. DEDUCED, log 11. -/
def bodyHalt (e : Env) (s : State) : Act :=
  Act.when (e.pl != 0) xInvalid <| goQueue s fun q => { q.advance with st := .idle }

/-- HALT (R150). -/
def execHalt (i : Issue) (s : State) : Res := .next (s.issue 7 5 i bodyHalt)

/-- FLAGR: the sticky flags of completed instructions are read, and cleared when CLR = 1 (R151). -/
def bodyFlagr (e : Env) (s : State) : Act :=
  Act.when (fld e.pl 0 83 != 0) xInvalid <|
  goQueue s fun q =>
    let q1 := (q.setIreg (fld e.pl 84 4) (BitVec.ofNat 32 q.flags.toNat)).advance
    if bit e.pl 83 then { q1 with flags := flNone } else q1

/-- FLAGR (R150, R151). -/
def execFlagr (i : Issue) (s : State) : Res := .next (s.issue 7 6 i bodyFlagr)

/-- YIELD: a preemption point; the queue stops issuing while a switch is pending (12 R375). -/
def bodyYield (e : Env) (s : State) : Act :=
  Act.when (e.pl != 0) xInvalid <|
  goQueue s fun q => { q.advance with yielded := s.switchPending e.c }

/-- YIELD (R150, 12 R375). -/
def execYield (i : Issue) (s : State) : Res := .next (s.issue 7 7 i bodyYield)

/-- Consecutive 16-byte descriptors put into a table from entry `n`. -/
def loadEntries (tab : Tbl (BitVec 128)) (n : Nat) : Nat → Bytes → Tbl (BitVec 128)
  | 0, _ => tab
  | k + 1, bs => loadEntries (Tbl.set tab n (BitVec.ofNat 128 (leNat (bs.take 16)))) (n + 1) k (bs.drop 16)

/-- DLOAD: entries of the operand or precondition table are loaded from tile store (Table 5.10,
R151). -/
def bodyDload (e : Env) (s : State) : Act :=
  let first := fld e.pl 82 6
  let cnt := fld e.pl 76 6 + 1
  let pre := bit e.pl 75
  let a := fld e.pl 53 22
  Act.when (fld e.pl 0 53 != 0 || decide ((if pre then 16 else 64) < first + cnt)) xInvalid <|
  Act.when (decide (storeSize < a + 16 * cnt)) xAccess <|
    let r := s.storeRead e.t 6 a (16 * cnt)
    let tc := r.s.tc e.c e.v
    let tc1 := if pre then { tc with preTab := loadEntries tc.preTab first cnt r.bytes }
               else { tc with opTab := loadEntries tc.opTab first cnt r.bytes }
    .go (r.s.setTc e.c e.v tc1) (fun f => { f with poison := r.ue }) Queue.advance

/-- DLOAD (R150, R151). -/
def execDload (i : Issue) (s : State) : Res := .next (s.issue 7 8 i bodyDload)

/-- A live map with the bits of regions `first` to `first + cnt` set or cleared. -/
def liveSet (m : BitVec 256) (first cnt : Nat) (set : Bool) : BitVec 256 :=
  let mask := BitVec.ofNat 256 ((2 ^ (cnt + 1) - 1) * 2 ^ first)
  if set then m ||| mask else m &&& ~~~mask

/-- LIVE: live bits of the issuing context's map (R110, Table 5.10). -/
def bodyLive (e : Env) (s : State) : Act :=
  let first := fld e.pl 80 8
  let cnt := fld e.pl 72 8
  Act.when (fld e.pl 0 71 != 0 || decide (255 < first + cnt)) xInvalid <|
    let tc := s.tc e.c e.v
    .go (s.setTc e.c e.v { tc with live := liveSet tc.live first cnt (bit e.pl 71) }) id Queue.advance

/-- LIVE (R110, R150). -/
def execLive (i : Issue) (s : State) : Res := .next (s.issue 7 9 i bodyLive)

/-! ### Increments -/

/-- What the waiting queues of a tile leave of a counter, taken in queue order (R135, 14 R441). -/
def TileCtx.leftOf (tc : TileCtx) (n : Nat) : Nat := tc.leftBelow 4 n

/-- Watch `k` of a context fires: it is armed, its virtual tile is resident, and its counter holds COUNT after the
queue waits (14 R441). -/
def State.watchDue (s : State) (c k : Nat) : Bool :=
  let w : Watch := Tbl.get {} (s.ctx c).watches k
  w.armed && s.residentAt c w.vt && decide (w.count ≤ (s.tc c w.vt).leftOf w.sig)

/-- A watch tested: one that fires subtracts its COUNT and sends a SIGNAL event (14 R441). -/
def State.testWatch (s : State) (c k : Nat) : State :=
  if s.watchDue c k then
    let x := s.ctx c
    let w : Watch := Tbl.get {} x.watches k
    let tc := s.tc c w.vt
    let left := tc.sig w.sig - w.count
    let s1 := s.setTc c w.vt (tc.setSig w.sig left)
    let s2 := s1.setCtx c { x with watches := Tbl.set x.watches k { w with armed := w.repeats } }
    s2.ctxEvent c 0x06 (leBytes 1 k ++ leBytes 4 left)
  else s

/-- The watches of a context tested in ascending index in each of at most `n` core cycles, until none fires. -/
def State.watchCycles (c : Nat) : Nat → State → State
  | 0, s => s
  | n + 1, s =>
    if (List.range 16).any (s.watchDue c) then
      State.watchCycles c n ((List.range 16).foldl (fun (st : State) k => st.testWatch c k) s)
    else s

/-- The watches of a context tested in each core cycle (14 R441). The counters of a tile together hold less than
2^37. -/
def State.testWatches (s : State) (c : Nat) : State := State.watchCycles c (2 ^ 45) s

/-- An increment applied to its counter; one that would pass 2^32 − 1 leaves it there and raises
SIGNAL_OVF on the queue that raised it (R136). -/
def State.applySig (s : State) (x : SigInc) : State :=
  let tc := s.tc x.ctx x.dstVt
  let n := tc.sig x.sig + x.amount
  let s1 := s.setTc x.ctx x.dstVt (tc.setSig x.sig (min n sigMax))
  let s2 := if sigMax < n && x.srcQ < 4 then
      s1.haltExc x.ctx x.srcVt (s1.physD x.ctx x.srcVt) x.srcQ xSignalOvf x.cls x.op x.seq x.step
    else s1
  s2.testWatches x.ctx

/-- SIGNAL_INCREMENT: increment `k` of those in flight reaches its counter, unless an increment or a move of the same
queue to the same tile is ahead of it (R136, R21). -/
def execSignalIncrement (k : Nat) (s : State) : Res :=
  match s.sigs[k]? with
  | none => .next s
  | some x =>
    if ((s.sigs.take k).any fun y => y.ctx == x.ctx && y.srcVt == x.srcVt && y.srcQ == x.srcQ
        && y.dstVt == x.dstVt) || s.owedBefore x.ctx x.srcVt x.srcQ x.ord x.srcVt x.dstVt then .next s
    else .next ({ s with sigs := s.sigs.eraseIdx k }.applySig x)

end Sys2Proof.Machine
end

