-- ==== Sys2Proof/Machine/Matrix.lean ====
section
/-! DEFINITION. The matrix class: the checks of an instruction, its operands, its products, its drains,
its residue checks, the root products of MMAP, and current shaping (03_matrix_array R72 to R101;
05_instruction_set R141 to R144, R556; 06_curvature_taps R163 to R165).
Assumption log: log 27 (DEDUCED), log 28 (DESIGN CHOICE), log 35 (DESIGN CHOICE), log 36 (DESIGN CHOICE),
log 37 (DESIGN CHOICE). -/

namespace Sys2Proof.Machine

/-! ### The payload (Table 5.6) -/

/-- The fields of a matrix payload. -/
structure MPay where
  d : List Nat
  n : Nat
  pass : Nat
  stat : Nat
  sat : Bool
  acc : Bool
  tapA : Bool
  tapB : Bool
  slA : Nat
  slB : Nat
  pd : Nat
  klen : Nat
  ncol : Nat
  res : Nat
deriving DecidableEq, Repr

/-- The payload read; `d` lists DA, DB, DC and DC0. -/
def mpay (p : Nat) : MPay :=
  ⟨[fld p 82 6, fld p 76 6, fld p 70 6, fld p 64 6], fld p 44 20 + 1, fld p 42 2, fld p 40 2, bit p 39,
    bit p 38, bit p 37, bit p 36, fld p 32 4, fld p 28 4, fld p 24 4, fld p 16 8, fld p 9 7, fld p 0 9⟩

/-- WS, IS and OS. -/
def statWS : Nat := 0
def statIS : Nat := 1
def statOS : Nat := 2

/-- A matrix instruction with its descriptors: operands A and B, result C, prior value c₀, and the
precondition descriptor of an MMAP. -/
structure MInst where
  p : MPay
  a : Opd
  b : Opd
  c : Opd
  c0 : Opd
  pre : Option Nat
deriving DecidableEq, Repr

/-- The root of a side is enabled (Table 5.5). -/
def MInst.rootA (m : MInst) : Bool := match m.pre with | some d => (preA d).en | none => false
def MInst.rootB (m : MInst) : Bool := match m.pre with | some d => (preB d).en | none => false

/-- MACs per PE and cycle of an input format (Table 3.1). -/
def macRate (f : Nat) : Nat :=
  if f ≤ 3 then 1 else if f = 4 ∨ f = 5 ∨ f = 0xB then 2 else 4

/-- The input format and block size of an operand: under PASS1 one that names FP32 takes those of the
other, BF16 when both do (R60). -/
def effFmt (pass : Nat) (o other : Opd) : Nat × Nat :=
  if pass = 0 ∧ o.fmt = 0 then (if other.fmt = 0 then (1, 0) else (other.fmt, other.bsize))
  else (o.fmt, o.bsize)

def MInst.effA (m : MInst) : Nat × Nat := effFmt m.p.pass m.a m.b
def MInst.effB (m : MInst) : Nat × Nat := effFmt m.p.pass m.b m.a
/-- r of R73. -/
def MInst.r (m : MInst) : Nat := min (macRate m.effA.1) (macRate m.effB.1)
/-- Both operands are integer and neither is block-scaled: the accumulation is INT32 (R72). -/
def MInst.int (m : MInst) : Bool := isIntInput m.a.fmt && m.a.blk == 0 && m.b.blk == 0
/-- The block size of the products, 0 without block scales (R50). -/
def MInst.bsize (m : MInst) : Nat := max m.effA.2 m.effB.2
/-- The reduction length (R75). -/
def MInst.klen (m : MInst) : Nat :=
  if m.p.stat = statOS then m.r * m.p.n else if m.p.klen = 0 then 64 * m.r else m.p.klen
/-- The products of the instruction: its pass mode and the operands that are sourced from BF16 (R61). A rooted
operand reaches the gradient product as FP32 rows under PASS2 and PASS3 (R86). -/
def MInst.passMode (m : MInst) : PassMode :=
  ⟨m.p.pass, m.a.fmt == 1 && !m.rootA, m.b.fmt == 1 && !m.rootB⟩
/-- Operand rows that one streamed row carries: r reduction indices in OS, one row of A or column of B in WS and IS
(Table 3.2). -/
def MInst.perRow (m : MInst) : Nat := if m.p.stat = statOS then m.r else 1
/-- The columns of a root slice: the tile's columns of A (side 0) or B (side 1) (Table 5.5). -/
def MInst.sliceCols (m : MInst) (side : Nat) : Nat :=
  if m.p.stat = statOS then (if side = 0 then 64 else 128) else m.klen
/-- NCOL. -/
def MInst.ncol (m : MInst) : Nat := if m.p.ncol = 0 then 128 else m.p.ncol
/-- Rows and columns of C. -/
def MInst.rows (m : MInst) : Nat :=
  if m.p.stat = statWS then m.p.n else if m.p.stat = statIS then m.ncol else 64
def MInst.cols (m : MInst) : Nat :=
  if m.p.stat = statWS then m.ncol else if m.p.stat = statIS then m.p.n else 128

/-! ### Checks at issue -/

/-- The descriptors that the instruction names. -/
def MInst.named (m : MInst) : List Opd := [m.a, m.b, m.c] ++ (if m.p.acc then [m.c0] else [])

/-- A format that an operand descriptor may name (R73). -/
def isOperandFmt (f : Nat) : Bool := f == 0 || isMatrixInput f

/-- Sizes of the segments of an MMAP: G streamed rows each, the last possibly shorter (R85). -/
def segments (g : Nat) : Nat → Nat → List Nat
  | 0, _ => []
  | k + 1, n => if n = 0 then [] else min g n :: segments g k (n - min g n)
/-- The segments of an MMAP. -/
def MInst.segs (m : MInst) : List Nat :=
  match m.pre with
  | some d => segments (preSeg d) m.p.n m.p.n
  | none => []
/-- The rows of a segment of `g` rows that member `i` of `n` computes (R88). -/
def shareRows (g n i : Nat) : Nat := if i < g % n then g / n + 1 else g / n

/-- The place of a virtual tile in a share group. -/
def Pre.memberOf (p : Pre) (v : Nat) : Option Nat := indexOf? v p.members

/-- The operand rows of the largest share of a segment that member `v` computes (R88). -/
def MInst.shareMax (m : MInst) (v : Nat) (p : Pre) : Nat :=
  m.perRow * ((m.segs.map fun g => shareRows g p.gsz ((p.memberOf v).getD 0)).foldl max 0)

/-- Latch elements that a tapped side with a root needs for one segment (06 R181), by LOG2S of its slot; a slot that is
not bound takes no samples (06 R169). -/
def latchNeed (m : MInst) (v : Nat) (p : Pre) (tapped : Bool) (log2s : Option Nat) : Nat :=
  match log2s with
  | some k => if tapped && p.en then ceilDiv (m.shareMax v p) (2 ^ k) * p.b else 0
  | none => 0

/-- The combinations that raise INVALID_INSTR once the descriptors are read: R60, R73, R118, R142,
R144, R163, R181, R225, 12 R369. A root on the operand that stays in the PEs (B in WS, A in IS) has no streamed rows
for R85's segments and is a reserved combination (DEDUCED, log 30). An integer operand with a root is not refused: no
rule refuses it (DESIGN CHOICE, log 37). -/
def badCombo (m : MInst) (classW minor : Bool) (v : Nat) (slotS : Nat → Option Nat) : Bool :=
  let fa := m.a.fmt
  let fb := m.b.fmt
  let isInt (f : Nat) : Bool := isIntInput f
  let tapped := m.p.tapA || m.p.tapB
  m.a.kind == 2 || m.b.kind == 2 || m.c.kind == 1 || (m.p.acc && m.c0.kind == 2)
  || (m.p.stat == statIS && m.c.kind == 2)
  || !isOperandFmt fa || !isOperandFmt fb || isInt fa != isInt fb
  || (m.named.any fun o => o.blk != 0 && !isBlockScalable o.fmt)
  || (m.effA.2 != 0 && m.effB.2 != 0 && m.effA.2 != m.effB.2)
  || (m.p.pass != 0 && !(decide (fa ≤ 3) && decide (fb ≤ 3)))
  || (m.p.stat != statOS && decide (64 * m.r < m.klen))
  || (m.p.acc && (if m.int then !(m.c0.fmt == 9 || m.c0.fmt == 0xA || m.c0.fmt == 0xB || m.c0.fmt == 0xC)
        || m.c0.blk != 0 else !isFloatFmt m.c0.fmt))
  || (m.c.kind == 0 && (m.c.fmt == 0xE || m.c.fmt == 0xD))
  || (!classW && m.c.kind == 0 && m.c.fmt == 0)
  || (minor && tapped)
  || (m.p.tapA && m.p.stat == statIS && !m.rootA) || (m.p.tapB && m.p.stat == statWS && !m.rootB)
  || (match m.pre with
      | none => false
      | some d =>
        let pa := preA d
        let pb := preB d
        (pa.en && m.p.stat == statIS) || (pb.en && m.p.stat == statWS)
        || (pa.en && (pa.memberOf v).isNone) || (pb.en && (pb.memberOf v).isNone)
        || decide (32768 < latchNeed m v pa m.p.tapA (slotS m.p.slA)
            + latchNeed m v pb m.p.tapB (slotS m.p.slB)))

/-- The matrix that a descriptor names in tile store, `nr` rows of `nc` elements, and its block scales in `ns` bytes lie
below 2^22 (R141, R556). -/
def opdFits (o : Opd) (nr nc ns : Nat) : Bool :=
  o.kind == 2 || ((o.kind != 0 || decide (o.ea + (nr - 1) * o.pitch + (nc * fmtWidth o.fmt + 7) / 8 ≤ storeSize))
    && (o.blk == 0 || decide (o.saddr + ns ≤ storeSize)))

/-- The scale bytes of a matrix: elements of a pitch, blocks along rows or along columns (R556). -/
def scaleBytes (o : Opd) (unitBytes nr nc : Nat) (alongRows : Bool) : Nat :=
  let e := unitBytes * 8 / fmtWidth o.fmt
  if o.bsize = 0 then 0
  else if alongRows then (nr - 1) * ceilDiv e o.bsize + (nc - 1) / o.bsize + 1
  else (nr - 1) / o.bsize * e + nc

/-- Rows and columns of the matrices as stored: for a side with a root the member's share rows by the
factor block (R142). -/
def MInst.dimsA (m : MInst) (v : Nat) : Nat × Nat :=
  match m.pre with
  | some d => if (preA d).en then (m.shareMax v (preA d), (preA d).b) else (m.rows, m.klen)
  | none => (m.rows, m.klen)
def MInst.dimsB (m : MInst) (v : Nat) : Nat × Nat :=
  match m.pre with
  | some d => if (preB d).en then (m.shareMax v (preB d), (preB d).b) else (m.klen, m.cols)
  | none => (m.klen, m.cols)

/-- The stream that a KIND 0x1 operand of virtual tile `v` reads: open, receiving, with its ring in that tile at ADDR
(09 R288). -/
def State.flowOf (s : State) (c v : Nat) (o : Opd) : Option Stream :=
  match Tbl.find s.fab.streams o.flow with
  | some x => if x.ctx == c && x.vt == v && !x.sends && x.opened && x.addr == o.ea then some x else none
  | none => none

/-- The bytes of a row pitch: PITCH, or UNIT for a stream (R556). -/
def State.pitchOf (s : State) (c v : Nat) (o : Opd) : Nat :=
  if o.kind = 1 then ((s.flowOf c v o).map (·.unit)).getD 0 else o.pitch

/-- A slot of a staging ring: bytes of a row, and of the rows of a segment (R87). Rows are packed (02 R49). -/
def MInst.ringRow (m : MInst) (side f : Nat) : Nat :=
  (m.sliceCols side * (if m.p.pass = 0 then fmtWidth f else 32) + 7) / 8
def MInst.ringSlot (m : MInst) (side f seg : Nat) : Nat := seg * m.perRow * m.ringRow side f

/-- The rings and root slices of the precondition descriptor fit in tile store. -/
def preFits (m : MInst) (d : Nat) : Bool :=
  let ok (p : Pre) (side f : Nat) : Bool :=
    !p.en || (decide (p.ring + 2 * m.ringSlot side f (preSeg d) ≤ storeSize)
      && decide (p.root + p.b * m.sliceCols side * 2 ≤ storeSize))
  ok (preA d) 0 m.effA.1 && ok (preB d) 1 m.effB.1

/-- The conditions that raise ACCESS (R128, R141, R142, R225, 09 R288, 12 R384). -/
def State.badAccess (s : State) (e : Env) (m : MInst) : Bool :=
  let da := m.dimsA e.v
  let db := m.dimsB e.v
  let alongC := m.p.stat != statIS
  let sc (o : Opd) (nr nc : Nat) (along : Bool) : Nat := scaleBytes o (s.pitchOf e.c e.v o) nr nc along
  (m.named.any fun o => o.kind == 0 && !s.vtOk e o.vt)
  || (m.named.any fun o => o.kind == 1 && (s.flowOf e.c e.v o).isNone)
  || !opdFits m.a da.1 da.2 (sc m.a da.1 da.2 true)
  || !opdFits m.b db.1 db.2 (sc m.b db.1 db.2 m.rootB)
  || !opdFits m.c m.rows m.cols (scaleBytes m.c m.c.pitch m.rows m.cols alongC)
  || (m.p.acc && !opdFits m.c0 m.rows m.cols (sc m.c0 m.rows m.cols alongC))
  || (match m.pre with
      | none => false
      | some d => (preA d).en && (preA d).members.any (fun v => !s.vtOk e v)
          || (preB d).en && (preB d).members.any (fun v => !s.vtOk e v) || !preFits m d
          || !s.vtOk e e.v)
  || (m.c.kind == 2 && ((s.ctx e.c).kind == 2 || (s.tensor e.c m.c.tid).isNone
      || (match s.smap e.c with
          | some mp => (mp.tensorEntry m.c.tid).isNone
          | none => false)))

/-! ### Reading operands (R141, R556, R52, R60) -/

/-- Rows of a matrix read from a tile store. -/
structure RowRd where
  s : State
  rows : List Bytes
  ue : Bool

/-- `n` rows of `nb` bytes read at a pitch, by a requester. -/
def readRows (t req pitch nb : Nat) : Nat → Nat → State → RowRd
  | 0, _, s => ⟨s, [], false⟩
  | n + 1, a, s =>
    let r := s.storeRead t req a nb
    let rest := readRows t req pitch nb n (a + pitch) r.s
    ⟨rest.s, r.bytes :: rest.rows, r.ue || rest.ue⟩

/-- The value of an element code; FP32 keeps its bits. -/
def decAny (fmt n : Nat) : Fv := if fmt = 0 then decF32 (BitVec.ofNat 32 n) else decElem fmt n

/-- The values of a matrix from its rows of bytes: block scales by R556, or the tensor scale of R52. -/
def opdValues (o : Opd) (unitBytes nc : Nat) (alongRows : Bool) (rows : List Bytes) (sc : Bytes)
    (tsc : Int) : List (List Fv) :=
  let w := fmtWidth o.fmt
  let e := unitBytes * 8 / w
  let b := o.bsize
  (rows.zip (List.range rows.length)).map fun ri =>
    ((unpackElems w nc ri.1).zip (List.range nc)).map fun nj =>
      if b = 0 then (if o.tscale then fvScale tsc (decAny o.fmt nj.1) else decAny o.fmt nj.1)
      else
        let k := if alongRows then ri.2 * ceilDiv e b + nj.2 / b else ri.2 / b * e + nj.2
        blockElem o.fmt ((sc[k]?).getD 0).toNat nj.1

/-- A matrix with its state and whether a word of it was uncorrectable. -/
structure MatRd where
  s : State
  m : List (List Fv)
  ue : Bool

/-- The E8M0 code of a magnitude, clamped to 0x00 to 0xFE (02 R53). -/
def e8m0Of (m : Nat) (e : Int) : Nat :=
  let v := floorLog2 m e + 127
  if v < 0 then 0 else min v.toNat 0xFE

/-- The E8M0 code of the largest finite magnitude of some values, none if it is zero, and how many of the values are
NaNs or infinities (02 R53). -/
def heldOf (l : List Fv) : Option Nat × Nat :=
  l.foldl (fun a v => match v with
    | .fin _ m e => if m = 0 then a else (some (max (a.1.getD 0) (e8m0Of m e)), a.2)
    | _ => (a.1, a.2 + 1)) (none, 0)

/-- Values that a tensor-scaled tensor holds, as the array reads or writes them, noted for its step under the place of
its exponent byte (02 R53; DESIGN CHOICE, log 72). -/
def State.noteHeld (s : State) (c step vt saddr : Nat) (l : List Fv) : State :=
  let x := s.ctx c
  let h := heldOf l
  let old := (x.heldScales.find? fun k => k.step == step && k.vt == vt && k.saddr == saddr).getD ⟨step, vt, saddr, none, 0⟩
  let code := match old.code, h.1 with
    | some a, some b => some (max a b)
    | a, none => a
    | none, b => b
  s.setCtx c { x with heldScales := { old with code := code, bad := old.bad + h.2 } ::
    x.heldScales.filter fun k => !(k.step == step && k.vt == vt && k.saddr == saddr) }

/-- The virtual tile in whose store the scales of an operand lie: this one for a stream (05 Table 5.4). -/
def Env.scaleVt (e : Env) (o : Opd) : Nat := if o.kind = 1 then e.v else o.vt

/-- The matrix of a descriptor: `nr` by `nc`, from tile store, or from stream rows already taken, whose length is UNIT
(R556). DEDUCED, log 18. -/
def State.readMat (s : State) (env : Env) (o : Opd) (nr nc : Nat) (alongRows : Bool)
    (streamed : List Bytes) : MatRd :=
  let t := env.t
  let ot := s.physD env.c o.vt
  let st := if o.kind = 1 then t else ot
  let req := if st = t then 1 else 2
  let unitBytes := if o.kind = 1 then ((streamed.map (·.length)).head?).getD 0 else o.pitch
  let r : RowRd := if o.kind = 1 then ⟨s, streamed.take nr, false⟩
    else readRows ot req o.pitch ((nc * fmtWidth o.fmt + 7) / 8) nr o.ea s
  let r2 := if o.blk != 0 then r.s.storeRead st req o.saddr (scaleBytes o unitBytes nr nc alongRows)
    else if o.tscale then r.s.storeRead st req o.saddr 1 else ⟨r.s, [], false⟩
  let v := opdValues o unitBytes nc alongRows r.rows r2.bytes (sext 8 (recN r2.bytes 0 1))
  let s3 := if o.blk = 0 ∧ o.tscale then r2.s.noteHeld env.c env.qu.step (env.scaleVt o) o.saddr v.flatten else r2.s
  ⟨s3, v, r.ue || r2.ue⟩

/-- Values with the flags met on the way. -/
structure FlM where
  m : List (List Fv)
  fl : ExFlags
  sats : Nat := 0

/-- A vector converted into an input format: block by block with scales of its own, or element by
element with SAT = 0 (R47, R60; the saturation is DEDUCED, log 31). `rd` gives each element's
rounding. -/
def convVec (fmt bs : Nat) (fit : Bool) (rd : Nat → Rounding) (l : List Fv) : List Fv × ExFlags × Nat :=
  let lr := (l.zip (List.range l.length)).map fun p => (p.1, rd p.2)
  if bs = 0 then
    let rs := lr.map fun p => convTo! fmt false p.2 p.1
    (rs.map fun r => decElem fmt r.bits, flUnion (rs.map (·.fl)), 0)
  else
    let gs := (chunks bs l.length lr).map fun g => convBlock fmt fit g
    (gs.flatMap fun g => g.elems.map fun n => blockElem fmt g.scale n, flUnion (gs.map (·.fl)),
      (gs.map (·.sats)).foldl (· + ·) 0)

/-- An operand as the PEs take it: an FP32 source under PASS1 converted along the reduction (R60), and
the invalid flag of a signalling NaN (R39). `vecs` are its vectors along the reduction. -/
def takeOperand (pass : Nat) (o : Opd) (eff : Nat × Nat) (vecs : List (List Fv)) : FlM :=
  let sn := flIf (vecs.any fun l => l.any fvIsSNaN) flInvalid
  if pass = 0 ∧ o.fmt = 0 then
    let rs := vecs.map (convVec eff.1 eff.2 o.fit fun _ => .nearest)
    ⟨rs.map (·.1), flUnion (rs.map (·.2.1)) ||| sn, (rs.map (·.2.2)).foldl (· + ·) 0⟩
  else ⟨vecs, sn, 0⟩

/-! ### Products -/

/-- The accumulators of a product, C rows by columns: `as` the rows of A and `bs` the columns of B along
the reduction, `c0` the prior values (R38, R50, R62). -/
def products (pass : PassMode) (bsize : Nat) (as bs : List (List Fv)) (c0 : List (List Fv)) (acc : Bool) :
    List (List W32) × ExFlags :=
  let rs := (as.zip (List.range as.length)).map fun ai =>
    (bs.zip (List.range bs.length)).map fun bj =>
      let p := if acc then fvToF32 ((((c0[ai.2]?).getD [])[bj.2]?).getD fvPos0) else zero32 true
      dotF pass bsize p ai.1 bj.1
  (rs.map fun r => r.map (·.v), flUnion (rs.map fun r => flUnion (r.map (·.fl))))

/-- The INT32 accumulators of an integer product without block scales. -/
def productsI (as bs : List (List Fv)) (c0 : List (List Fv)) (acc : Bool) :
    List (List Int) × ExFlags :=
  let rs := (as.zip (List.range as.length)).map fun ai =>
    (bs.zip (List.range bs.length)).map fun bj =>
      let p := if acc then fvInt ((((c0[ai.2]?).getD [])[bj.2]?).getD fvPos0) else 0
      dotI p (ai.1.map fvInt) (bj.1.map fvInt)
  (rs.map fun r => r.map (·.1), flUnion (rs.map fun r => flUnion (r.map (·.2))))

/-- The results that a command names for a part of an instruction replaced by what a disturbed array delivers. -/
def disturb (u : Upset) (part : Nat) (c : List (List W32)) : List (List W32) :=
  (u.results.filter fun x => x.1 == part).foldl
    (fun m x => m.set x.2.1 (((m[x.2.1]?).getD []).set x.2.2.1 x.2.2.2)) c

/-- The value that the PEs multiply, as the sum of its pieces (R90). -/
def peValue (mode : Nat) (narrow : Bool) (v : Fv) : Fv :=
  if mode = 0 then v else (fvSum (splitPass mode narrow v)).v

/-- The floating-point residue checks of one array pass, one for each vector of `sides`: `others` are the vectors of
the other operand, which all share its check sums, `kp` is k′ and `w` the results of a check; `c0s` and `results` hold
a line for each vector of `sides` (R90, R91). -/
def residueLines (pass : PassMode) (sideIsA : Bool) (klen kp w tau : Nat) (sides others : List (List Fv))
    (c0s results : List (List W32)) : List Residue :=
  let nS := if sideIsA then pass.narrowA else pass.narrowB
  let nO := if sideIsA then pass.narrowB else pass.narrowA
  let cs := (transposeN fvPos0 klen (others.map fun l => l.map (peValue pass.mode nO))).map checkSums
  ((sides.zip results).zip (List.range sides.length)).map fun x =>
    residueGroup (if pass.mode = 2 then 2 else 0) kp w tau (x.1.1.map (peValue pass.mode nS))
      (cs.map (·.1)) (cs.map (·.2)) ((c0s[x.2]?).getD []) x.1.2

/-- The outcomes of the residue checks of a product, in order of streamed row or output column (R90 to
R92). -/
def residues (m : MInst) (tau : Nat) (as bs c0 : List (List Fv)) (cf : List (List W32))
    (ci : List (List Int)) : List Residue :=
  let ws := m.p.stat == statWS
  -- the vectors checked one by one, and the other side's vectors that share them
  let sides := if ws then as else bs
  let others := if ws then bs else as
  let colsOf {α : Type} (d : α) (l : List (List α)) : List (List α) :=
    if ws then l else transposeN d m.cols l
  let c0s := if m.p.acc then colsOf fvPos0 c0 else []
  if m.int then
    let sums := (transposeN fvPos0 m.klen others).map fun l => (l.map fvInt).foldl (· + ·) 0
    ((sides.zip (colsOf 0 ci)).zip (List.range sides.length)).map fun x =>
      residueInt (x.1.1.map fvInt) sums (((c0s[x.2]?).getD []).map fvInt) x.1.2
  else
    residueLines m.passMode ws m.klen (m.klen + b2n m.p.acc)
      (if m.p.stat == statOS then 64 else others.length) tau sides others (c0s.map fun l => l.map fvToF32)
      (colsOf (zero32 false) cf)

/-- The residue outcomes recorded: events, TILE_RESIDUE_LOG, the error bit and hard events (R92, R93,
R99, R100, 13 R397). The answer says whether a fault marks the results suspect. While MASK_REPORT is 1 every fault
writes the log, also where bit 3 of TILE_ERR_STATUS is still 1 from before: of R100's two sentences, one holds the log
then and the other writes it (DESIGN CHOICE, log 38). -/
def State.noteResidues (s : State) (t q seq : Nat) (m : MInst) : List (Residue × Nat) → State × Bool
  | [] => (s, false)
  | x :: xs =>
    match x.1 with
    | .pass => State.noteResidues s t q seq m xs
    | .skip => State.noteResidues (s.evTile 0x008 t) t q seq m xs
    | .fault =>
      let tl := s.tile t
      let mask := bit tl.residueCtl.toNat 0
      let log := BitVec.ofNat 64 (q * 2 ^ 62 + x.2 * 2 ^ 42 + m.p.pass * 2 ^ 36 + m.p.stat * 2 ^ 34
        + seq % 2 ^ 32)
      let write := mask || !bit tl.errStatus.toNat 3
      let tl1 : Tile := { tl with residueLog := if write then log else tl.residueLog
                                  errStatus := if mask then tl.errStatus else tl.errStatus ||| 8 }
      let r := State.noteResidues (((s.setTile t tl1).evTile 0x007 t).hardEvent t) t q seq m xs
      (r.1, !mask || r.2)

/-! ### Drains (R43, R52, R556, 08 R225) -/

/-- Element codes written as a packed row: the bits past the last element keep what they hold. -/
def State.writePacked (s : State) (t req a w : Nat) (codes : List Nat) : State :=
  let nb := (codes.length * w + 7) / 8
  let v := leNat (packElems w codes)
  if codes.length * w % 8 = 0 then s.storeWrite t req a (leBytes nb v)
  else
    let old := leNat (memReadBytes (s.tile t).store a nb)
    s.storeWrite t req a (leBytes nb (setFld old 0 (codes.length * w) v))

/-- Rows of codes written at a pitch. -/
def State.writeRows (t req w pitch : Nat) : Nat → List (List Nat) → State → State
  | _, [], s => s
  | a, r :: rs, s => State.writeRows t req w pitch (a + pitch) rs (s.writePacked t req a w r)

/-- Results converted into a format without block scales: codes and flags. An FP32 result without a tensor scale is
stored as it is. -/
def drainPlain (fmt : Nat) (sat : Bool) (tsc : Int) (c : List (List W32)) : List (List Nat) × ExFlags :=
  if fmt = 0 ∧ tsc = 0 then (c.map fun r => r.map (·.toNat), flNone)
  else
    let rs := c.map fun r => r.map fun v => convTo! fmt sat .nearest (fvScale tsc (decF32 v))
    (rs.map fun r => r.map (·.bits), flUnion (rs.map fun r => flUnion (r.map (·.fl))))

/-- The result written to tile store (KIND 0x0): the state, the flags, and whether it was poisoned by the
byte T. `c` holds the results as FP32, which every conversion starts from (R42); an INT32 accumulator drained to INT32
is not converted and stays `ints`. -/
def State.drainStore (s : State) (e : Env) (m : MInst) (c : List (List W32)) (ints : List (List Int)) :
    State × ExFlags × Bool :=
  let o := m.c
  let t := e.t
  let ot := s.physD e.c o.vt
  let req := if ot = t then 0 else 3
  let w := fmtWidth o.fmt
  if o.blk = 0 then
    let r : Rd := if o.tscale then s.storeRead ot (if ot = t then 1 else 2) o.saddr 1 else ⟨s, [], false⟩
    let tsc := if o.tscale then - sext 8 (recN r.bytes 0 1) else 0
    let d := if m.int && o.fmt == 9 && !o.tscale then (ints.map fun l => l.map (wrapInt 32), flNone)
      else drainPlain o.fmt m.p.sat tsc c
    let held := d.1.flatten.map fun n => fvScale (-tsc) (decAny o.fmt n)
    let s1 := if o.tscale then r.s.noteHeld e.c e.qu.step o.vt o.saddr held else r.s
    (State.writeRows ot req w o.pitch o.ea d.1 s1, d.2, r.ue)
  else
    let along := m.p.stat != statIS
    let vals := c.map fun r => r.map decF32
    let lines := if along then vals else transposeN fvPos0 m.cols vals
    let gs := lines.map fun l =>
      (chunks o.bsize l.length (l.map fun v => (v, Rounding.nearest))).map fun g => convBlock o.fmt o.fit g
    let codes0 := gs.map fun l => l.flatMap (·.elems)
    let codes := if along then codes0 else transposeN 0 m.rows codes0
    let len := o.pitch * 8 / w
    let s1 := State.writeRows ot req w o.pitch o.ea codes s
    let s2 := (gs.zip (List.range gs.length)).foldl (fun st gi =>
      (gi.1.zip (List.range gi.1.length)).foldl (fun st2 gj =>
        let k := if along then gi.2 * ceilDiv len o.bsize + gj.2 else gj.2 * len + gi.2
        st2.storeWrite ot req (o.saddr + k) (leBytes 1 gj.1.scale)) st) s1
    let sats := (gs.map fun l => (l.map (·.sats)).foldl (· + ·) 0).foldl (· + ·) 0
    (if sats = 0 then s2 else s2.evTile 0x009 t sats, flUnion (gs.map fun l => flUnion (l.map (·.fl))), false)

/-- The fragments of a drain to KIND 0x2 (08 R225): consecutive indices, 64 rows each, elements that the
instruction does not produce −0. -/
def State.makeFrags (s : State) (e : Env) (m : MInst) (raw : List (List W32)) (suspect : Bool) :
    List Fragment :=
  let exp := ((s.tensor e.c m.c.tid).map (·.expect)).getD 1
  let job := (s.ctx e.c).job
  let rank := ((s.smap e.c).bind fun mp => mp.rankOf s.fab.devid).getD 0
  let row (i : Nat) : List W32 :=
    let r := (raw[i]?).getD []
    r ++ List.replicate (128 - r.length) (zero32 true)
  (List.range (ceilDiv m.rows 64)).map fun k =>
    { tid := m.c.tid, fidx := (m.c.fbase + k) % 2 ^ 32, mstone := e.qu.step, expect := exp, contrib := 1,
      srank := rank, epoch := (job.map (·.epoch)).getD 0, suspect := suspect,
      elems := (upTo (64 * k) 64).flatMap row }

/-! ### Taps (06 R163 to R165) -/

/-- The elements of the sample latch (06 R162). -/
def latchSize : Nat := 32768

/-- The samples that a tapped side presents: sample `j` is taken when `j mod s = 0`, with its features as BF16
(06 R164, R165). -/
def takeSamples (slot first s : Nat) (samples : List (List Fv)) : List TapSample :=
  ((samples.zip (List.range samples.length)).filter fun p => p.2 % s == 0).map fun p =>
    ⟨slot, first, p.1.map fun v => fvToF32 (toBf16 v)⟩

/-- A taken sample put into the latch; where it finds no room, its feeder holds until the tap array has finished enough
earlier panel updates (06 R181, R182). -/
def TileCtx.latchSample (tc : TileCtx) (x : TapSample) : TileCtx :=
  let tc1 := tc.tapUntil (latchSize - x.vals.length) tc.latch.length
  { tc1 with latch := tc1.latch ++ [x] }

/-- Samples put into the latch of the tile for a slot, unless it is unbound or the taps are suspended
(06 R165, R169, R183): the state, and the slot where it took a sample. `cuts` gives the samples of each segment of a
side with a root: those of a segment come after the panel updates of the one before (06 R182). -/
def State.tapSide (s : State) (e : Env) (slot : Nat) (rooted : Bool) (cuts : List Nat)
    (samples : List (List Fv)) : State × List Nat :=
  let tc := s.tc e.c e.v
  let sl := tc.slot slot
  if !sl.bound || (s.tile e.t).tapSuspend then (s, [])
  else
    let step := 2 ^ sl.log2s
    let xs := takeSamples slot (if rooted then 0 else 64 * sl.foff) step samples
    let sl1 : TapSlot := { sl with samples := satInc 32 sl.samples xs.length, step := some e.qu.step }
    let firsts := (List.range cuts.length).map fun i => ceilDiv ((cuts.take i).foldl (· + ·) 0) step
    let tc1 := (xs.zip (List.range xs.length)).foldl (fun t x =>
      (if x.2 != 0 && firsts.contains x.2 then t.tapAll else t).latchSample x.1) (tc.setSlot slot sl1)
    ((s.setTc e.c e.v tc1).evTile 0x00F e.t xs.length, if xs.isEmpty then [] else [slot])

/-- A slot that took a sample of a poisoned instruction, or of one whose fragments are suspect, is suspect (06 R176). -/
def State.suspectSlots (s : State) (c v : Nat) (slots : List Nat) : State :=
  slots.foldl (fun st k =>
    let tc := st.tc c v
    let sl := tc.slot k
    if sl.bound then st.setTc c v (tc.setSlot k { sl with suspect := true }) else st) s

/-- A word of the tap store or the latch that belongs to a slot the instruction taps is bad: corrected and counted as
R106 counts (DESIGN CHOICE, log 28), or the slot is suspect, the tap bit is set and TAP_STORE_UE counts (13 R393). -/
def State.tapWord (s : State) (e : Env) (slots : List Nat) (x : Nat × Bool) : State :=
  if !slots.contains x.1 then s
  else if !x.2 then s.evTile 0x00B e.t
  else
    let s1 := s.suspectSlots e.c e.v [x.1]
    let tl := s1.tile e.t
    ((s1.setTile e.t { tl with errStatus := tl.errStatus ||| 32 }).evTile 0x012 e.t).hardEvent e.t

/-- The slots that an instruction names. -/
def MPay.slots (p : MPay) : List Nat := (if p.tapA then [p.slA] else []) ++ (if p.tapB then [p.slB] else [])

/-- Zeros up to a length. -/
def padFv (n : Nat) (l : List Fv) : List Fv := l ++ List.replicate (n - l.length) fvPos0

/-! ### Running an instruction on the array -/

/-- The instruction of an in-flight record. -/
def MWork.inst (w : MWork) (op : Nat) : MInst :=
  let o (k : Nat) : Opd := let d := (w.descs[k]?).getD (0, 0); ⟨d.1, d.2⟩
  ⟨mpay (fld w.word.toNat 0 88), o 0, o 1, o 2, o 3, if op = 1 then some w.pre else none⟩

/-- The place of an instruction in flight. -/
def State.envOf (s : State) (f : Flight) (w : MWork) : Env :=
  ⟨s.physD f.ctx f.vt, f.queue, f.ctx, f.vt, { seq := f.seq, seq0 := f.seq - f.num, step := f.step }, w.word.toNat⟩

/-- Where a fragment's sender is recorded. -/
def Flight.who (f : Flight) : Nat × Nat × Nat := (f.vt, f.queue, f.seq)

/-- The in-flight record of an instruction replaced. -/
def State.setFlight (s : State) (f g : Flight) : State :=
  { s with flight := s.flight.map fun x => if x == f then g else x }

/-- What a product delivers: INT32 accumulators where it is an integer one, else FP32, with its flags (R38, R50). -/
def MInst.accumulators (m : MInst) (upset : Upset) (av bv c0 : List (List Fv)) :
    List (List W32) × List (List Int) × ExFlags :=
  if m.int then
    let p := productsI av bv c0 m.p.acc
    let c := disturb upset 0 (p.1.map fun r => r.map fun i => BitVec.ofInt 32 i)
    let ints := c.map fun r => r.map fun x => sext 32 x.toNat
    (ints.map fun r => r.map intToF32, ints, p.2)
  else
    let p := products m.passMode m.bsize av bv c0 m.p.acc
    (disturb upset 0 p.1, [], p.2)

/-- The tiles that receive words of the instruction's operands or results over the mesh (13 R393). -/
def State.meshTiles (s : State) (e : Env) (m : MInst) : List Nat :=
  let far (o : Opd) : Bool := o.kind == 0 && s.physD e.c o.vt != e.t
  (if far m.a || far m.b || (m.p.acc && far m.c0) then [e.t] else [])
    ++ (if m.c.kind == 2 then (s.ctx e.c).map else if far m.c then [s.physD e.c m.c.vt] else [])

/-- The bad mesh words that a command names for tiles that receive words here: the state, and whether one is
uncorrectable and so is handled as R106 handles a tile-store word (13 R393). -/
def State.meshWords (s : State) (tiles : List Nat) (l : List (Nat × Bool)) : State × Bool :=
  let hit := l.filter fun x => tiles.contains x.1
  (hit.foldl (fun st x => st.meshWord x.1 x.2) s, hit.any (·.2))

/-- The gradient product or the plain product: operands as vectors along the reduction, c₀ read, results
drained, checked and sent (R74, R90 to R93, 08 R225). What an earlier stage has poisoned or made suspect stays so. -/
def State.product (s : State) (e : Env) (f : Flight) (w : MWork) (m : MInst) (av bv : FlM) (ue0 : Bool)
    (upset : Upset) : State :=
  let c0 : MatRd := if m.p.acc then s.readMat e m.c0 m.rows m.cols (m.p.stat != statIS) w.rowsC
    else ⟨s, [], false⟩
  let mesh := c0.s.meshWords (s.meshTiles e m) upset.mesh
  let ue := f.poison || ue0 || c0.ue || mesh.2
  let x := m.accumulators upset av.m bv.m c0.m
  let tau := fld (s.tile e.t).residueCtl.toNat 4 4
  let rs := residues m tau av.m bv.m c0.m x.1 x.2.1
  let n := mesh.1.noteResidues e.t e.q e.qu.num m (rs.zip (List.range rs.length))
  let sats := av.sats + bv.sats
  let s1 := if sats = 0 then n.1 else n.1.evTile 0x009 e.t sats
  let s2 := (upset.taps.foldl (fun st y => st.tapWord e m.p.slots y) s1)
  let sn := flIf (c0.m.any fun l => l.any fvIsSNaN) flInvalid
  let fl0 := f.flags ||| av.fl ||| bv.fl ||| sn ||| x.2.2
  let suspect := f.suspect || ue || n.2
  if m.c.kind = 2 then
    let fs := s2.makeFrags e m x.1 suspect
    let g : Flight := { f with work := .done, flags := fl0, poison := ue, suspect := suspect, frags := fs.length }
    let s3 := (s2.setFlight f g).suspectSlots e.c e.v (if suspect then f.sampled else [])
    fs.foldl (fun st y => st.sendFragment e.c (some f.who) y) s3
  else
    let d := s2.drainStore e m x.1 x.2.1
    let poison := ue || d.2.2
    let g : Flight := { f with work := .done, flags := fl0 ||| d.2.1, poison := poison
                               suspect := suspect || poison }
    (d.1.setFlight f g).suspectSlots e.c e.v (if poison then f.sampled else [])

/-- The slots that the instruction names and that are not bound, each counted once (06 R169). -/
def State.tapUnbound (s : State) (e : Env) (m : MInst) : State :=
  m.p.slots.eraseDups.foldl (fun st k => if ((st.tc e.c e.v).slot k).bound then st else st.evTile 0x020 e.t) s

/-- The samples that the plain operands of an instruction present (Table 6.1), and the slots that took one. Where
TAPA and TAPB name the same slot, the spec gives no order between the two sides: A's samples come first (DESIGN CHOICE,
log 39). -/
def State.tapPlain (s : State) (e : Env) (m : MInst) (av bv : FlM) : State × List Nat :=
  let a := if m.p.tapA && !m.rootA then
      s.tapSide e m.p.slA false []
        (if m.p.stat = statWS then av.m.map (padFv (64 * m.r)) else transposeN fvPos0 m.klen av.m)
    else (s, [])
  let b := if m.p.tapB && !m.rootB then
      a.1.tapSide e m.p.slB false []
        (if m.p.stat = statIS then bv.m.map (padFv (64 * m.r)) else transposeN fvPos0 m.klen bv.m)
    else (a.1, [])
  (b.1, a.2 ++ b.2)

/-- Operand A as its rows, operand B as its columns, along the reduction. -/
def State.operandA (s : State) (e : Env) (m : MInst) (streamed : List Bytes) : MatRd × FlM :=
  let r := s.readMat e m.a m.rows m.klen true streamed
  (r, takeOperand m.p.pass m.a m.effA r.m)
def State.operandB (s : State) (e : Env) (m : MInst) (streamed : List Bytes) : MatRd × FlM :=
  let r := s.readMat e m.b m.klen m.cols false streamed
  (r, takeOperand m.p.pass m.b m.effB (transposeN fvPos0 m.cols r.m))

/-- The plain operands sampled and multiplied. -/
def State.sampleAndMultiply (s : State) (e : Env) (f : Flight) (w : MWork) (m : MInst) (a b : FlM) (ue : Bool)
    (upset : Upset) : State :=
  let t := s.tapPlain e m a b
  let g : Flight := { f with sampled := f.sampled ++ t.2 }
  (t.1.setFlight f g).product e g w m a b ue upset

/-- An MMA run. -/
def State.runMma (s : State) (f : Flight) (w : MWork) (upset : Upset) : State :=
  let e := s.envOf f w
  let m := w.inst 0
  let a := (s.tapUnbound e m).operandA e m w.rowsA
  let b := a.1.s.operandB e m w.rowsB
  b.1.s.sampleAndMultiply e f w m a.2 b.2 (a.1.ue || b.1.ue) upset

/-! ### Root products and share groups (R85 to R88) -/

/-- The share rows of each segment that this tile computes. -/
def MInst.shareCounts (m : MInst) (v : Nat) (p : Pre) : List Nat :=
  m.segs.map fun g => m.perRow * shareRows g p.gsz ((p.memberOf v).getD 0)

/-- The raw rows of a side with a root: the member's share rows of every segment, each segment read from
row 0 of the descriptor, or in arrival order from a stream (R142; DEDUCED, log 32). -/
def State.rawRows (s : State) (e : Env) (m : MInst) (o : Opd) (p : Pre) (streamed : List Bytes) :
    MatRd :=
  let counts := m.shareCounts e.v p
  if o.kind = 1 then s.readMat e o (counts.foldl (· + ·) 0) p.b true streamed
  else counts.foldl (fun acc n =>
    let r := acc.s.readMat e o n p.b true []
    ⟨r.s, acc.m ++ r.m, acc.ue || r.ue⟩) ⟨s, [], false⟩

/-- A root slice: `b` rows of `cols` elements in its format, read as its columns. -/
def State.rootSlice (s : State) (t : Nat) (p : Pre) (cols : Nat) : RowRd × List (List Fv) :=
  let r := readRows t 1 (2 * cols) (2 * cols) p.b p.root s
  (r, transposeN fvPos0 cols (r.rows.map fun b => (unpackElems 16 cols b).map (decElem p.fmt)))

/-- The streamed-row numbers, in the whole instruction, of the rows of member `i`'s shares. -/
def shareRowIds (per g : Nat) (i n : Nat) : List Nat → List Nat
  | [] => []
  | c :: cs =>
    let before := ((List.range i).map fun k => per * shareRows c n k).foldl (· + ·) 0
    upTo (g + before) (per * shareRows c n i) ++ shareRowIds per (g + per * c) i n cs

/-- The rounding of an element of a preconditioned row: site 0 for dY under PASS1, else to nearest (R86). The key is
that of 02 R57 for the job seed and the step, with ordinal 0; the tensor id and the element index of 02 R58 are free
values of the instruction and the element's place, since an MMAP names no tensor (DESIGN CHOICE, log 33). -/
def State.site0 (s : State) (e : Env) (w : MWork) (dy : Bool) (row col : Nat) : Rounding :=
  if dy then
    let who := [e.v, w.word.toNat, w.pre] ++ w.descs.flatMap fun d => [d.1, d.2]
    .stochastic (srBits (srKey (s.ctx e.c).jobSeed (Config.site0Tensor who) e.qu.step)
      (Config.site0Element who row col) 0 0)
  else .nearest

/-- One array pass of the root products: 64 block columns of the rows by the root slice, added to the results of the
passes before (R85, R86), with the residue check of a WS product for each row (R90). -/
def rootPass (pm : PassMode) (bs cols tau : Nat) (u : Upset) (part : Nat) (last : Bool) (acc : Bool)
    (x rt : List (List Fv)) (prior : List (List W32)) : List (List W32) × ExFlags × List Residue :=
  let p := products pm bs x rt (prior.map fun r => r.map decF32) acc
  let c := if last then disturb u part p.1 else p.1
  (c, p.2, residueLines pm true 64 (64 + b2n acc) cols tau x rt (if acc then prior else []) c)

/-- The root products of a side over the whole factor block, 64 block columns a pass: results, flags, and the checks
that did not pass with the row of each. -/
def rootPasses (pm : PassMode) (bs cols tau : Nat) (u : Upset) (part : Nat) (x rt : List (List Fv)) (b : Nat) :
    List (List W32) × ExFlags × List (Residue × Nat) :=
  (List.range (b / 64)).foldl (fun acc k =>
    let cut (l : List Fv) : List Fv := (l.drop (64 * k)).take 64
    let r := rootPass pm bs cols tau u part (decide (k + 1 = b / 64)) (decide (0 < k))
      (x.map cut) (rt.map cut) acc.1
    (r.1, acc.2.1 ||| r.2.1, acc.2.2 ++ r.2.2.zip (List.range r.2.2.length))) ([], flNone, [])

/-- A line of results converted into blocks of `bs`: each code with the scale code of its block, the flags and the
saturations (02 R47). -/
def convScaled (fmt bs : Nat) (fit : Bool) (l : List (Fv × Rounding)) : List (Nat × Nat) × ExFlags × Nat :=
  let gs := (chunks bs l.length l).map fun g => convBlock fmt fit g
  (gs.flatMap fun g => g.elems.map fun n => (n, g.scale), flUnion (gs.map (·.fl)),
    (gs.map (·.sats)).foldl (· + ·) 0)

/-- The preconditioned rows of one segment's share as the ring holds them: FP32 under PASS2 and PASS3, else in the
gradient product's input format (R86). Where that format is block-scaled, the blocks run along the gradient product's
reduction over the rows of this share, or along a row in WS and IS, and each code keeps the scale of its block; the
spec gives a staged row no place for scales (DESIGN CHOICE, log 36). -/
def MInst.stageShare (m : MInst) (fit : Bool) (eff : Nat × Nat) (cols : Nat) (rd : Nat → Nat → Rounding)
    (ids : List Nat) (rows : List (List W32)) : List (List (Nat × Nat)) × ExFlags × Nat :=
  let xs := (rows.zip ids).map fun ri => (ri.1.zip (List.range cols)).map fun vj => (decF32 vj.1, rd ri.2 vj.2)
  if m.p.pass != 0 then (rows.map fun r => r.map fun v => (v.toNat, 0), flNone, 0)
  else if eff.2 = 0 then
    let rs := xs.map fun r => r.map fun y => convTo! eff.1 m.p.sat y.2 y.1
    (rs.map fun r => r.map fun y => (y.bits, 0), flUnion (rs.map fun r => flUnion (r.map (·.fl))), 0)
  else
    let os := m.p.stat == statOS
    let lines := if os then transposeN (fvPos0, Rounding.nearest) cols xs else xs
    let cs := lines.map (convScaled eff.1 eff.2 fit)
    let codes := cs.map (·.1)
    (if os then transposeN (0, 127) rows.length codes else codes, flUnion (cs.map (·.2.1)),
      (cs.map (·.2.2)).foldl (· + ·) 0)

/-- A list cut at the given lengths. -/
def cutAt {α : Type} : List Nat → List α → List (List α)
  | [], _ => []
  | n :: ns, l => l.take n :: cutAt ns (l.drop n)

/-- What the root products of a side leave: the state, the rows of its shares, the in-flight record with flags, poison,
suspicion and sampled slots. -/
structure RootRun where
  s : State
  rows : List (List (Nat × Nat))
  f : Flight

/-- The preconditioned rows of one side (0 A, 1 B): the raw rows, converted where they are FP32 under PASS1 into the
format of the instruction's other operand with its block size (R60, which speaks of the instruction and not of its root
products; DESIGN CHOICE, log 36), sampled by the taps (R89), multiplied by the root slice in FP32 over the factor block,
checked (R90), and converted as the drain converts them (R86). -/
def State.rootProducts (s : State) (e : Env) (f : Flight) (w : MWork) (m : MInst) (side : Nat) (upset : Upset) :
    RootRun :=
  let isA := side == 0
  let p := if isA then preA w.pre else preB w.pre
  let o := if isA then m.a else m.b
  let eff := if isA then m.effA else m.effB
  let cols := m.sliceCols side
  let counts := m.shareCounts e.v p
  let raw := s.rawRows e m o p (if isA then w.rowsA else w.rowsB)
  let x := takeOperand m.p.pass o eff raw.m
  let tapped := if isA then m.p.tapA else m.p.tapB
  let t := if tapped then raw.s.tapSide e (if isA then m.p.slA else m.p.slB) true counts x.m else (raw.s, [])
  let rt := t.1.rootSlice e.t p cols
  let tau := fld (rt.1.s.tile e.t).residueCtl.toNat 4 4
  let r := rootPasses ⟨m.p.pass, o.fmt == 1, p.fmt == 1⟩ (if m.p.pass = 0 then eff.2 else 0) cols tau upset
    (side + 1) x.m rt.2 p.b
  let n := rt.1.s.noteResidues e.t e.q e.qu.num m r.2.2
  let dy := m.p.pass == 0 && (if isA then !preDyB w.pre else preDyB w.pre)
  let ids := shareRowIds m.perRow 0 ((p.memberOf e.v).getD 0) p.gsz m.segs
  let st := ((cutAt counts r.1).zip (cutAt counts ids)).map fun y =>
    m.stageShare o.fit eff cols (s.site0 e w dy) y.2 y.1
  let sats := x.sats + (st.map (·.2.2)).foldl (· + ·) 0
  let ue := raw.ue || rt.1.ue
  let g : Flight := { f with flags := f.flags ||| x.fl ||| r.2.1 ||| flUnion (st.map (·.2.1))
                             poison := f.poison || ue, suspect := f.suspect || ue || n.2
                             sampled := f.sampled ++ t.2 }
  ⟨(if sats = 0 then n.1 else n.1.evTile 0x009 e.t sats).setFlight f g, st.flatMap (·.1), g⟩

/-- A share multicast to every member of its group (R88). -/
def State.multicastShare (s : State) (e : Env) (p : Pre) (side : Nat) (rows : List (List (Nat × Nat))) : State :=
  p.members.foldl (fun st v =>
    let tc := st.tc e.c v
    st.setTc e.c v { tc with shares := tc.shares ++ [⟨side, e.v, rows⟩] }) s

/-- The root products and the share of one side, where it has a root. -/
def State.runShare (s : State) (e : Env) (f : Flight) (w : MWork) (m : MInst) (side : Nat) (upset : Upset) :
    State × Flight :=
  let p := if side = 0 then preA w.pre else preB w.pre
  if p.en then
    let r := s.rootProducts e f w m side upset
    (r.s.multicastShare e p side r.rows, r.f)
  else (s, f)

/-- The first stage of an MMAP: the root products of its sides and their shares (R85, R88). -/
def State.runShares (s : State) (f : Flight) (w : MWork) (upset : Upset) : State :=
  let e := s.envOf f w
  let m := w.inst 1
  let a := (s.tapUnbound e m).runShare e f w m 0 upset
  let b := a.1.runShare e a.2 w m 1 upset
  b.1.setFlight b.2 { b.2 with work := .matrix { w with shared := true } }

/-- The share of each member that has arrived for a side. -/
def TileCtx.sharesOf (tc : TileCtx) (side : Nat) (p : Pre) : Option (List Share) :=
  p.members.mapM fun v => tc.shares.find? fun x => x.side == side && x.sender == v

/-- The rows of the segments put together from the members' shares, segment by segment. -/
def gatherShares {α : Type} (per : Nat) (p : Pre) : List Nat → List (List α) → List (List α)
  | [], _ => []
  | g :: gs, rows =>
    let cnt (i : Nat) : Nat := per * shareRows g p.gsz i
    let here := (rows.zip (List.range rows.length)).flatMap fun x => x.1.take (cnt x.2)
    let rest := (rows.zip (List.range rows.length)).map fun x => x.1.drop (cnt x.2)
    here :: gatherShares per p gs rest

/-- The staging ring written, segment by segment into its two slots (R87). -/
def State.writeRing (s : State) (t : Nat) (p : Pre) (w row slot : Nat) (segs : List (List (List Nat))) : State :=
  (segs.zip (List.range segs.length)).foldl (fun st x =>
    State.writeRows t 0 w row (p.ring + x.2 % 2 * slot) x.1 st) s

/-- The preconditioned operand of a side from the shares of its group, as its vectors along the reduction,
with the ring written; none while a share is missing. -/
def State.ringOperand (s : State) (e : Env) (w : MWork) (m : MInst) (side : Nat) : Option (State × FlM) :=
  let p := if side = 0 then preA w.pre else preB w.pre
  let eff := if side = 0 then m.effA else m.effB
  let tc := s.tc e.c e.v
  match tc.sharesOf side p with
  | none => none
  | some xs =>
    let segs := gatherShares m.perRow p m.segs (xs.map (·.rows))
    let width := if m.p.pass = 0 then fmtWidth eff.1 else 32
    let value (y : Nat × Nat) : Fv :=
      if m.p.pass != 0 then decF32 (BitVec.ofNat 32 y.1)
      else if eff.2 = 0 then decElem eff.1 y.1 else blockElem eff.1 y.2 y.1
    let rest := xs.foldl (fun l x => l.erase x) tc.shares
    let s1 := (s.setTc e.c e.v { tc with shares := rest }).writeRing e.t p width (m.ringRow side eff.1)
      (m.ringSlot side eff.1 (preSeg w.pre)) (segs.map fun g => g.map fun r => r.map (·.1))
    let rows := segs.flatten.map fun r => r.map value
    some (s1, ⟨if m.p.stat = statOS then transposeN fvPos0 (m.sliceCols side) rows else rows, flNone, 0⟩)

/-- The second stage of an MMAP: the gradient product, once every share of its rooted sides has arrived
(R85, R88); the state unchanged while one is missing. -/
def State.runGradient (s : State) (f : Flight) (w : MWork) (upset : Upset) : State :=
  let e := s.envOf f w
  let m := w.inst 1
  let a := if m.rootA then (s.ringOperand e w m 0).map fun x => (x.1, x.2, false)
    else
      let o := s.operandA e m w.rowsA
      some (o.1.s, o.2, o.1.ue)
  match a with
  | none => s
  | some xa =>
    let b := if m.rootB then (xa.1.ringOperand e w m 1).map fun x => (x.1, x.2, false)
      else
        let o := xa.1.operandB e m w.rowsB
        some (o.1.s, o.2, o.1.ue)
    match b with
    | none => s
    | some xb => xb.1.sampleAndMultiply e f w m xa.2.1 xb.2.1 (xa.2.2 || xb.2.2) upset

/-! ### The array's turn -/

/-- The stream rows that an operand or the prior value takes in all. -/
def MInst.needA (m : MInst) (v : Nat) : Nat :=
  if m.a.kind != 1 then 0
  else if m.rootA then (m.shareCounts v (preA (m.pre.getD 0))).foldl (· + ·) 0 else m.rows
def MInst.needB (m : MInst) (v : Nat) : Nat :=
  if m.b.kind != 1 then 0
  else if m.rootB then (m.shareCounts v (preB (m.pre.getD 0))).foldl (· + ·) 0 else m.klen
def MInst.needC (m : MInst) : Nat := if m.p.acc && m.c0.kind == 1 then m.rows else 0

/-- Ring rows taken from a stream, at most `n`: their bytes, and the stream closed when every row has been
consumed (09 R288); the sender hears of the rows that are free again. -/
def State.takeRows (s : State) (e : Env) (o : Opd) (n : Nat) : State × List Bytes × Bool :=
  match Tbl.find s.fab.streams o.flow with
  | none => (s, [], false)
  | some x =>
    let k := min n (x.done - x.freed)
    let t := s.physD x.ctx x.vt
    let r := (List.range k).foldl (fun acc i =>
      let rd := acc.1.storeRead t (if t = e.t then 1 else 2) (x.addr + (x.freed + i) % x.depth * x.unit) x.unit
      (rd.s, acc.2.1 ++ [rd.bytes], acc.2.2 || rd.ue)) (s, [], false)
    let y : Stream := { x with freed := x.freed + k }
    let tb := if y.rows ≤ y.freed then Tbl.erase r.1.fab.streams o.flow
      else Tbl.set r.1.fab.streams o.flow y
    let s1 : State := { r.1 with fab := { r.1.fab with streams := tb } }
    let due := min x.rows (x.depth + y.freed) - min x.rows (x.depth + x.freed)
    (if due = 0 then s1 else s1.reportRing e.c x.peer o.flow due 0, r.2.1, r.2.2)

/-- No earlier matrix instruction of the tile is still on its array. -/
def State.firstOnArray (s : State) (f : Flight) : Bool :=
  let t := s.physD f.ctx f.vt
  match s.flight.find? fun g => s.physD g.ctx g.vt == t && (match g.work with
      | .matrix _ => true
      | _ => false) with
  | some g => g == f
  | none => false

/-- Rows of an operand taken from its stream, toward `need` of which `have_` are in. -/
def State.takeFor (s : State) (e : Env) (o : Opd) (need have_ : Nat) : State × List Bytes × Bool :=
  if need ≤ have_ then (s, [], false) else s.takeRows e o (need - have_)

/-- One matrix instruction advanced: it takes the stream rows that have come, runs its root products once,
and runs its product when nothing is missing. -/
def State.advanceMatrix (s : State) (f : Flight) (w : MWork) (upset : Upset) : State :=
  let e := s.envOf f w
  let m := w.inst f.op
  let ra := s.takeFor e m.a (m.needA e.v) w.rowsA.length
  let rb := ra.1.takeFor e m.b (m.needB e.v) w.rowsB.length
  let rc := rb.1.takeFor e m.c0 m.needC w.rowsC.length
  let w1 : MWork := { w with rowsA := w.rowsA ++ ra.2.1, rowsB := w.rowsB ++ rb.2.1, rowsC := w.rowsC ++ rc.2.1 }
  let f1 : Flight := { f with work := .matrix w1, poison := f.poison || ra.2.2 || rb.2.2 || rc.2.2 }
  let s1 := rc.1.setFlight f f1
  if w1.rowsA.length < m.needA e.v ∨ w1.rowsB.length < m.needB e.v ∨ w1.rowsC.length < m.needC then s1
  else if f.op = 0 then s1.runMma f1 w1 upset
  else
    let s2 := if w1.shared then s1 else s1.runShares f1 w1 upset
    match s2.flight.find? fun g => g.ofQueue f.ctx f.vt f.queue && g.seq == f.seq with
    | some g => match g.work with
      | .matrix w2 => s2.runGradient g w2 upset
      | _ => s2
    | none => s2

/-- Every array given its turns; `fuel` bounds them. -/
def State.pumpMatrix (upset : Upset) : Nat → State → State
  | 0, s => s
  | k + 1, s =>
    let next := s.flight.filterMap fun f => match f.work with
      | .matrix w => if s.firstOnArray f then some (f, w) else none
      | _ => none
    let s1 := next.foldl (fun st fw => st.advanceMatrix fw.1 fw.2 upset) s
    if s1 == s then s else State.pumpMatrix upset k s1

/-- The arrays run as far as they can. -/
def State.runArrays (s : State) (upset : Upset := {}) : State :=
  State.pumpMatrix upset (2 * s.flight.length + 1) s

/-! ### Issue -/

/-- A tap slot that the instruction names is not sealed for an earlier step: it still holds samples of one, an
instruction of an earlier step that names it has not completed, or the tile has still to arrive at the Milestone that
ends that step, when it seals every bound slot (06 R170, R173, Table 6.11). -/
def State.slotBusy (s : State) (e : Env) (k : Nat) : Bool :=
  let tc := s.tc e.c e.v
  let sl := tc.slot k
  sl.bound && ((match sl.step with
      | some n => n != e.qu.step
      | none => false)
    || (s.flight.any fun g => g.ctx == e.c && g.vt == e.v && g.slots.contains k && decide (g.step < e.qu.step))
    || decide (tc.arrivedAt.getD (s.ctx e.c).mstone < e.qu.step))

/-- The matrix instruction that a payload names: its operands from the operand table, and the entry of the
precondition table of an MMAP (Table 5.6). -/
def Env.matrixInst (e : Env) (tc : TileCtx) (op : Nat) : MInst :=
  let p := mpay e.pl
  let o (k : Nat) : Opd := opdOf tc e.qu ((p.d[k]?).getD 0)
  ⟨p, o 0, o 1, o 2, o 3, if op = 1 then some (Tbl.get 0 tc.preTab p.pd).toNat else none⟩

/-- What the array is to do for it: the word, the entry, and the four operand entries with their index
registers as they were at issue. -/
def Env.matrixWork (e : Env) (tc : TileCtx) (op : Nat) : MWork :=
  let m := e.matrixInst tc op
  { word := BitVec.ofNat 128 e.w, pre := (Tbl.get 0 tc.preTab m.p.pd).toNat
    descs := [(m.a.d, m.a.idx), (m.b.d, m.b.idx), (m.c.d, m.c.idx), (m.c0.d, m.c0.idx)] }

/-- A matrix payload whose encoding is bad by itself (R143, Table 5.6). -/
def MPay.bad (p : MPay) (op : Nat) : Bool :=
  p.res != 0 || p.pass == 3 || p.stat == 3 || (op == 0 && p.pd != 0)
    || (p.stat == statOS && (p.klen != 0 || p.ncol != 0))

/-- A descriptor that a matrix instruction names is invalid (R141, R142). -/
def MInst.badDescriptor (m : MInst) : Bool :=
  m.named.any (fun x => !opdOk x.d) || !preOk (m.pre.getD 0)

/-- A matrix instruction at issue: its checks in the order of encoding, descriptors, combinations and
addresses (R131, R141 to R144); the array then runs it. -/
def bodyMatrix (op : Nat) (e : Env) (s : State) : Act :=
  let tc := s.tc e.c e.v
  let m := e.matrixInst tc op
  Act.when (m.p.bad op) xInvalid <|
  Act.when m.badDescriptor xDescriptor <|
  Act.when (badCombo m (s.ctx e.c).classW (s.minor e) e.v
    fun k => if (tc.slot k).bound then some (tc.slot k).log2s else none) xInvalid <|
  Act.when (s.badAccess e m) xAccess <|
  if m.p.slots.any (s.slotBusy e) then .wait .unit
  else .go s (fun f => { f with work := .matrix (e.matrixWork tc op), slots := m.p.slots }) Queue.advance

/-- MMA (R143). The command may name physical upsets that strike the arrays that run now (03 R90 to R93, 13 R393). -/
def execMma (i : Issue) (upset : Upset) (s : State) : Res :=
  .next ((s.issue 0 0 i (bodyMatrix 0)).runArrays upset)

/-- MMAP (R143, 03 R85). -/
def execMmap (i : Issue) (upset : Upset) (s : State) : Res :=
  .next ((s.issue 0 1 i (bodyMatrix 1)).runArrays upset)

/-! ### Current shaping (03 R94 to R98) -/

/-- LEVEL_WINDOW_END: the level rises, falls or stays (R94), and a written TILE_SHAPE_CTL takes effect (R97). The
command says whether an instruction ran with rows to perform in the window, for how many core cycles the array has had
no real work, and how many dummy operations ran in the window. The decision at the boundary where a written
TILE_SHAPE_CTL takes effect still uses the old FLOOR (DESIGN CHOICE, log 44). -/
def execLevelWindowEnd (t : Nat) (ran : Bool) (idle dummies : Nat) (s : State) : Res :=
  let x := s.tile t
  if !x.runs then .next s
  else
    let floor := fld x.shapeCtl.toNat 8 4
    let level := if ran && decide (x.level < 16) then x.level + 1
      else if decide (256 < idle) && decide (floor < x.level) then x.level - 1 else x.level
    .next (s.setTile t { x with
      level := level
      dummy := (x.dummy + dummies) % 2 ^ 32
      gap := min idle 0xFFFF
      filling := decide (0 < idle) && decide (0 < level)
      ramping := ran && decide (level < 16)
      shapeCtl := x.shapePend.getD x.shapeCtl
      shapePend := none })

end Sys2Proof.Machine
end

