-- ==== Sys2Proof/Machine/Taps.lean ====
section
/-! DEFINITION. Curvature taps: slots and panels, samples, sealing, the collection of sub-tiles, the fold,
and the marking of dirty blocks (06_curvature_taps R162 to R187). -/

namespace Sys2Proof.Machine

/-! ### Factor records (06 R171, R172, Tables 6.3 and 6.4) -/

/-- The factor record of FID, none when it does not exist. -/
def State.factor (s : State) (c fid : Nat) : Option Bytes :=
  if fid = 0 then none
  else match s.peek c ((s.ctx c).frt + 64 * fid) 64 with
    | some b => if recN b 0 3 = fid then some b else none
    | none => none

def facSide (b : Bytes) : Nat := fld (recN b 0 4) 24 1
def facDim (b : Bytes) : Nat := recN b 4 4
def facB (b : Bytes) : Nat := 64 * (recN b 8 1 + 1)
def facForce (b : Bytes) : Bool := bit (recN b 9 1) 0
def facFreeze (b : Bytes) : Bool := bit (recN b 9 1) 1
def facHome (b : Bytes) : Nat := recN b 10 2
def facEng (b : Bytes) : Nat := recN b 12 1
def facDecay (b : Bytes) : W32 := BitVec.ofNat 32 (recN b 16 4)
def facTau (b : Bytes) : W32 := BitVec.ofNat 32 (recN b 20 4)
def facAddr (b : Bytes) : Nat := recN b 24 8
def facState (b : Bytes) : Nat := recN b 32 8
/-- The number of blocks. -/
def facBlocks (b : Bytes) : Nat := ceilDiv (facDim b) (facB b)
/-- The size of block `k`. -/
def facSize (b : Bytes) (k : Nat) : Nat := min ((k + 1) * facB b) (facDim b) - k * facB b
/-- The address of block `k` (R171). -/
def facBlockAddr (b : Bytes) (k : Nat) : Nat := facAddr b + 2 * k * facB b ^ 2

/-! ### Slots (R145, R167 to R169) -/

/-- The cases of R168. -/
def State.badTcfg (s : State) (e : Env) (k : Nat) (x : TapSlot) : Bool :=
  if !x.bound then false
  else match s.factor e.c x.fid with
    | none => true
    | some f =>
      let row := 64 * x.boff
      let blk := row / facB f
      let lim := 32 * ceilDiv (facSize f blk) 32
      let tc := s.tc e.c e.v
      x.side != facSide f || row % facB f != 0 || decide (facDim f ≤ row)
        || decide (lim < 32 * (x.pr0 + x.pnr + 1)) || decide (lim < 32 * (x.pc0 + x.pnc + 1))
        || decide (64 < x.tpage + x.tiles)
        || (List.range 16).any fun j =>
            let y := tc.slot j
            j != k && y.bound && x.pages.any fun p => y.pages.contains p

/-- TCFG (R145, R167 to R169): its binding takes effect, and it completes, once the matrix instructions in
flight that name the slot have completed. -/
def bodyTcfg (e : Env) (s : State) : Act :=
  let k := fld e.pl 84 4
  let x := tcfgSlot e.pl
  Act.when (s.minor e || fld e.pl 38 3 == 7 || s.badTcfg e k x) xInvalid <|
  .go s (fun f => { f with work := .tcfg k x }) Queue.advance

/-- TCFG. -/
def execTcfg (i : Issue) (s : State) : Res := .next (s.issue 1 0 i bodyTcfg).settleTcfg

/-- TCLR: the panel and the counts of a bound slot are zeroed; a slot that is not bound has neither (R145, R169). -/
def bodyTclr (e : Env) (s : State) : Act :=
  let k := fld e.pl 84 4
  Act.when (s.minor e || fld e.pl 0 84 != 0) xInvalid <|
    let tc := s.tc e.c e.v
    .go (if (tc.slot k).bound then s.setTc e.c e.v (tc.clearPanel k) else s) id Queue.advance

/-- TCLR. -/
def execTclr (i : Issue) (s : State) : Res := .next (s.issue 1 1 i bodyTclr)

/-! ### Samples (R166) -/

/-- TAP_SAMPLE: the oldest sample in a tile's latch is added into its panel (R166, R181). -/
def execTapSample (t : Nat) (s : State) : Res :=
  match (s.tile t).resident with
  | none => .next s
  | some c => match (s.ctx c).vid t with
    | none => .next s
    | some v => .next (s.setTc c v (s.tc c v).tapOne)

/-! ### Sealing and collection (R173, R174) -/

/-- An engine. -/
def State.engine (s : State) (k : Nat) : Engine := Tbl.get {} s.engines k
/-- An engine replaced. -/
def State.setEngine (s : State) (k : Nat) (x : Engine) : State :=
  { s with engines := Tbl.set s.engines k x }

/-- The sub-tiles of a sealed slot. -/
def sealedTiles (c v k step : Nat) (tc : TileCtx) (sl : TapSlot) (b : Nat) : List SubTile :=
  (List.range sl.tiles).map fun i =>
    { ctx := c, vt := v, slot := k, step := step, fid := sl.fid, block := 64 * sl.boff / b,
      row := sl.pr0 + i / (sl.pnc + 1), col := sl.pc0 + i % (sl.pnc + 1),
      count := Tbl.get 0 tc.counts (sl.tpage + i), suspect := sl.suspect, vals := tc.page (sl.tpage + i) }

/-- A bound slot sealed: its sub-tiles go to HOME_ENG and its pages are free again (R173). -/
def State.sealSlot (s : State) (c v step k : Nat) : State :=
  let tc := s.tc c v
  let sl := tc.slot k
  if !sl.bound then s
  else
    let s1 := match s.factor c sl.fid with
      | none => s
      | some f =>
        let x := s.engine (facEng f)
        s.setEngine (facEng f) { x with subtiles := x.subtiles ++ sealedTiles c v k step tc sl (facB f) }
    let tc1 := tc.clearPanel k
    s1.setTc c v (tc1.setSlot k { sl with suspect := false, samples := 0, step := none })

/-- A tile of a context has arrived at Milestone `m` (R139): every queue that is not idle has issued
MARRIVE for the step before, and what it issued earlier, in that step or before, has completed. A tile none of whose
queues is active meets the rule without condition and arrives. -/
def State.tileReady (s : State) (c v m : Nat) : Bool :=
  let act := ((List.range 4).map fun q => s.queue c v q).filter fun x => x.st != .idle
  (act.all fun x => match x.arrived with
      | some n => decide (m ≤ n + 1)
      | none => false)
    && s.flight.all fun f => !(f.ctx == c && f.vt == v && decide (f.step < m))

/-- Every tile of a context has arrived at a Milestone. -/
def State.allArrived (s : State) (c m : Nat) : Bool :=
  (List.range (s.ctx c).map.length).all fun v => match (s.tc c v).arrivedAt with
    | some k => decide (m ≤ k)
    | none => false

/-- The sub-tiles of a block in their fixed order (R174). -/
def orderTiles (l : List SubTile) : List SubTile :=
  let key (x : SubTile) : Nat := ((x.vt * 16 + x.slot) * 128 + x.row) * 128 + x.col
  sortBy (fun a b => decide (key a ≤ key b)) l

/-- The rank under which this device takes part in the job group. -/
def State.jobRank (s : State) (c : Nat) : Nat :=
  ((s.group c 0).bind fun g => indexOf? s.fab.devid g.members).getD 0

/-- One block's sub-tiles summed and put with this device's sums of the step (R174, R176). -/
def State.collectBlock (s : State) (eng c step fid block : Nat) (l : List SubTile) : State :=
  let mine := l.filter fun x => x.fid == fid && x.block == block
  let s1 := mine.foldl (fun st x => if x.suspect then st.ev 0x04D eng [c]
    else if x.col < x.row then st.ev 0x04E eng [c] else st) s
  let sums := (orderTiles (mine.filter fun x => !x.suspect && decide (x.row ≤ x.col))).foldl
    (fun acc x => addGram acc ⟨x.fid, x.block, x.row, x.col, x.count, x.vals⟩) []
  let k := s1.control c ctlGramOwn [step] 0
  s1.setControl { k with own := some (k.own.getD [] ++ gramBytes sums) }

/-- This device's sums of a step. -/
def State.gramOwn (s : State) (c step : Nat) : List GramPos :=
  gramOf ((s.control c ctlGramOwn [step] 0).own.getD [])

/-- The key of the collection toward the home of rank `h` in the job group (R174, 09 R292). -/
def gramKey (step h : Nat) : List Nat := [step, 0, 0, h]

/-- The devices of the job by rank, as the group record of group 0 lists them; this device alone without a job. -/
def State.homes (s : State) (c : Nat) : List Nat := s.controlRecord c 0

/-- The device of a factor's home: this device where the context has no job. -/
def State.homeDev (s : State) (c : Nat) (f : Bytes) : Nat := if (s.smap c).isNone then s.fab.devid else facHome f

/-- This device takes part in the collections of a step: its context has factor records (DESIGN CHOICE, log 66). -/
def State.collects (s : State) (c : Nat) : Bool := (s.ctx c).frt != 0

/-- The contribution of this device to the collection of step `step` toward a home has been made. -/
def State.gramMade (s : State) (c step : Nat) : Bool :=
  s.fab.controls.any fun k => k.ctx == c && k.kind == ctlGram && k.key.head? == some step && k.own.isSome

/-- Once every tile has arrived and every engine has summed its sub-tiles, this device joins the collection of R174 of
every home of the job: a reduction in fixed order on group 0, rooted at the home's rank, to which a member without sums
for a home contributes nothing (09 R292). The sums of a factor whose home has failed are discarded (13 R408). DESIGN
CHOICE, log 66. -/
def State.sendGrams (s : State) (c : Nat) : State :=
  let step := (s.ctx c).mstone
  if !s.collects c || !s.allArrived c (step + 1) || s.gramMade c step
      || s.engines.any fun e => e.2.subtiles.any fun y => y.ctx == c && y.step == step then s
  else
    let own := s.gramOwn c step
    let ids := s.homes c
    let rs := ranksIn s.fab.devid (s.controlGroup c 0).members
    let s0 : State := { s with fab := { s.fab with controls := s.fab.controls.filter fun k =>
      !(k.ctx == c && k.kind == ctlGramOwn && k.key == [step]) } }
    (List.range ids.length).foldl (fun st h =>
      let dev := (ids[h]?).getD 0
      let mine := own.filter fun g => match s.factor c g.fid with
        | some f => s.homeDev c f == dev && !(s.ctx c).failed.contains dev
        | none => false
      rs.foldl (fun st2 r => st2.contributeControl c ctlGram (gramKey step h) r
        (if rs.head? = some r then gramBytes mine else [])) st) s0

/-- TAP_SUBTILE_RECEIVE: once every tile of the context has arrived, engine HOME_ENG sums the sub-tiles it
has received of each block; with the last of them the sums go to the homes (R174). -/
def execTapSubtileReceive (eng c : Nat) (s : State) : Res :=
  let x := s.engine eng
  let step := (s.ctx c).mstone
  let mine := x.subtiles.filter fun y => y.ctx == c && y.step == step
  if !s.allArrived c (step + 1) then .next s
  else
    let s1 := s.setEngine eng { x with subtiles := x.subtiles.filter fun y => !(y.ctx == c && y.step == step) }
    let blocks := (mine.map fun y => (y.fid, y.block)).eraseDups
    .next ((blocks.foldl (fun st b => st.collectBlock eng c step b.1 b.2 mine) s1).sendGrams c)

/-- TILE_ARRIVE: the tile of a context arrives at the next Milestone; its panels are sealed and a written
TAP_CTL takes effect (R139, R173, R183). -/
def execTileArrive (c v : Nat) (s : State) : Res :=
  let x := s.ctx c
  let n := x.mstone
  let tc := s.tc c v
  let done := match tc.arrivedAt with
    | some k => decide (n + 1 ≤ k)
    | none => false
  if !x.on || decide (x.map.length ≤ v) || done || !s.tileReady c v (n + 1) then .next s
  else
    let s1 := s.setTc c v { tc.tapAll with arrivedAt := some (n + 1) }
    let s2 := (List.range 16).foldl (fun st k => st.sealSlot c v n k) s1
    let t := s.physD c v
    let tl := s2.tile t
    let seals := (List.range 16).any fun k => (tc.slot k).bound
    .next ((s2.setTile t { tl with tapSuspend := bit tl.tapCtl.toNat 0
                                   tapSealed := if seals then n % 2 ^ 32 else tl.tapSealed }).sendGrams c)

/-! ### The fold (R175 to R179) -/

/-- The summed sub-tiles that have been collected at this device as home for a step (R174, R175). -/
def State.gramSums (s : State) (c step : Nat) : List GramPos :=
  (s.fab.controls.filter fun k => k.ctx == c && k.kind == ctlGram && k.key.head? == some step).flatMap fun k =>
    (k.result.map gramOf).getD []

/-- The blocks of which sums have been collected here for a step: factor and block. -/
def State.gramBlocks (s : State) (c step : Nat) : List (Nat × Nat) :=
  ((s.gramSums c step).map fun g => (g.fid, g.block)).eraseDups

/-- A square block read from HBM as E6M9 values, in rows. -/
def State.readBlock (s : State) (c a n : Nat) : Option (State × List (List Nat) × Bool) :=
  (s.ctxRead c a (2 * n * n)).map fun r =>
    (r.s, chunks n n ((chunks 2 (n * n) r.bytes).map leNat), r.ue)

/-- The Frobenius norm of a matrix (R178): squares summed by fused multiply-add from +0 in row-major
order. -/
def frobNorm (m : List (List W32)) : W32 :=
  fsqrtC (m.flatten.foldl (fun a x => ffmaC x x a) 0)

/-- A conversion into E6M9, to nearest with SAT = 1. -/
def toE6M9 (x : W32) : CRes := convTo! 3 true .nearest (decF32 x)

/-- The new codes of a block, and whether a write saturated (R175). An element whose sub-tile has count 0 keeps its
value, and so does its mirror image in the lower triangle. -/
def foldBlock (old : List (List Nat)) (g : List GramPos) (n : Nat) (gamma : W32) (init : Bool) :
    List (List Nat) × Bool :=
  let was (i j : Nat) : Nat := ((old[i]?).getD [])[j]?.getD 0
  let elem (i j : Nat) : Option (Nat × Bool) :=
    match g.find? fun p => p.row == i / 32 && p.col == j / 32 with
    | none => none
    | some p =>
      if p.count = 0 then none
      else
        let m := fdivC ((p.vals[i % 32 * 32 + j % 32]?).getD 0) (intToF32 p.count)
        let v := if init then m else ffmaC gamma (fsubC (elemToF32 3 (was i j)) m) m
        let r := toE6M9 v
        some (r.bits, r.sat)
  let rows := (List.range n).map fun i => (List.range n).map fun j =>
    (if i ≤ j then elem i j else elem j i).getD (was i j, false)
  (rows.map fun r => r.map (·.1), rows.any fun r => r.any (·.2))

/-- The differences F_new − F_old over a block (R178): 0 where the fold kept the element. At the first fold the old
contents are never used (R172); there F_old is 0 (DESIGN CHOICE, log 46). -/
def foldDiff (old new : List (List Nat)) (g : List GramPos) (init : Bool) : List (List W32) :=
  let kept (i j : Nat) : Bool := !g.any fun p => p.row == min i j / 32 && p.col == max i j / 32 && p.count != 0
  ((old.zip new).zip (List.range old.length)).map fun r =>
    ((r.1.1.zip r.1.2).zip (List.range r.1.1.length)).map fun x =>
      if kept r.2 x.2 then 0
      else fsubC (elemToF32 3 x.1.2) (if init then 0 else elemToF32 3 x.1.1)

/-- TAP_FOLD_LOG written while it is empty (R186). -/
def State.logFold (s : State) (cause fid block : Nat) : State :=
  if bit s.foldLog.toNat 63 then s
  else { s with foldLog := BitVec.ofNat 64 (2 ^ 63 + cause * 2 ^ 61 + fid % 2 ^ 24 * 2 ^ 24 + block % 2 ^ 16) }

/-- A block state record (Table 6.4). -/
structure BlockSt where
  drift : W32
  refnorm : W32
  state : Nat
deriving DecidableEq, Repr

/-- The block state record of a block. -/
def State.blockSt (s : State) (c : Nat) (f : Bytes) (k : Nat) : BlockSt :=
  let b := s.peekD c (facState f + 16 * k) 16
  ⟨BitVec.ofNat 32 (recN b 0 4), BitVec.ofNat 32 (recN b 4 4), recN b 8 8⟩
/-- A block state record written. -/
def State.setBlockSt (s : State) (c : Nat) (f : Bytes) (k : Nat) (x : BlockSt) : State :=
  s.ctxWrite c (facState f + 16 * k)
    (leBytes 4 x.drift.toNat ++ leBytes 4 x.refnorm.toNat ++ leBytes 8 x.state)

/-- A block remembered as dirty (07 R199). -/
def State.noteDirty (s : State) (c fid k : Nat) : State :=
  let x := s.ctx c
  s.setCtx c { x with dirtyBlocks := if x.dirtyBlocks.contains (fid, k) then x.dirtyBlocks
                                     else x.dirtyBlocks ++ [(fid, k)] }

/-- DIRTY set in the state record of a block (R178). -/
def State.markDirty (s : State) (c : Nat) (f : Bytes) (k : Nat) : State :=
  let x := s.blockSt c f k
  (s.setBlockSt c f k { x with state := setFld x.state 1 1 1 }).noteDirty c (recN f 0 3) k

/-- Block `k` of a factor folded at the completion of Milestone `m` (R175, R177, R178). -/
def State.foldOne (s : State) (c m fid : Nat) (f : Bytes) (k : Nat) (g : List GramPos) : State :=
  let n := facSize f k
  let eng := facEng f
  let upper := g.filter fun p => decide (p.row ≤ p.col)
  if facFreeze f || upper.all (fun p => p.count == 0) then s
  else if upper.any fun p => p.vals.any fun v => !isFin32 v then
    let x := s.blockSt c f k
    ((s.setBlockSt c f k { x with state := setFld x.state 2 1 1 }).logFold 1 fid k).ev 0x04F eng [c]
  else match s.readBlock c (facBlockAddr f k) n with
    | none => s
    | some r =>
      let x := r.1.blockSt c f k
      let init := bit x.state 0
      let w := foldBlock r.2.1 upper n (facDecay f) init
      let s1 := r.1.ctxWrite c (facBlockAddr f k) (w.1.flatMap fun l => l.flatMap (leBytes 2))
      let s2 := if w.2 then (s1.logFold 2 fid k).ev 0x050 eng [c] else s1
      let drift := faddC x.drift (frobNorm (foldDiff r.2.1 w.1 upper init))
      let dirty := facForce f || init || flt (fmulC (facTau f) x.refnorm) drift
      let st := setFld (setFld (setFld x.state 0 1 0) 2 1 0) 32 32 (m % 2 ^ 32)
      let s3 := s2.setBlockSt c f k
        { x with drift := drift, state := if dirty then setFld st 1 1 1 else st }
      if dirty then (s3.noteDirty c fid k).ev 0x051 eng [c] else s3

/-- R27 action (2) at a device: every block whose sums it holds as home is folded, in order of factor and
block, and the sums of that step are gone; sums of a later step that have come early are held (R175, R180). -/
def State.foldAll (s : State) (c m : Nat) : State :=
  let sums := s.gramSums c (m - 1)
  let s1 := (sortBy pairLe (s.gramBlocks c (m - 1))).foldl (fun st b =>
    match st.factor c b.1 with
    | some f => st.foldOne c m b.1 f b.2 (sums.filter fun g => g.fid == b.1 && g.block == b.2)
    | none => st) s
  { s1 with fab := { s1.fab with controls := s1.fab.controls.filter fun x =>
      !(x.ctx == c && x.kind == ctlGram && x.key.head? == some (m - 1)) } }

/-- Recovery discards the panels, sub-tiles and sums of a step (R180). -/
def State.discardTaps (s : State) (c : Nat) : State :=
  let tctx := s.tctx.mapv fun k tc => if k / 256 == c then
      let cleared := (List.range 16).foldl (fun t j =>
        if (t.slot j).bound then
          let u := t.clearPanel j
          u.setSlot j { u.slot j with suspect := false, samples := 0, step := none }
        else t) tc
      { cleared with latch := [] }
    else tc
  let engines := s.engines.mapv fun _ x => { x with subtiles := x.subtiles.filter fun y => y.ctx != c }
  { s with tctx := tctx, engines := engines
           fab := { s.fab with controls := s.fab.controls.filter fun x =>
             !(x.ctx == c && (x.kind == ctlGram || x.kind == ctlGramOwn || x.kind == ctlNorm || x.kind == ctlDigest)) } }

end Sys2Proof.Machine
end

