-- ==== Sys2Proof/Machine/Solver.lean ====
section
/-! DEFINITION. Root solver engines: structure entries, solver posts, refreshes by Newton iteration and by
Cholesky factorisation, deadlines, and the distribution and installation of roots (07_root_solver R188
to R222).
Assumption log: log 28 (DESIGN CHOICE), log 41 (DESIGN CHOICE), log 42 (DESIGN CHOICE), log 43 (DEDUCED), log 67
(DEDUCED). -/

namespace Sys2Proof.Machine

/-! ### Structure entries (Table 7.2, R192) -/

def entFid (b : Bytes) : Nat := recN b 0 3
def entSide (b : Bytes) : Nat := fld (recN b 0 4) 24 1
def entBlock (b : Bytes) : Nat := fld (recN b 4 4) 0 18
def entN (b : Bytes) : Nat := recN b 8 2
def entP (b : Bytes) : Nat := fld (recN b 10 1) 0 2
def entMethod (b : Bytes) : Nat := recN b 11 1
def entWarm (b : Bytes) : Bool := bit (recN b 12 1) 0
def entWait (b : Bytes) : Bool := bit (recN b 12 1) 1
/-- The root format: E6M9 or BF16. -/
def entRfmt (b : Bytes) : Nat := if bit (recN b 12 1) 2 then 1 else 3
def entKeep (b : Bytes) : Bool := bit (recN b 12 1) 3
def entCap (b : Bytes) : Nat := if recN b 13 1 = 0 then 24 else recN b 13 1
def entTol (b : Bytes) : Nat := recN b 14 1
def entItol (b : Bytes) : Nat := recN b 15 1
def entEps (b : Bytes) : W32 := BitVec.ofNat 32 (recN b 16 4)
def entFloor (b : Bytes) : W32 := BitVec.ofNat 32 (recN b 20 4)
def entLag (b : Bytes) : Nat := recN b 24 2
def entRgroup (b : Bytes) : Nat := recN b 26 2
def entSig (b : Bytes) : Nat := recN b 32 8

/-- The structure signature (R192). -/
def structureSig (d b k n pcode method : Nat) (eps : W32) : Nat :=
  let h0 := mix64 (0x5A3C96E10F7BD248 ^^^ BitVec.ofNat 64 (d + b * 2 ^ 32))
  let h1 := mix64 (h0 ^^^ BitVec.ofNat 64 (k + n * 2 ^ 32))
  let h2 := mix64 (h1 ^^^ BitVec.ofNat 64 (pcode + method * 2 ^ 8 + eps.toNat * 2 ^ 32))
  if h2.toNat = 0 then 1 else h2.toNat

/-- A finite value with sign bit 0. -/
def finPos (x : W32) : Bool := isFin32 x && !signOf x

/-- The validity of an entry image (R194). -/
def State.imageOk (s : State) (c : Nat) (b : Bytes) : Bool :=
  match s.factor c (entFid b) with
  | none => false
  | some f =>
    let k := entBlock b
    entSide b == facSide f && fld (recN b 0 4) 25 7 == 0 && fld (recN b 4 4) 18 14 == 0
      && decide (k < facBlocks f) && entN b == facSize f k && decide (1 ≤ entN b) && decide (entN b ≤ 4096)
      && entP b != 3 && fld (recN b 10 1) 2 6 == 0 && decide (entMethod b ≤ 1) && fld (recN b 12 1) 4 4 == 0
      && decide (recN b 13 1 ≤ 64) && decide (1 ≤ entTol b) && decide (entTol b ≤ 24)
      && decide (entItol b ≤ entTol b) && finPos (entEps b) && finPos (entFloor b) && decide (1 ≤ entLag b)
      && recN b 28 4 == 0 && (entMethod b != 0 || (entP b == 0 && decide (entN b ≤ 512)))

/-- The block has an entry in some engine of this device: engine and index. -/
def State.entryOf (s : State) (c fid block : Nat) : Option (Nat × Nat) :=
  (List.range 16).findSome? fun g =>
    let x := s.engine g
    (x.table.find? fun e => entFid e.2 == fid && entBlock e.2 == block
      && Tbl.get 64 x.owner e.1 == c).map fun e => (g, e.1)

/-- The engine's Layby context and scratch suffice for a block (R212). -/
def Engine.laybyOk (x : Engine) (n : Nat) : Bool :=
  decide (n ≤ 512) || (bit x.ctl.toNat 22 && decide (20 * n * n ≤ x.scratchSize.toNat * 2 ^ 20))

/-! ### Root records (R196, R197, Table 7.5) -/

/-- RBASE. -/
def rootBase (f : Bytes) : Nat := ceilDiv (facAddr f + 2 * facBlocks f * facB f ^ 2) 4096 * 4096
/-- The root record of block `k`. -/
def rootRec (f : Bytes) (k : Nat) : Nat := rootBase f + k * (128 + 4 * facB f ^ 2)
/-- The header and the matrix of slot `i`. -/
def rootHdr (f : Bytes) (k i : Nat) : Nat := rootRec f k + 64 * i
def rootMat (f : Bytes) (k i : Nat) : Nat := rootRec f k + 128 + 2 * i * facB f ^ 2

/-- The header of a slot. -/
def State.hdr (s : State) (c : Nat) (f : Bytes) (k i : Nat) : Bytes := s.peekD c (rootHdr f k i) 64
def hdrSig (h : Bytes) : Nat := recN h 0 8
def hdrTag (h : Bytes) : Nat := recN h 8 8
def hdrValid (h : Bytes) : Bool := bit (recN h 16 1) 0
def hdrPending (h : Bytes) : Bool := bit (recN h 16 1) 1

/-- A slot header. -/
def mkHdr (sig tag : Nat) (valid pending : Bool) (status iters : Nat) (resid : W32) : Bytes :=
  leBytes 8 sig ++ leBytes 8 tag ++ leBytes 1 (b2n valid + 2 * b2n pending) ++ leBytes 1 status
    ++ leBytes 1 iters ++ leBytes 1 0 ++ leBytes 4 resid.toNat ++ List.replicate 40 0

/-- The slot that a reader of step `m` selects (R197). -/
def State.rootSel (s : State) (c : Nat) (f : Bytes) (k m : Nat) : Option Nat :=
  let ok (i : Nat) : Bool :=
    let h := s.hdr c f k i
    hdrValid h && !hdrPending h && decide (hdrTag h ≤ m)
  match ok 0, ok 1 with
  | true, true => some (if hdrTag (s.hdr c f k 0) < hdrTag (s.hdr c f k 1) then 1 else 0)
  | true, false => some 0
  | false, true => some 1
  | false, false => none

/-- The slot into which a new root is written (R197). -/
def State.rootFree (s : State) (c : Nat) (f : Bytes) (k : Nat) : Nat :=
  if !hdrValid (s.hdr c f k 0) then 0
  else if !hdrValid (s.hdr c f k 1) then 1
  else match s.rootSel c f k (s.ctx c).mstone with
    | some i => 1 - i
    | none => if hdrTag (s.hdr c f k 0) ≤ hdrTag (s.hdr c f k 1) then 0 else 1

/-- The slot with VALID = 1 and the largest TAG, pending or not (R202). -/
def State.rootWarm (s : State) (c : Nat) (f : Bytes) (k : Nat) : Option Nat :=
  let h0 := s.hdr c f k 0
  let h1 := s.hdr c f k 1
  match hdrValid h0, hdrValid h1 with
  | true, true => some (if hdrTag h0 < hdrTag h1 then 1 else 0)
  | true, false => some 0
  | false, true => some 1
  | false, false => none

/-- The bytes of a square matrix of 16-bit codes. -/
def codesBytes (m : List (List Nat)) : Bytes := m.flatMap fun r => r.flatMap (leBytes 2)

/-- The identity in a root format. -/
def identityCodes (rfmt n : Nat) : List (List Nat) :=
  let one := (convTo! rfmt true .nearest (.fin false 1 0)).bits
  (List.range n).map fun i => (List.range n).map fun j => if i = j then one else 0

/-- The identity root record of a block written on this device (R194). -/
def State.writeIdentity (s : State) (c : Nat) (f : Bytes) (k rfmt : Nat) : State :=
  let s1 := s.ctxWrite c (rootHdr f k 0) (mkHdr 0 0 true false 0 0 0)
  let s2 := s1.ctxWrite c (rootMat f k 0) (codesBytes (identityCodes rfmt (facSize f k)))
  let h := s2.hdr c f k 1
  s2.ctxWrite c (rootHdr f k 1) (putRec h 16 1 (setFld (recN h 16 1) 0 1 0))

/-- The members of a root group, this device alone when the group is invalid. -/
def State.rootMembers (s : State) (c g : Nat) : List Nat :=
  ((s.group c g).map (·.members)).getD [s.fab.devid]

/-! ### Solver posts (R193 to R195) -/

/-- The reserved values of a solver descriptor. -/
def spostOk (d : Bytes) : Bool :=
  decide (recN d 0 1 ≤ 2) && fld (recN d 1 1) 4 4 == 0 && (recN d 0 1 != 1 || recN d 19 1 == 0)
    && zeroAt d [(6, 2), (24, 32), (60, 4)]

/-- The status of the first failing image, by the codes of Table 7.4 in their order (DEDUCED, log 40). -/
def State.imageStatus (s : State) (c eng idx : Nat) (b : Bytes) (before : List Bytes) : Nat :=
  let x := s.engine eng
  if (Tbl.find x.table idx).isSome then 1
  else if !s.imageOk c b then 2
  else if ((s.factor c (entFid b)).map facHome).getD 0 != s.fab.devid then 3
  else if !x.laybyOk (entN b) then 5
  else if (s.entryOf c (entFid b) (entBlock b)).isSome
      || before.any fun y => entFid y == entFid b && entBlock y == entBlock b then 6
  else 0

/-- The first failing image: its index and code. -/
def State.firstBad (s : State) (c eng : Nat) : Nat → List Bytes → List Bytes → Option (Nat × Nat)
  | _, _, [] => none
  | idx, before, b :: bs =>
    match s.imageStatus c eng idx b before with
    | 0 => State.firstBad s c eng (idx + 1) (before ++ [b]) bs
    | code => some (idx, code)

/-- The entry that an image becomes (R194). -/
def State.newEntry (s : State) (c : Nat) (b : Bytes) : Bytes :=
  let f := (s.factor c (entFid b)).getD []
  let sig := structureSig (facDim f) (facB f) (entBlock b) (entN b) (entP b) (entMethod b) (entEps b)
  sliceB b 0 32 ++ leBytes 8 sig ++ List.replicate 24 0

/-- The key under which a root travels: whether it is a computed root (1) or an identity (0), factor, block, TAG, root
format and home device. -/
def rootKey (mode fid block tag rfmt home : Nat) : List Nat := [mode, fid, block, tag, rfmt, home]

/-- One image loaded, with its identity root records unless KEEP is 1: this device's at once, the other members' by the
tree of RGROUP (R194). -/
def State.loadEntry (s : State) (c eng idx : Nat) (b : Bytes) : State :=
  let x := s.engine eng
  let s1 := s.setEngine eng { x with table := Tbl.set x.table idx (s.newEntry c b)
                                     owner := Tbl.set x.owner idx c }
  if entKeep b then s1
  else match s1.factor c (entFid b) with
    | none => s1
    | some f =>
      let gid := entRgroup b
      let r := (indexOf? s1.fab.devid (s1.controlRecord c gid)).getD 0
      (s1.writeIdentity c f (entBlock b) (entRfmt b)).controlDown c gid r r ctlRoot
        (rootKey 0 (entFid b) (entBlock b) 0 (entRfmt b) s1.fab.devid) r []

/-- The identity roots of an image that other members have to write (R194). -/
def State.identityWaits (s : State) (c : Nat) (b : Bytes) : List (Nat × Nat × Nat) :=
  if entKeep b then []
  else ((s.rootMembers c (entRgroup b)).filter fun d => d != s.fab.devid).map fun d => (d, entFid b, entBlock b)

/-- The status word of Table 7.4. -/
def solvStatus (code idx : Nat) : Nat := code + idx % 512 * 2 ^ 16

/-- REGISTER (R194). -/
def State.register (s : State) (c eng first count : Nat) (imgs : List Bytes) : State × Nat :=
  if 511 < first + count then (s, solvStatus 2 first)
  else match s.firstBad c eng first [] imgs with
    | some x => (s, solvStatus x.2 x.1)
    | none =>
      (((imgs.zip (List.range imgs.length)).foldl (fun st p => st.loadEntry c eng (first + p.2) p.1) s), 0)

/-- What a REGISTER waits for: the identity roots of other devices, once it has loaded its images (R194). -/
def State.registerWork (s : State) (c status : Nat) (imgs : List Bytes) : Work :=
  let l := if status = 0 then imgs.flatMap (s.identityWaits c) else []
  if l.isEmpty then .done else .identities l

/-- RELEASE: entries freed and their queued posts dropped (R195). -/
def State.releaseEntries (s : State) (c eng first count : Nat) : State :=
  let x := s.engine eng
  let mine (i : Nat) : Bool := decide (first ≤ i) && decide (i ≤ first + count) && Tbl.get 64 x.owner i == c
  s.setEngine eng { x with
    table := x.table.filter fun e => !mine e.1
    owner := x.owner.filter fun e => !mine e.1
    queue := x.queue.filter fun p => !mine p.entry }

/-- An SPOST acts by its descriptor's OP (R193). -/
def bodySpost (e : Env) (s : State) : Act :=
  Act.when (s.minor e) xInvalid <| s.post e fun s0 d ue =>
    let eng := fld (recN d 1 1) 0 4
    let first := recN d 2 2
    let count := recN d 4 2
    let st := recN d 56 4
    let imgs := s0.entries e.c (recN d 8 8) 32 (count + 1)
    let done (s1 : State) (code : Nat) (w : Work) : Act :=
      .go s1 (fun f => { f with posted := true, statusAt := some st, status := code, work := w, poison := ue })
        Queue.advance
    Act.when (!spostOk d) xDescriptor <|
    Act.when (decide (storeSize < st + 8) || (recN d 0 1 == 0 && imgs.isNone)) xAccess <|
    if (s0.engine eng).en.st != .on then done s0 (solvStatus 7 0) .done
    else match recN d 0 1 with
      | 0 =>
        let r := s0.register e.c eng first count (imgs.getD [])
        done r.1 r.2 (s0.registerWork e.c r.2 (imgs.getD []))
      | 1 =>
        let fid := recN d 16 3
        let blk := recN d 20 4
        match s0.factor e.c fid with
        | none => done s0 (solvStatus 4 0) .done
        | some f =>
          if facHome f != s0.fab.devid then done s0 (solvStatus 3 0) .done
          else if (s0.entryOf e.c fid blk).isNone then done s0 (solvStatus 4 0) .done
          else done (s0.markDirty e.c f blk) 0 .done
      | _ =>
        if 511 < first + count then done s0 (solvStatus 2 first) .done
        else
          let running := match (s0.engine eng).run with
            | some r => r.post.ctx == e.c && decide (first ≤ r.post.entry) && decide (r.post.entry ≤ first + count)
            | none => false
          done (s0.releaseEntries e.c eng first count) 0
            (if running then .release eng first count else .done)

/-- REGISTER (R194). -/
def execRegister (i : Issue) (s : State) : Res := .next (s.issue 5 0 i bodySpost)
/-- REFRESH (R195). -/
def execRefresh (i : Issue) (s : State) : Res := .next (s.issue 5 0 i bodySpost)
/-- RELEASE (R195). -/
def execRelease (i : Issue) (s : State) : Res := .next (s.issue 5 0 i bodySpost)

/-! ### Posts (R199) -/

/-- BITS of an entry changed. -/
def setEntBit (b : Bytes) (i : Nat) (v : Bool) : Bytes :=
  putRec b 50 1 (setFld (recN b 50 1) i 1 (b2n v))

/-- An entry of an engine replaced by a function of it, when it is there. -/
def Engine.updEntry (x : Engine) (i : Nat) (f : Bytes → Bytes) : Engine :=
  match Tbl.find x.table i with
  | some b => { x with table := Tbl.set x.table i (f b) }
  | none => x

/-- One dirty block posted with its entry, at Milestone `m` (R179, R199). -/
def State.postBlock (s : State) (c m eng idx : Nat) (b : Bytes) : State :=
  match s.factor c (entFid b) with
  | none => s
  | some f =>
    let k := entBlock b
    let st := s.blockSt c f k
    if !bit st.state 1 then s
    else
      let norm := match s.readBlock c (facBlockAddr f k) (facSize f k) with
        | some r => frobNorm (r.2.1.map fun l => l.map (elemToF32 3))
        | none => st.refnorm
      let s1 := s.setBlockSt c f k { drift := 0, refnorm := norm, state := setFld st.state 1 1 0 }
      let x := s1.engine eng
      let p : Post := { entry := idx, ctx := c, fid := entFid b, block := k, deadline := m + entLag b }
      let y : Engine := { x with queue := x.queue.filter (fun q => q.entry != idx) ++ [p] }
      s1.setEngine eng (y.updEntry idx fun e => setEntBit e 2 true)

/-- R27 action (3): dirty blocks with an entry are posted; dirty blocks that have none lose the mark (R199). -/
def State.postDirty (s : State) (c m : Nat) : State :=
  let s0 := s.setCtx c { s.ctx c with dirtyBlocks := [] }
  let s1 := (sortBy pairLe (s.ctx c).dirtyBlocks).foldl (fun st b =>
    match st.factor c b.1 with
    | none => st
    | some f =>
      let x := st.blockSt c f b.2
      if bit x.state 1 && (st.entryOf c b.1 b.2).isNone then
        (st.setBlockSt c f b.2 { x with state := setFld x.state 1 1 0 }).ev 0x085 0 [c]
      else st) s0
  (List.range 16).foldl (fun st g =>
    ((st.engine g).table.filter fun e => Tbl.get 64 (st.engine g).owner e.1 == c).foldl
      (fun st2 e => st2.postBlock c m g e.1 e.2) st) s1

/-! ### Starting a refresh (R199 to R203) -/

/-- The queued post that starts next. -/
def nextPost (l : List Post) : Option Post :=
  (sortBy (fun (a b : Post) => decide (a.deadline < b.deadline)
    || (a.deadline == b.deadline && pairLe (a.fid, a.block) (b.fid, b.block))) l).head?

/-- A sum of products in PASS3 added to a prior value, pairs in ascending index, one rounding a pair (R189). -/
def dot3 (prior : W32) (a b : List W32) : W32 :=
  (dotF ⟨2, false, false⟩ 0 prior (a.map decF32) (b.map decF32)).v

/-- A product of FP32 matrices in PASS3 (R189). -/
def mulF (a b : List (List W32)) : List (List W32) :=
  let cols := transposeN 0 a.length b
  a.map fun r => cols.map fun c => dot3 (zero32 true) r c

/-- A matrix from its elements by row and column. -/
def matOf (n : Nat) (f : Nat → Nat → W32) : List (List W32) :=
  (List.range n).map fun i => (List.range n).map fun j => f i j
/-- An element. -/
def matAt (m : List (List W32)) (i j : Nat) : W32 := ((m[i]?).getD [])[j]?.getD 0

/-- The damped block and the Gershgorin bound (R201). The floor multiplies t/n, which the scalar chain of Table 7.7 forms
first (DEDUCED, log 67). -/
def damp (f : List (List W32)) (n : Nat) (eps floor : W32) : List (List W32) × W32 :=
  let t := (List.range n).foldl (fun a i => faddC a (matAt f i i)) (zero32 true)
  let v := fmulC floor (fdivC t (intToF32 n))
  let mu := if !isFin32 t || flt t 0 then eps else if flt eps v then v else eps
  let a := matOf n fun i j => if i = j then faddC (matAt f i j) mu else matAt f i j
  let rowSum (i : Nat) : W32 := (List.range n).foldl (fun acc j =>
    faddC acc (if i = j then matAt a i j else abs32 (matAt a i j))) (zero32 true)
  let sums := (List.range n).map rowSum
  let g := sums.foldl (fun m x => if isNaN32 m || isNaN32 x then nan32 else if flt m x then x else m)
    (sums.headD 0)
  (a, g)

/-- p of its code. -/
def pOf (code : Nat) : Nat := match code with | 0 => 1 | 1 => 2 | _ => 4

/-- The cold start: X₀ = c·I and M₀ = Â·(1/g) (R202). -/
def coldStart (pcode n : Nat) (a : List (List W32)) (g : W32) : List (List W32) × List (List W32) :=
  let rg := fdivC one32 g
  let rs := fdivC one32 (fsqrtC g)
  let c := match pcode with | 0 => rg | 1 => rs | _ => fsqrtC rs
  (matOf n fun i j => if i = j then c else 0, a.map fun r => r.map fun x => fmulC x rg)

/-- The products of a warm M₀ among the scratch matrices (R202, R212). -/
def warmProds : Nat → List Prod
  | 0 => [⟨1, 0, 2⟩]
  | 1 => [⟨1, 1, 4⟩, ⟨4, 0, 2⟩]
  | _ => [⟨1, 1, 4⟩, ⟨4, 4, 3⟩, ⟨3, 0, 2⟩]
/-- The products of an iteration (R204): X·T, then M. -/
def iterProds : Nat → List Prod
  | 0 => [⟨1, 3, 1⟩, ⟨3, 2, 2⟩]
  | 1 => [⟨1, 3, 1⟩, ⟨3, 2, 4⟩, ⟨3, 4, 2⟩]
  | _ => [⟨1, 3, 1⟩, ⟨3, 3, 4⟩, ⟨4, 2, 3⟩, ⟨4, 3, 2⟩]

/-- A matrix of a refresh. -/
def Refresh.mat (r : Refresh) (i : Nat) : List (List W32) := Tbl.get [] r.mats i
/-- A matrix of a refresh replaced. -/
def Refresh.setMat (r : Refresh) (i : Nat) (m : List (List W32)) : Refresh :=
  { r with mats := Tbl.set r.mats i m }
/-- Products run on the engine array at once (n ≤ 512). -/
def Refresh.runProds (r : Refresh) (l : List Prod) : Refresh :=
  l.foldl (fun x p => x.setMat p.dst (mulF (x.mat p.a) (x.mat p.b))) r

/-- A refresh stopped with a status. -/
def Refresh.stop (r : Refresh) (status : Nat) : Refresh := { r with outcome := some status }

/-- A refresh of a block begun: damping and a cold or warm start; `warm` is X₀ of a warm start (R200 to R202). A warm M₀
of a block of n > 512 is left to work items. -/
def beginRefresh (p : Post) (e : Bytes) (f : List (List W32)) (warm : Option (List (List W32))) : Refresh :=
  let n := entN e
  let d := damp f n (entEps e) (entFloor e)
  let r0 : Refresh := { post := p, entryB := e, n := n, pcode := entP e, method := entMethod e }
  let r1 := r0.setMat 0 d.1
  if !(isFin32 d.2 && flt 0 d.2) then r1.stop 7
  else if entMethod e = 0 then r1
  else match warm with
    | some x =>
      let r2 := { r1.setMat 1 x with warmTest := true }
      if n ≤ 512 then r2.runProds (warmProds (entP e)) else { r2 with prods := warmProds (entP e) }
    | none =>
      let cs := coldStart (entP e) n d.1 d.2
      (r1.setMat 1 cs.1).setMat 2 cs.2

/-! ### Matrices in scratch (R190, R212) -/

/-- The address of matrix `i` in scratch (R212). -/
def Engine.scratch (x : Engine) (n i : Nat) : Nat := x.scratchBase.toNat + i * 4 * n ^ 2

/-- FP32 values from bytes. -/
def f32s (b : Bytes) : List W32 := (chunks 4 (b.length / 4) b).map fun w => BitVec.ofNat 32 (leNat w)

/-- A matrix of a refresh of n > 512 read from scratch: its rows, and whether it could not be read whole. -/
def State.readScratch (s : State) (x : Engine) (n i : Nat) : State × List (List W32) × Bool :=
  match s.ctxRead x.layby (x.scratch n i) (4 * n ^ 2) with
  | some rd => (rd.s, chunks n n (f32s rd.bytes), rd.ue)
  | none => (s, [], true)

/-- A matrix written to scratch. -/
def State.writeScratch (s : State) (x : Engine) (n i : Nat) (m : List (List W32)) : State :=
  s.ctxWrite x.layby (x.scratch n i) (m.flatMap fun r => r.flatMap fun v => leBytes 4 v.toNat)

/-- The matrices that a pass uses: those of the panel store, or streamed from scratch (R212). The answer says whether
one of them could not be read. -/
def State.loadMats (s : State) (x : Engine) (r : Refresh) (l : List Nat) : State × Refresh × Bool :=
  if r.n ≤ 512 then (s, r, false)
  else l.foldl (fun a i =>
    let m := a.1.readScratch x r.n i
    (m.1, a.2.1.setMat i m.2.1, a.2.2 || m.2.2)) (s, r, false)

/-- The matrices that a pass has formed: they stay in the panel store, or go to scratch (R212). -/
def State.storeMats (s : State) (x : Engine) (r : Refresh) (l : List Nat) : State × Refresh :=
  if r.n ≤ 512 then (s, r)
  else ((l.filter fun i => (Tbl.find r.mats i).isSome).foldl (fun st i => st.writeScratch x r.n i (r.mat i)) s,
    { r with mats := [] })

/-! ### REFRESH_START -/

/-- The signature of the slot from which a refresh may start warm, 0 where there is none (R202). -/
def State.warmSig (s : State) (p : Post) (f : Bytes) : Nat :=
  match s.rootWarm p.ctx f p.block with
  | some i => hdrSig (s.hdr p.ctx f p.block i)
  | none => 0

/-- X₀ of a warm start: the root of the slot with the largest TAG, and whether it could not be read whole (R202). -/
def State.warmStart (s : State) (p : Post) (f e : Bytes) : State × Option (List (List W32)) × Bool :=
  if !entWarm e || entMethod e == 0 || s.warmSig p f == 0 || s.warmSig p f != entSig e then (s, none, false)
  else match s.ctxRead p.ctx (rootMat f p.block ((s.rootWarm p.ctx f p.block).getD 0)) (2 * entN e ^ 2) with
    | some rd => (rd.s, some (chunks (entN e) (entN e) ((chunks 2 (entN e ^ 2) rd.bytes).map fun w =>
        elemToF32 (entRfmt e) (leNat w))), rd.ue)
    | none => (s, none, true)

/-- REFRESH_START: an idle engine starts the queued post with the earliest deadline (R199 to R202). A block or a warm
source that cannot be read whole ends the refresh in FAULT (11 R341; DEDUCED, log 41). -/
def execRefreshStart (eng : Nat) (s : State) : Res :=
  let x := s.engine eng
  if x.en.st != .on || bit x.ctl.toNat 0 || x.run.isSome then .next s
  else match nextPost x.queue with
    | none => .next s
    | some p =>
      match Tbl.find x.table p.entry, s.factor p.ctx p.fid with
      | some e, some f =>
        let w := s.warmStart p f e
        let rd := w.1.readBlock p.ctx (facBlockAddr f p.block) (entN e)
        let s1 := (rd.map (·.1)).getD w.1
        let bad := w.2.2 || (rd.map (·.2.2)).getD true
        let r0 : Refresh := { post := p, entryB := e, n := entN e, pcode := entP e, method := entMethod e }
        let r1 := if bad then r0.stop 7
          else beginRefresh p e (((rd.map (·.2.1)).getD []).map fun l => l.map (elemToF32 3)) w.2.1
        let st := s1.storeMats x r1 [0, 1, 2]
        let y : Engine := { x with queue := x.queue.filter (fun q => q != p), run := some st.2 }
        let z := y.updEntry p.entry fun b => setEntBit (setEntBit (setEntBit b 2 false) 1 true) 3 false
        let s2 := (st.1.setEngine eng z).ev 0x040 eng [p.ctx]
        let sig := s.warmSig p f
        .next (if entMethod e != 0 && sig != 0 && sig != entSig e then s2.ev 0x048 eng [p.ctx] else s2)
      | _, _ => .next s

/-! ### The iteration (R203, R204) -/

/-- E = I − M. -/
def errOf (m : List (List W32)) (n : Nat) : List (List W32) :=
  matOf n fun i j => fsubC (if i = j then one32 else 0) (matAt m i j)
/-- The residual (R204). -/
def residual (m : List (List W32)) (n : Nat) : W32 :=
  fsqrtC (fdivC ((errOf m n).flatten.foldl (fun a x => ffmaC x x a) 0) (intToF32 n))
/-- The largest row sum of |δ − m| is 1 or more (R203). -/
def warmFails (m : List (List W32)) (n : Nat) : Bool :=
  (errOf m n).any fun r => !flt (r.foldl (fun a x => faddC a (abs32 x)) 0) one32
/-- T = ((p+1)·I − M)/p (R204). -/
def stepT (m : List (List W32)) (n pcode : Nat) : List (List W32) :=
  let p := pOf pcode
  matOf n fun i j =>
    fmulC (fsubC (if i = j then intToF32 (p + 1) else 0) (matAt m i j)) (pow2F32 (-(pcode : Int)))

/-- 2^−k in FP32. -/
def tolOf (k : Nat) : W32 := pow2F32 (-(k : Int))

/-- The codes of a root (R205). DEDUCED, log 34. -/
def rootCodes (rfmt : Nat) (x : List (List W32)) : List (List Nat) :=
  x.map fun r => r.map fun v => (convTo! rfmt true .nearest (decF32 v)).bits

/-- The pass over M: the residual, the latest iterate and the tests (R204, Table 7.6). -/
def Refresh.pass (r : Refresh) : Refresh :=
  let e := r.entryB
  let v := residual (r.mat 2) r.n
  let r1 : Refresh := { r with resid := some v, latest := r.mat 1, pending := false }
  if !isFin32 v || !(r.mat 1).all (fun l => l.all isFin32) then r1.stop 7
  else if !flt (tolOf (entTol e)) v then { r1.stop 1 with root := rootCodes (entRfmt e) r1.latest }
  else if r.k = entCap e then r1.stop 4
  else r1.setMat 3 (stepT (r.mat 2) r.n r.pcode)

/-- The first pass over a warm M₀, with the test of R203; the answer says whether it was refused. -/
def Refresh.firstPass (r : Refresh) : Refresh × Bool :=
  if r.warmTest then
    if warmFails (r.mat 2) r.n then
      let a := r.mat 0
      let g := (damp (matOf r.n fun i j => matAt a i j) r.n 0 0).2
      let cs := coldStart r.pcode r.n a g
      ((({ r with warmTest := false }.setMat 1 cs.1).setMat 2 cs.2).pass, true)
    else ({ r with warmTest := false, warm := true }.pass, false)
  else (r.pass, false)

/-- The pass of an engine over the current M, its matrices loaded and stored (R203, R204, R212). -/
def State.enginePass (s : State) (eng : Nat) (r : Refresh) : State :=
  let x := s.engine eng
  let ld := s.loadMats x r (if r.warmTest then [0, 1, 2] else [1, 2])
  let p := if ld.2.2 then (ld.2.1.stop 7, false) else ld.2.1.firstPass
  let st := ld.1.storeMats x p.1 (if p.2 then [1, 2, 3] else [3])
  let s1 := st.1.setEngine eng ({ x with run := some st.2 }.updEntry r.post.entry fun b => setEntBit b 3 st.2.warm)
  if p.2 then s1.ev 0x049 eng [r.post.ctx] else s1

/-- NEWTON_ITERATION: the pass over a new M and its test, or the iteration's products and then that pass;
a block of n > 512 posts its products as work items instead (R204, R212). -/
def execNewtonIteration (e : EngineStep) (s : State) : Res :=
  let eng := e.eng
  let bad := e.bad
  let x := s.engine eng
  match x.run with
  | none => .next s
  | some r =>
    if r.outcome.isSome || r.method == 0 || !r.prods.isEmpty then .next s
    else if bad then .next (s.setEngine eng { x with run := some (r.stop 7) })
    else if r.pending then .next (s.enginePass eng r)
    else
      let s1 := s.ev 0x041 eng [r.post.ctx]
      let y := s1.engine eng
      if r.n ≤ 512 then
        let r1 := { r.runProds (iterProds r.pcode) with k := r.k + 1 }.pass
        .next (s1.setEngine eng { y with run := some r1 })
      else .next (s1.setEngine eng { y with run := some { r with prods := iterProds r.pcode, panels := [] } })

/-! ### Work items (R212, R213) -/

/-- Where a product of work items writes its panels: its destination, or the work matrix where that is one of its
factors (R212). -/
def Prod.target (p : Prod) : Nat := if p.dst = p.a ∨ p.dst = p.b then 4 else p.dst

/-- Stretches of scratch read in turn: their values, and whether one could not be read whole. -/
def State.readStretches (s : State) (c : Nat) : List (Nat × Nat) → State × List (List W32) × Bool
  | [] => (s, [], false)
  | a :: l =>
    match s.ctxRead c a.1 a.2 with
    | none => (s, [], true)
    | some rd =>
      let r := rd.s.readStretches c l
      (r.1, f32s rd.bytes :: r.2.1, rd.ue || r.2.2)

/-- The operands of panel `i`, in row-major order of 256 × 256 panels: rows of one factor and columns of the other, and
whether a word could not be read (R213). -/
def State.panelOperands (s : State) (x : Engine) (n i : Nat) (p : Prod) : State × List (List W32) × List (List W32) × Bool :=
  let w := ceilDiv n 256
  let i0 := 256 * (i / w)
  let j0 := 256 * (i % w)
  let cols := min 256 (n - j0)
  let a := s.readStretches x.layby ((upTo i0 (min 256 (n - i0))).map fun r => (x.scratch n p.a + 4 * n * r, 4 * n))
  let b := a.1.readStretches x.layby ((List.range n).map fun k => (x.scratch n p.b + 4 * (n * k + j0), 4 * cols))
  (b.1, a.2.1, transposeN 0 cols b.2.1, a.2.2 || b.2.2)

/-- A panel written to its matrix in scratch. -/
def State.writePanel (s : State) (x : Engine) (n i dst : Nat) (p : List (List W32)) : State :=
  let w := ceilDiv n 256
  (p.zip (List.range p.length)).foldl (fun st r =>
    st.ctxWrite x.layby (x.scratch n dst + 4 * ((256 * (i / w) + r.2) * n + 256 * (i % w)))
      (r.1.flatMap fun v => leBytes 4 v.toNat)) s

/-- A finished product put where it belongs: copied from the work matrix when its panels went there. The answer says
whether the copy could not be read whole. -/
def State.settleProd (s : State) (x : Engine) (n : Nat) (p : Prod) : State × Bool :=
  if p.target = p.dst then (s, false)
  else
    let m := s.readScratch x n p.target
    (m.1.writeScratch x n p.dst m.2.1, m.2.2)

/-- A work item on a tile: its staging area is regions 0–79 of the tile store, and what stands there afterwards is not
specified (free bytes, log 41); queue 3 of the Layby context may issue again (12 R380). -/
def State.stageItem (s : State) (t : Nat) : State :=
  let s1 := s.storeWrite t 6 0 ((List.range (80 * 16384)).map fun i => Config.freeByte s.free i)
  let s2 : State := { s1 with free := s1.free + 1 }
  match (s.tile t).resident.bind fun c => ((s.ctx c).vid t).map fun v => (c, v) with
  | none => s2
  | some p =>
    let q := s2.queue p.1 p.2 3
    s2.setQueue p.1 p.2 3 { q with item := some q.seq }

/-- WORK_ITEM: the next panel of the engine's current product runs on a tile that is lent to the engine's
Layby context, from its operands in scratch and into scratch; when every panel of a product is done the next product
follows, and after the last one the iterate is ready for its pass (R212, R213). A word of scratch that cannot be read
ends the refresh in FAULT (R222). -/
def execWorkItem (eng t : Nat) (s : State) : Res :=
  let x := s.engine eng
  let tl := s.tile t
  match x.run with
  | none => .next s
  | some r =>
    match r.prods with
    | [] => .next s
    | p :: ps =>
      let i := r.panels.length
      if r.outcome.isSome || !bit x.ctl.toNat 22 || tl.lentFrom.isNone || tl.resident != some x.layby
          || !tl.runs then .next s
      else
        let o := s.panelOperands x r.n i p
        if o.2.2.2 then .next (o.1.setEngine eng { x with run := some (r.stop 7) })
        else
          let panel := o.2.1.map fun a => o.2.2.1.map fun b => dot3 (zero32 true) a b
          let s1 := ((o.1.stageItem t).writePanel x r.n i p.target panel).ev 0x04B eng [r.post.ctx]
          if i + 1 < ceilDiv r.n 256 ^ 2 then
            .next (s1.setEngine eng { x with run := some { r with panels := r.panels ++ [i] } })
          else
            let st := s1.settleProd x r.n p
            let r1 : Refresh := { r with prods := ps, panels := [] }
            let r2 : Refresh := if ps.isEmpty then
                { r1 with pending := true, k := if r.warmTest then 0 else r.k + 1 } else r1
            .next (st.1.setEngine eng { x with run := some (if st.2 then r.stop 7 else r2) })

/-! ### Cholesky (R206) -/

/-- Column `j` of the factor, from the columns before it: none when its pivot is not positive and
finite. Products run in PASS3, in ascending index (R189; DEDUCED, log 42). -/
def cholColumn (n j : Nat) (a : List (List W32)) (cols : List (List W32)) : Option (List W32) :=
  let row (i : Nat) : List W32 := cols.map fun col => (col[i]?).getD 0
  let sub (i : Nat) : W32 := dot3 (matAt a i j) ((row i).map neg32) (row j)
  let d := sub j
  if !(isFin32 d && flt 0 d) then none
  else
    let root := fsqrtC d
    let rcp := fdivC one32 root
    some ((List.range n).map fun i => if i < j then 0 else if i = j then root else dot3 (zero32 true) [sub i] [rcp])

/-- The columns of L. -/
def cholCols (n : Nat) (a : List (List W32)) : Nat → Option (List (List W32))
  | 0 => some []
  | j + 1 => match cholCols n a j with
    | none => none
    | some cs => (cholColumn n j a cs).map fun c => cs ++ [c]

/-- L·y = b by substitution; `l i k` is the element of L, the reciprocal of its diagonal is used. -/
def forward (l : Nat → Nat → W32) (b : List W32) : Nat → List W32
  | 0 => []
  | i + 1 =>
    let y := forward l b i
    let v := dot3 ((b[i]?).getD 0) ((List.range i).map fun k => neg32 (l i k)) y
    y ++ [dot3 (zero32 true) [v] [fdivC one32 (l i i)]]

/-- Z = Â⁻¹: L·Y = I and Lᵀ·Z = Y (R206). -/
def cholInverse (n : Nat) (a : List (List W32)) : Option (List (List W32)) :=
  (cholCols n a n).map fun cs =>
    let l (i k : Nat) : W32 := ((cs[k]?).getD [])[i]?.getD 0
    let cols := (List.range n).map fun j =>
      let y := forward l ((List.range n).map fun i => if i = j then one32 else 0) n
      let lt (i k : Nat) : W32 := l (n - 1 - k) (n - 1 - i)
      (forward lt y.reverse n).reverse
    transposeN 0 n cols

/-! ### Ends and deadlines (R205 to R210) -/

/-- ⌊−log2 r⌋ clamped to 0–255; 255 for r = 0 (Table 7.2). -/
def resExp (r : W32) : Nat :=
  match decF32 r with
  | .fin _ m e =>
    if m = 0 then 255
    else
      let fl := floorLog2 m e
      let exact := decide (m = 2 ^ (bitLen m - 1))
      let v := if exact then -fl else -fl - 1
      if v < 0 then 0 else min v.toNat 255
  | _ => 0

/-- A status writes a root (Table 7.6). -/
def installs (st : Nat) : Bool := st == 1 || st == 2

/-- The event of a status. -/
def statusEvent (st : Nat) : Nat :=
  match st with
  | 1 => 0x042 | 2 => 0x043 | 3 => 0x044 | 4 => 0x045 | 5 => 0x046 | 8 => 0x04C | _ => 0x047

/-- The entry, the log and the counters of a refresh that ends (R210, R219). -/
def State.recordEnd (s : State) (eng : Nat) (p : Post) (st iters : Nat) (resid : Option W32) : State :=
  let x := s.engine eng
  let upd (b : Bytes) : Bytes :=
    if entFid b = p.fid ∧ entBlock b = p.block then
      let b1 := putRec (putRec b 40 8 p.deadline) 48 1 st
      let b2 := putRec b1 49 1 iters
      let b3 := match resid with | some r => putRec b2 51 1 (resExp r) | none => b2
      let b4 := setEntBit b3 1 false
      if st = 3 then setEntBit b4 0 true else b4
    else b
  let logIt := st == 4 || st == 6 || st == 7 || st == 8
  let log := if logIt && !bit x.log.toNat 63 then
      BitVec.ofNat 64 (2 ^ 63 + st * 2 ^ 59 + p.entry * 2 ^ 50 + p.deadline % 2 ^ 32) else x.log
  (s.setEngine eng { x.updEntry p.entry upd with log := log }).ev (statusEvent st) eng [p.ctx]

/-- STALE and ABANDONED mark the block dirty again (R208). -/
def State.redirty (s : State) (p : Post) (st : Nat) : State :=
  if st = 3 ∨ st = 5 then
    match s.factor p.ctx p.fid with
    | some f => s.markDirty p.ctx f p.block
    | none => s
  else s

/-- A RELEASE that waited for a refresh may complete (R195). -/
def State.settleRelease (s : State) : State :=
  { s with flight := s.flight.map fun f => match f.work with
      | .release eng first count =>
        (match (s.engine eng).run with
        | some r => if r.post.ctx == f.ctx && decide (first ≤ r.post.entry)
            && decide (r.post.entry ≤ first + count) then f else { f with work := .done }
        | none => { f with work := .done })
      | _ => f }

/-- The answers of members to a root or to its withdrawal: the devices that have answered, and whether they took it. -/
def State.rootReplies (s : State) (kind : Nat) (p : Post) : List (Nat × Bool) :=
  match s.fab.controls.find? fun x => x.ctx == p.ctx && x.kind == kind && x.key == [p.fid, p.block, p.deadline] with
  | some x => x.inputs.map fun i => (i.2.1, i.2.2 == [1])
  | none => []

/-- The answers about a root forgotten. -/
def State.dropReplies (s : State) (p : Post) : State :=
  { s with fab := { s.fab with controls := s.fab.controls.filter fun x =>
      !(x.ctx == p.ctx && (x.kind == ctlRootReply || x.kind == ctlDropReply)
        && x.key == [p.fid, p.block, p.deadline]) } }

/-- The identity roots that other devices have written are waited for no longer, nor those of devices that have failed
(R194; DEDUCED, log 43). -/
def State.settleIdentities (s : State) : State :=
  let isReply (x : Control) : Bool := x.kind == ctlRootReply && x.key.getLast? == some 0
  let isOver (c : Nat) (w : Nat × Nat × Nat) : Bool := (s.ctx c).failed.contains w.1 || s.fab.controls.any fun x =>
    isReply x && x.ctx == c && x.key == [w.2.1, w.2.2, 0] && x.inputs.any fun i => i.2.1 == w.1
  { s with
    flight := s.flight.map fun f => match f.work with
      | .identities l =>
        let rest := l.filter fun w => !isOver f.ctx w
        { f with work := if rest.isEmpty then .done else .identities rest }
      | _ => f
    fab := { s.fab with controls := s.fab.controls.filter fun x => !isReply x } }

/-- REFRESH_END: a CHOL refresh is factored and solved; a refresh that has stopped ends once its root, if it
writes one, has been accepted by every member (R205, R206, R210). The residual of a CHOL root is not
specified (free, log 42). -/
def execRefreshEnd (e : EngineStep) (s : State) : Res :=
  let eng := e.eng
  let bad := e.bad
  let x := s.engine eng
  match x.run with
  | none => .next s
  | some r =>
    match r.outcome with
    | none =>
      if r.method != 0 then .next s
      else if bad then .next (s.setEngine eng { x with run := some (r.stop 7) })
      else match cholInverse r.n (r.mat 0) with
        | none => .next (s.setEngine eng { x with run := some (r.stop 6) })
        | some z =>
          let d := s.draw
          let r1 : Refresh := { r.stop 1 with root := rootCodes (entRfmt r.entryB) z
                                              resid := some (BitVec.ofNat 32 d.1) }
          .next (d.2.setEngine eng { x with run := some r1 })
    | some st =>
      if installs st && r.dist != .ended then .next s
      else
        let iters := if r.method = 0 then 0 else r.k
        let s1 := (s.recordEnd eng r.post st iters r.resid).redirty r.post st
        let y := s1.engine eng
        .next ((s1.setEngine eng { y with run := none }).dropReplies r.post).settleRelease

/-- ROOT_DISTRIBUTE: a finished root goes down the tree of RGROUP to every member, once the home's free slot holds no
pending root of an earlier deadline; when every member has answered, a refusal withdraws it, and the refresh ends when
the withdrawals have been accepted (R210, 09 R292). -/
def execRootDistribute (eng : Nat) (s : State) : Res :=
  let x := s.engine eng
  match x.run with
  | none => .next s
  | some r =>
    match r.outcome, s.factor r.post.ctx r.post.fid with
    | some st, some f =>
      if !installs st then .next s
      else
        let c := r.post.ctx
        let k := r.post.block
        let gid := entRgroup r.entryB
        let live (l : List Nat) : List Nat := l.filter fun d => !(s.ctx c).failed.contains d
        let key := rootKey 1 r.post.fid k r.post.deadline (entRfmt r.entryB) s.fab.devid
        match r.dist with
        | .none =>
          let h := s.hdr c f k (s.rootFree c f k)
          if hdrValid h && hdrPending h then .next s
          else
            let hd := mkHdr (entSig r.entryB) r.post.deadline true true st (if r.method = 0 then 0 else r.k)
              (r.resid.getD 0)
            let s1 := s.controlMulticast c gid ctlRoot key (hd ++ codesBytes r.root)
            .next (s1.setEngine eng { x with run := some { r with dist := .sent (s.rootMembers c gid) } })
        | .sent ms =>
          let rs := s.rootReplies ctlRootReply r.post
          if !((live ms).all fun d => rs.any fun p => p.1 == d) then .next s
          else if rs.all fun p => p.2 then
            .next (s.setEngine eng { x with run := some { r with dist := .ended } })
          else
            .next ((s.controlMulticast c gid ctlRootDrop key []).setEngine eng
              { x with run := some { r with dist := .withdrawn ms } })
        | .withdrawn ms =>
          let rs := s.rootReplies ctlDropReply r.post
          if !((live ms).all fun d => rs.any fun p => p.1 == d) then .next s
          else .next (s.setEngine eng { x with run := some { r with dist := .ended, outcome := some 8 } })
        | .ended => .next s
    | _, _ => .next s

/-- The slot of a block tagged with a Milestone made invalid, and its install-list entry removed. -/
def State.dropRoot (s : State) (c fid k tag : Nat) : State :=
  match s.factor c fid with
  | none => s
  | some f =>
    let s1 := [0, 1].foldl (fun st i =>
      let h := st.hdr c f k i
      if hdrValid h && hdrTag h == tag then
        st.ctxWrite c (rootHdr f k i) (putRec h 16 1 (setFld (recN h 16 1) 0 1 0))
      else st) s
    { s1 with installs := s1.installs.filter fun x =>
        !(x.ctx == c && x.tag == tag && (x.addr == rootHdr f k 0 || x.addr == rootHdr f k 1)) }

/-- A member can deal with what was sent to it: not with a new root while its free slot holds one that is still pending
(R197, R210). -/
def State.rootOpen (s : State) (c : Nat) (x : Control) : Bool :=
  match x.key with
  | [mode, fid, k, _, _, _] =>
    x.kind != ctlRoot || mode == 0 || (match s.factor c fid with
      | some f =>
        let h := s.hdr c f k (s.rootFree c f k)
        !(hdrValid h && hdrPending h)
      | none => true)
  | _ => true

/-- ROOT_ACCEPT: the member takes the oldest root or withdrawal sent to it that it can deal with: an identity is written
at once, a new root is written pending and listed, or refused when the install list is full; a withdrawal clears its
slot. The home is answered (R194, R198, R210). -/
def execRootAccept (c : Nat) (s : State) : Res :=
  match s.fab.controls.find? fun x =>
      x.ctx == c && (x.kind == ctlRoot || x.kind == ctlRootDrop) && s.rootOpen c x with
  | none => .next s
  | some x =>
    let s0 : State := { s with fab := { s.fab with controls := s.fab.controls.erase x } }
    let data := ((x.inputs[0]?).map (·.2.2)).getD []
    match x.key with
    | [mode, fid, k, tag, rfmt, home] =>
      if x.kind = ctlRootDrop then .next ((s0.dropRoot c fid k tag).controlReply c home ctlDropReply [fid, k, tag] [1])
      else (match s0.factor c fid with
        | none => .next (s0.controlReply c home ctlRootReply [fid, k, tag] [0])
        | some f =>
          if mode = 0 then .next ((s0.writeIdentity c f k rfmt).controlReply c home ctlRootReply [fid, k, tag] [1])
          else if 8192 ≤ s0.installs.length then .next (s0.controlReply c home ctlRootReply [fid, k, tag] [0])
          else
            let i := s0.rootFree c f k
            let s1 := (s0.ctxWrite c (rootMat f k i) (data.drop 64)).ctxWrite c (rootHdr f k i) (data.take 64)
            let s2 : State := { s1 with installs := s1.installs ++ [⟨c, rootHdr f k i, tag, home⟩] }
            .next (s2.controlReply c home ctlRootReply [fid, k, tag] [1]))
    | _ => .next s0

/-- R27 action (4): PENDING is cleared in every listed slot with this TAG (R198); STALE of the entry of an
installed block is cleared. -/
def State.installRoots (s : State) (c m : Nat) : State :=
  let mine := s.installs.filter fun x => x.ctx == c && x.tag == m
  let s1 := mine.foldl (fun st x =>
    let h := st.peekD c x.addr 64
    st.ctxWrite c x.addr (putRec h 16 1 (setFld (recN h 16 1) 1 1 0))) s
  let hit (st : State) (b : Bytes) : Bool := match st.factor c (entFid b) with
    | some f => mine.any fun x => x.addr == rootHdr f (entBlock b) 0 || x.addr == rootHdr f (entBlock b) 1
    | none => false
  let clr (x : Engine) (i : Nat) (b : Bytes) : Bytes :=
    if Tbl.get 64 x.owner i == c && hit s1 b then setEntBit b 0 false else b
  let engines := s1.engines.mapv fun _ x => { x with table := x.table.mapv (clr x) }
  { s1 with installs := s1.installs.filter fun x => !(x.ctx == c && x.tag == m), engines := engines }

/-- The refresh of an engine stopped by a SOFT deadline (R208). -/
def Refresh.deadline (r : Refresh) : Refresh :=
  let e := r.entryB
  if r.outcome.isSome || entWait e then r
  else if r.method = 0 then r.stop 5
  else match r.resid with
    | some v =>
      let kk := if r.pending then r.k - 1 else r.k
      if !flt (tolOf (entItol e)) v then
        { r.stop 2 with root := rootCodes (entRfmt e) r.latest, k := kk, prods := [] }
      else { r.stop 3 with k := kk, prods := [] }
    | none => { r.stop 3 with k := 0, prods := [] }

/-- DEADLINE_ARRIVE: once every tile of the context has arrived at the next Milestone D, its SOFT refreshes
with that deadline stop and its SOFT posts that have not started end as STALE (R207 to R209). -/
def execDeadlineArrive (c : Nat) (s : State) : Res :=
  let x := s.ctx c
  let d := x.mstone + 1
  if !x.on || decide (d ≤ x.deadline) || !s.allArrived c d then .next s
  else
    let s1 := s.setCtx c { x with deadline := d }
    .next <| (List.range 16).foldl (fun st g =>
      let y := st.engine g
      let y1 : Engine := match y.run with
        | some r =>
          (if r.post.ctx == c && decide (r.post.deadline ≤ d) then { y with run := some (r.deadline) } else y)
        | none => y
      let late := y.queue.filter fun p => p.ctx == c && decide (p.deadline ≤ d)
        && !entWait (Tbl.get [] y.table p.entry)
      let y2 : Engine := { y1 with queue := y1.queue.filter fun p => !late.contains p }
      let y3 := late.foldl (fun z p => z.updEntry p.entry fun b => setEntBit b 2 false) y2
      late.foldl (fun q p => (q.recordEnd g p 3 0 none).redirty p 3) (st.setEngine g y3)) s1

/-- The solver conditions of R207 are open for the next Milestone. -/
def State.solverOpen (s : State) (c d : Nat) : Bool :=
  decide ((s.ctx c).deadline < d) || (List.range 16).any fun g =>
    let x := s.engine g
    (match x.run with
      | some r => r.post.ctx == c && decide (r.post.deadline ≤ d)
      | none => false)
    || x.queue.any fun p => p.ctx == c && decide (p.deadline ≤ d)

end Sys2Proof.Machine
end

