-- ==== Sys2Proof/Machine/Versions.lean ====
section
/-! DEFINITION. Version slots and versioned reads, Wayside pages and their frames (08_update_on_arrival R236
to R241; 11_memory_tiers R346 to R351). -/

namespace Sys2Proof.Machine

/-! ### Wayside records (Table 11.3) -/

/-- The 32 bytes of a page record with its address, none when the tensor has no such page. -/
def State.pageAt (s : State) (c : Nat) (x : Tensor) (p : Nat) : Option (Nat × Bytes) :=
  if x.pgf = 0 then none
  else match s.peek c ((s.ctx c).wpt + 16 * x.tid) 16 with
    | none => none
    | some t => if recN t 8 4 ≤ p then none
      else (s.peek c (recN t 0 8 + 32 * p) 32).map fun b => (recN t 0 8 + 32 * p, b)

def pgState (b : Bytes) : Nat := recN b 0 1
def pgRegion (b : Bytes) : Nat := recN b 1 1
def pgReadable (b : Bytes) : Bool := bit (recN b 2 1) 0
def pgHasOld (b : Bytes) : Bool := bit (recN b 2 1) 1
def pgFrame (b : Bytes) : Nat := recN b 4 2
def pgVtag (b : Bytes) : Nat := recN b 8 8
def pgRoff (b : Bytes) : Nat := recN b 16 8

/-- The page of a local ordinal. -/
def Tensor.pageOf (x : Tensor) (j : Nat) : Nat := j / x.pgf
/-- The number of pages that hold `n` fragments. -/
def Tensor.pages (x : Tensor) (n : Nat) : Nat := if x.pgf = 0 then 0 else ceilDiv n x.pgf

/-- The state of a page (Table 11.4); a page without a record is RESIDENT. -/
def State.pageState (s : State) (c : Nat) (x : Tensor) (p : Nat) : Nat :=
  match s.pageAt c x p with
  | none => 0
  | some b => pgState b.2

/-- The page of a local ordinal is away: its complete entries are logged (Table 11.4). -/
def State.awayAt (s : State) (c : Nat) (x : Tensor) (j : Nat) : Bool := s.pageState c x (x.pageOf j) != 0

/-- A page record written by the part: STATE, READABLE, HASOLD and VTAG. -/
def State.putPage (s : State) (c : Nat) (x : Tensor) (p st : Nat) (readable hasOld : Bool) (vtag : Nat) :
    State :=
  match s.pageAt c x p with
  | none => s
  | some r =>
    let b := putRec (putRec (putRec r.2 0 1 st) 2 1 (b2n readable + 2 * b2n hasOld)) 8 8 vtag
    s.ctxWrite c r.1 b

/-- The page that owns a frame: TID and page, none when the frame is free. -/
def State.frameOwner (s : State) (c f : Nat) : Option (Nat × Nat) :=
  let b := s.peekD c ((s.ctx c).wft + 8 * f) 8
  if recN b 0 4 = 2 ^ 32 - 1 then none else some (recN b 0 4, recN b 4 4)
/-- A frame entry written. -/
def State.putFrame (s : State) (c f : Nat) (o : Option (Nat × Nat)) : State :=
  s.ctxWrite c ((s.ctx c).wft + 8 * f) (match o with
    | none => leBytes 4 (2 ^ 32 - 1) ++ leBytes 4 0
    | some p => leBytes 4 p.1 ++ leBytes 4 p.2)

/-! ### Versioned reads (R238 to R241, Table 8.6) -/

/-- What a versioned read meets. -/
inductive Gate where
  | go | hold | version
deriving DecidableEq, Repr

/-- The slots of a tensor met by a read that claims step `m` on a device at Milestone `n` (Table 8.6); a
frozen tensor's reads all read slot 0 (R241). -/
def Tensor.gate (x : Tensor) (n m : Nat) : Gate :=
  if x.frozen then .go
  else if m = n then (if x.slotSt (n % 2) = 1 ∧ x.tag (n % 2) = n then .go else .version)
  else if m = n + 1 then (if x.slotSt (m % 2) = 4 ∧ x.tag (m % 2) = m then .go else .hold)
  else if m + 1 = n then (if x.slotSt (m % 2) = 2 ∧ x.tag (m % 2) = m then .go else .version)
  else .version

/-- A range of bytes meets another. -/
def meets (a n b k : Nat) : Bool := decide (a < b + k) && decide (b < a + n)

/-- The pages of a tensor whose master or working range, in either slot, meets one of the accesses (R351). -/
def State.pagesTouched (s : State) (c : Nat) (x : Tensor) (rows : List (Nat × Nat)) : List Nat :=
  (List.range (x.pages (s.heldFrags c x).length)).filter fun p =>
    rows.any fun r => [0, 1].any fun k =>
      meets r.1 r.2 (x.maddr k + 16384 * (p * x.pgf)) (16384 * x.pgf)
        || meets r.1 r.2 (x.waddr k + x.wbytes * (p * x.pgf)) (x.wbytes * x.pgf)

/-- A page met by a read that claims step `m` (Table 11.4, R351); the one version of a frozen tensor serves every step
(R241). -/
def State.pageGate (s : State) (c n m : Nat) (x : Tensor) (p : Nat) : Gate :=
  match s.pageAt c x p with
  | none => .go
  | some r =>
    if x.frozen then (if pgState r.2 < 2 || (pgState r.2 == 3 && pgReadable r.2) then .go else .hold)
    else match pgState r.2 with
    | 0 => if m + 1 = n ∧ !pgHasOld r.2 then .version else .go
    | 1 => if m = n then .go else .hold
    | 2 => .hold
    | _ => if pgReadable r.2 && (m == n || (m + 1 == n && pgHasOld r.2)) then .go else .hold

/-- The worse of two gates: VERSION before a hold. -/
def Gate.join : Gate → Gate → Gate
  | .version, _ => .version
  | _, .version => .version
  | .hold, _ => .hold
  | _, .hold => .hold
  | .go, .go => .go

/-- A versioned read of tensor TID that claims step `m` and touches the given ranges: none when the tensor
has no valid record (R149). In a Switchback step a read that claims it, the step before it or the one after raises
VERSION (10 R329). -/
def State.versioned (s : State) (c tid m : Nat) (rows : List (Nat × Nat)) : Option Gate :=
  (s.tensor c tid).map fun x =>
    let w := s.weightsOf c
    let n := (s.ctx w).mstone
    if (s.ctx w).switchStep == some n && (m == n || m == n + 1 || m + 1 == n) then .version
    else (s.pagesTouched w x rows).foldl (fun g p => g.join (s.pageGate w n m x p)) (x.gate n m)

/-! ### Slot transitions (Table 8.5) -/

/-- One more local fragment of step `n`, of ordinal `j`, written (R237). -/
def State.countWritten (s0 : State) (c : Nat) (x0 : Tensor) (n j : Nat) : State :=
  let y := s0.ctx c
  let s := s0.setCtx c { y with applied := y.applied ++ [(x0.tid, j)] }
  match s.tensor c x0.tid with
  | none => s
  | some x =>
    let b := (n + 1) % 2
    let k := if x.slotSt b = 3 then x.written + 1 else 1
    let total := (s.heldFrags c x).length
    s.putTensor c ((x.setSlot b (if total ≤ k then 4 else 3) (n + 1)).setWritten k)

/-- Slot b made VOID by the discard of step `n` (Table 8.5). -/
def State.voidSlot (s : State) (c n : Nat) (x : Tensor) : State :=
  let b := (n + 1) % 2
  s.putTensor c ((x.setSlot b 0 (x.tag b)).setWritten 0)

/-- The commit of a tensor at Milestone `m` (R27 action (1), Table 8.5). -/
def State.commitTensor (s : State) (c m : Nat) (x : Tensor) : State :=
  let b := m % 2
  if x.frozen || x.slotSt b != 4 then s
  else
    let y := x.setSlot (1 - b) 2 (x.tag (1 - b))
    let z := (y.setSlot b 1 m).setWritten 0
    s.putTensor c { z with b := putRec z.b 112 8 m }

/-! ### Step parameters (R232) -/

/-- The ring entry of a step when it carries its tag. -/
def State.stepParams (s : State) (c n : Nat) : Option Bytes :=
  match s.peek c ((s.ctx c).paramBase + 1040 * (n % 16)) 1040 with
  | some b => if recN b 0 8 = n then some b else none
  | none => none

/-- η, λ and CLIP of a group. -/
def paramEta (b : Bytes) (g : Nat) : W32 := BitVec.ofNat 32 (recN b (16 + 16 * (g % 64)) 4)
def paramLam (b : Bytes) (g : Nat) : W32 := BitVec.ofNat 32 (recN b (20 + 16 * (g % 64)) 4)
def paramClip (b : Bytes) (g : Nat) : W32 := BitVec.ofNat 32 (recN b (24 + 16 * (g % 64)) 4)

/-- CHAT from NORM and CLIP (R235). -/
def chatOf (x : Tensor) (clip : W32) : W32 :=
  if !x.clipEn || !isFin32 clip || signOf clip || isZero32 clip || !isFin32 x.norm || isZero32 x.norm then one32
  else (fminimum one32 (fdivC clip x.norm)).v

/-- CHAT of step `n` formed for every tensor of the job, once the ring entry carries its tag (R235). -/
def State.formChats (s : State) (c : Nat) : State :=
  match (s.ctx c).job with
  | none => s
  | some j =>
    if !j.chatDue then s
    else match s.stepParams c j.mstone with
      | none => s
      | some b =>
        let s1 := (s.jobTensors c).foldl (fun st x =>
          if x.frozen then st
          else
            let y : Tensor := { x with b := putRec x.b 108 4 (chatOf x (paramClip b x.pgroup)).toNat }
            let st1 := st.putTensor c y
            if isFin32 x.norm then st1 else st1.ev 0x080 0 [c]) s
        let z := s1.ctx c
        s1.setCtx c { z with job := z.job.map fun k => { k with chatDue := false } }

/-- CHAT formed for every job whose ring entry carries its tag by now (R235). -/
def State.settleChats (s : State) : State := s.jobCtxs.foldl (fun st c => st.formChats c) s

/-! ### What software writes in HBM (00 R5, 08 R240) -/

/-- The device addresses of the committed slots: of every job's tensors the master and working copy of the CURRENT slot,
where their page is not away. -/
def State.committed (s : State) : List (Nat × Nat) :=
  s.jobCtxs.flatMap fun c => (s.jobTensors c).flatMap fun x =>
    ([0, 1].filter fun k => if x.frozen then k == 0 else x.slotSt k == 1).flatMap fun k =>
      ((List.range (s.heldFrags c x).length).filter fun j => x.pgf == 0 || decide (s.pageState c x (x.pageOf j) < 2)).flatMap
        fun j => [(x.maddr k + 16384 * j, 16384), (x.waddr k + x.wbytes * j, x.wbytes)].filterMap fun r =>
          (s.xlate c r.1 r.2 false).map fun a => (a, r.2)

/-- Bytes at an address cut into the stretches that lie outside some ranges. -/
def outside (rs : List (Nat × Nat)) : Nat → Bytes → List (Nat × Bytes)
  | _, [] => []
  | a, b :: bs =>
    let rest := outside rs (a + 1) bs
    if rs.any fun r => decide (r.1 ≤ a) && decide (a < r.1 + r.2) then rest
    else match rest with
      | (k, l) :: more => if k = a + 1 then (a, b :: l) :: more else (a, [b]) :: rest
      | [] => [(a, [b])]

/-- Bytes of software written at a device address: a committed slot stays as it is (00 R5; DESIGN CHOICE, log 114). -/
def State.dataWrite (s : State) (a : Nat) (bs : Bytes) : State :=
  let rs := s.committed.filter fun r => meets r.1 r.2 a bs.length
  (if rs.isEmpty then s.hbmWrite a bs else (outside rs a bs).foldl (fun st p => st.hbmWrite p.1 p.2) s).settleChats

/-- Bytes of software written at a context address; nothing when it does not translate. -/
def State.ctxStore (s : State) (c a : Nat) (bs : Bytes) : State :=
  match s.xlate c a bs.length true with
  | some d => s.dataWrite d bs
  | none => s

end Sys2Proof.Machine
end

