-- ==== Sys2Proof/Machine/Move.lean ====
section
/-! DEFINITION. The move engine: moves between tile stores, HBM, host memory and peer HBM, versioned reads
that are held, stage-queue sends and receives, and the moves of installed roots (05_instruction_set R148,
R149; 07_root_solver R197; 10_parallel_mapping R319 to R322; 11_memory_tiers R345, R351). -/

namespace Sys2Proof.Machine

/-! ### The ends of a move -/

/-- The rows of an end: address and length. -/
def rowsOf (a pitch rows n : Nat) : List (Nat × Nat) := (List.range rows).map fun i => (a + i * pitch, n)

/-- The last row of an end in tile store lies in the store. -/
def storeRowsOk (a pitch rows n : Nat) : Bool := decide (a + (rows - 1) * pitch + n ≤ storeSize)

/-- One end of a move is inside what the context may reach (Table 5.11, R340, R128, R444). -/
def State.endOk (s : State) (e : Env) (space a pitch rows n : Nat) (vts : List Nat) (write : Bool) : Bool :=
  match space with
  | 0 => storeRowsOk a pitch rows n
  | 1 => storeRowsOk a pitch rows n && vts.all (s.vtOk e)
  | 2 => (List.range rows).all fun i => (s.xlate e.c (a + i * pitch) n write).isSome
  | 3 => (List.range rows).all fun i => s.hostOk (a + i * pitch) n write
  | _ => true

/-! ### Stage queues (R319 to R321) -/

/-- The entry of an endpoint's queue in the installed map. -/
def State.queueEntry (s : State) (x : Endpoint) : Option Bytes :=
  ((s.smap x.ctx).bind fun m => s.queueEntries x.ctx m).bind fun qs => qs[x.qidx]?

/-- DEPTH, SLOT and BASE of a queue entry. -/
def qDepth (b : Bytes) : Nat := recN b 4 4
def qSlot (b : Bytes) : Nat := recN b 8 4
def qBase (b : Bytes) : Nat := recN b 16 8

/-- The endpoint that a move acts on: the first of the context with this role whose range holds the
address. DEDUCED, log 56. -/
def State.endpointFor (s : State) (c : Nat) (receiver : Bool) (a : Nat) : Option (Nat × Bytes) :=
  (List.range 64).findSome? fun k =>
    let x := Tbl.get {} s.fab.endpoints k
    if x.valid && x.ctx == c && x.receiver == receiver then
      (s.queueEntry x).bind fun b =>
        if qBase b ≤ a ∧ a < qBase b + qDepth b * qSlot b then some (k, b) else none
    else none

/-- An endpoint. -/
def State.endpoint (s : State) (k : Nat) : Endpoint := Tbl.get {} s.fab.endpoints k
/-- An endpoint replaced. -/
def State.setEndpoint (s : State) (k : Nat) (x : Endpoint) : State :=
  { s with fab := { s.fab with endpoints := Tbl.set s.fab.endpoints k x } }
/-- Sends minus returned credits; at a receiver, slots written minus receives completed (R321). -/
def Endpoint.occ (x : Endpoint) : Nat := x.sends - x.credits

/-- A slot more is occupied, and HIGH follows (R336). -/
def Endpoint.send (x : Endpoint) : Endpoint :=
  { x with sends := x.sends + 1, high := max x.high (x.sends + 1 - x.credits), stalled := false }

/-- What a queue send or receive meets: not a queue's, out of order, to wait, or to go on. -/
inductive QueueAct where
  | none
  | order
  | wait (endpoint : Nat)
  | go (endpoint : Nat)
deriving DecidableEq, Repr

/-- Receives of an endpoint that have issued: those completed and those in flight. -/
def State.receivesBegun (s : State) (k : Nat) : Nat :=
  (s.endpoint k).credits + (s.flight.filter fun f => f.endpoint == some k).length

/-- A queue send (R320, R321). -/
def State.sendAct (s : State) (c : Nat) (m : Move) : QueueAct :=
  if m.dstSpace ≠ 4 then .none
  else match s.endpointFor c false m.dst with
    | none => .none
    | some p =>
      let x := s.endpoint p.1
      if (m.dst - qBase p.2) / qSlot p.2 ≠ x.sends % qDepth p.2 then .order
      else if qDepth p.2 ≤ x.occ then .wait p.1 else .go p.1

/-- A queue receive (R320, R321). -/
def State.receiveAct (s : State) (c : Nat) (m : Move) : QueueAct :=
  if m.srcSpace ≠ 2 then .none
  else match s.endpointFor c true m.src with
    | none => .none
    | some p =>
      let k := s.receivesBegun p.1
      if (m.src - qBase p.2) / qSlot p.2 ≠ k % qDepth p.2 then .order
      else if (s.endpoint p.1).sends ≤ k then .wait p.1 else .go p.1

/-- A send that goes on is counted; a receive that goes on waits no longer (R321). -/
def State.sendBegun (s : State) (a : QueueAct) : State :=
  match a with
  | .go k => s.setEndpoint k (s.endpoint k).send
  | _ => s
def State.receiveBegun (s : State) (a : QueueAct) : State :=
  match a with
  | .go k => s.setEndpoint k { s.endpoint k with stalled := false }
  | _ => s
/-- The endpoint with which a move goes on. -/
def QueueAct.endpoint (a : QueueAct) : Option Nat :=
  match a with
  | .go k => some k
  | _ => Option.none

/-- A credit of a stage queue returned to its sender (R321). -/
def State.queueCredit (s : State) (k : Nat) : State :=
  let x := s.endpoint k
  if x.valid && !x.receiver && decide (x.credits < x.sends) then s.setEndpoint k { x with credits := x.credits + 1 }
  else s

/-- A receive has completed: the receiver's count, and the credit on VC1 toward the sender. -/
def State.receiveDone (s : State) (k : Nat) : State :=
  let x := s.endpoint k
  let s1 := s.setEndpoint k { x with credits := x.credits + 1 }
  match s.smap x.ctx, s.queueEntry x with
  | some m, some b =>
    let dev := s.standIn x.ctx (m.devOf (recN b 0 2))
    if dev = s.fab.devid then
      (match (List.range 64).find? fun j =>
        let y := s1.endpoint j
        y.valid && !y.receiver && y.ctx == x.ctx && y.qidx == x.qidx with
      | some j => s1.queueCredit j
      | none => s1)
    else s1.sendFrame { ty := 6, vc := 1, dst := dev, job := m.job, epoch := s1.jobEpoch x.ctx, last := true,
                        msg := some (.credit x.qidx) }
  | _, _ => s1

/-- QUEUE_CREDIT_RETURN: the credit of a completed receive reaches the sender's endpoint (R321). -/
def execQueueCreditReturn (k : Nat) (s : State) : Res := .next (s.queueCredit k)

/-! ### Reading and writing rows -/

/-- The requester code of the move engine at a tile store: its own, or the mesh (Table 4.1). -/
def moveReq (e : Env) (t : Nat) (write : Bool) : Nat := if t = e.t then 6 else if write then 3 else 2

/-- The state, the rows read and whether one was uncorrectable. -/
structure MoveRd where
  s : State
  rows : List Bytes
  ue : Bool

/-- The rows of a source in tile store or HBM read in order. -/
def State.readLocal (s : State) (e : Env) (m : Move) : MoveRd :=
  (List.range m.rows).foldl (fun (a : MoveRd) i =>
    let ad := m.src + i * m.spitch
    if m.srcSpace = 2 then match a.s.ctxRead e.c ad m.rowbytes with
      | some r => ⟨r.s, a.rows ++ [r.bytes], a.ue || r.ue⟩
      | none => ⟨a.s, a.rows ++ [[]], a.ue⟩
    else
      let t := if m.srcSpace = 0 then e.t else a.s.physD e.c m.srcVt
      let r := a.s.storeRead t (moveReq e t false) ad m.rowbytes
      ⟨r.s, a.rows ++ [r.bytes], a.ue || r.ue⟩) ⟨s, [], false⟩

/-- Rows with their indices; a row that could not be read is left out. -/
def numbered (l : List Bytes) : List (Nat × Bytes) := (List.range l.length).zip l

/-- Rows written to a destination in tile stores or HBM (R149). -/
def State.writeLocal (s : State) (e : Env) (m : Move) (rows : List (Nat × Bytes)) : State :=
  if m.dstSpace = 2 then
    rows.foldl (fun st r => st.ctxStore e.c (m.dst + r.1 * m.dpitch) r.2) s
  else
    (m.dstTiles e.v).foldl (fun st v =>
      let t := if m.dstSpace = 0 then e.t else st.physD e.c v
      rows.foldl (fun st2 r => st2.storeWrite t (moveReq e t true) (m.dst + r.1 * m.dpitch) r.2) st) s

/-- The device of a peer HBM address of a move: the receiver of the stage queue, else one that the spec does
not state (free, log 53); the stand-in of one that has failed (13 R408). -/
def State.peerOf (s : State) (c a : Nat) : Nat × Option Nat :=
  match s.endpointFor c false a with
  | some p =>
    let x := s.endpoint p.1
    ((((s.smap c).map fun m => s.standIn c (m.devOf (recN p.2 2 2)))).getD s.fab.devid, some x.qidx)
  | none => (s.standIn c (Config.peerDev a), none)

/-- The key of a move among the requests. -/
def Flight.key (f : Flight) : List Nat := [0, f.vt, f.queue, f.seq]

/-- An access of one row of a move to host memory or peer HBM begun. -/
def State.farRow (s : State) (f : Flight) (space i a n : Nat) (write : Bool) (data : Bytes) (peer : Nat)
    (queue : Option Nat) (last : Bool) : State :=
  if space = 3 then s.hostAccess f.ctx (f.key ++ [i]) a n write data
  else s.peerAccess f.ctx (f.key ++ [i]) peer a n write data queue last

/-- The place of an instruction in flight. -/
def State.envAt (s : State) (f : Flight) : Env :=
  { t := s.physD f.ctx f.vt, q := f.queue, c := f.ctx, v := f.vt, qu := s.queue f.ctx f.vt f.queue, w := 0 }

/-- The status that failed requests of a move give (R345, R444). -/
def farStatus (l : List Remote) : Nat :=
  match l with
  | [] => 0
  | r :: _ => if r.host then 0x22 else 0x21

/-- The rows of a move written: at once to tile stores and HBM, by requests otherwise; what the move still
waits for. -/
def State.moveWrite (s : State) (f : Flight) (d : Bytes) (rows : List (Nat × Bytes)) : State × Work :=
  let m := moveOf d
  if m.dstSpace < 3 then (s.writeLocal (s.envAt f) m rows, .done)
  else
    let peer := s.peerOf f.ctx m.dst
    (rows.foldl (fun st r => st.farRow f m.dstSpace r.1 (m.dst + r.1 * m.dpitch) m.rowbytes true r.2 peer.1 peer.2
      (r.1 + 1 == m.rows)) s, .moving d true)

/-- The tiles that receive words of a move over the mesh (13 R393). -/
def State.moveMesh (s : State) (e : Env) (m : Move) : List Nat :=
  (if m.srcSpace = 1 ∧ s.physD e.c m.srcVt ≠ e.t then [e.t] else [])
    ++ (if m.dstSpace = 1 then ((m.dstTiles e.v).map (s.physD e.c)).filter (· != e.t) else [])

/-- A move that may run: its source is read, or its requests go out (R149); mesh words that an upset struck are met
(13 R393). -/
def State.moveRun (s : State) (f : Flight) (d : Bytes) (upset : Upset) : State × Flight :=
  let m := moveOf d
  if m.srcSpace < 3 then
    let e := s.envAt f
    let r := s.readLocal e m
    let x := r.s.meshWords (r.s.moveMesh e m) upset.mesh
    let w := x.1.moveWrite f d (numbered r.rows)
    (w.1, { f with work := w.2, poison := f.poison || r.ue || x.2 })
  else
    let peer := s.peerOf f.ctx m.src
    ((List.range m.rows).foldl (fun st i =>
      st.farRow f m.srcSpace i (m.src + i * m.spitch) m.rowbytes false [] peer.1 none false) s,
      { f with work := .moving d false })

/-- The tiles whose stores a move reaches are in RUN (16 R474). -/
def State.tilesRun (s : State) (c own : Nat) (m : Move) : Bool :=
  let vs := (if m.srcSpace = 1 then [m.srcVt] else []) ++ m.dstTiles own
  vs.all fun v => (s.tile (s.physD c v)).runs

/-- The gate of a versioned move; an ordinary move has none (R149, R351). -/
def State.moveGate (s : State) (c : Nat) (m : Move) : Option Gate :=
  if bit m.flags 1 then
    s.versioned c m.tid m.mstone (if m.srcSpace = 2 then rowsOf m.src m.spitch m.rows m.rowbytes else [])
  else some .go

/-- A move that has issued runs, or is held: for a tile that is not in RUN, or behind an earlier move of its queue from
the same tile to the same tile (01 R21, 16 R474). -/
def State.moveTry (s : State) (f : Flight) (d : Bytes) (upset : Upset) : State × Flight :=
  let m := moveOf d
  if s.tilesRun f.ctx f.vt m
      && !(m.dstTiles f.vt).any fun v => s.owedBefore f.ctx f.vt f.queue f.seq (m.srcTile f.vt) v then
    s.moveRun f d upset
  else (s, { f with work := .post d })

/-- A move that issues: its flight record with the descriptor's status word. -/
def moveGo (e : Env) (s : State) (d : Bytes) (ep : Option Nat) (ue : Bool) (status : Option Nat) (upset : Upset) : Act :=
  let m := moveOf d
  let f0 := { e.flight with posted := true, statusAt := some m.status, poison := ue, endpoint := ep }
  match status with
  | some v => .go s (fun _ => { f0 with status := v }) Queue.advance
  | none =>
    let r := s.moveTry f0 d upset
    .go r.1 (fun _ => r.2) Queue.advance

/-- MOV (R149). A versioned move whose version is not there yet waits at issue, in STATE 0b10 (08 Table 8.17), and so
does one whose tiles are not in RUN, so that no version changes between the two (DEDUCED, log 47). -/
def bodyMov (upset : Upset) (e : Env) (s : State) : Act :=
  s.post e fun s0 d ue =>
    let m := moveOf d
    Act.when (!moveOk d) xDescriptor <|
    Act.when (decide (storeSize < m.status + 8)
      || !s0.endOk e m.srcSpace m.src m.spitch m.rows m.rowbytes [m.srcVt] false
      || !s0.endOk e m.dstSpace m.dst m.dpitch m.rows m.rowbytes (m.dstTiles e.v) true
      || (s0.moveGate e.c m).isNone) xAccess <|
    Act.when (s0.moveGate e.c m == some .version) xVersion <|
    if s0.moveGate e.c m == some .hold then .wait (.version d)
    else if bit m.flags 1 && !s0.tilesRun e.c e.v m then .wait .unit
    else
    match s0.sendAct e.c m, s0.receiveAct e.c m with
    | .order, _ => moveGo e s0 d none ue (some 0x20) upset
    | _, .order => moveGo e s0 d none ue (some 0x20) upset
    | .wait k, _ => .wait (.send k)
    | _, .wait k => .wait (.receive k)
    | a, b => moveGo e ((s0.sendBegun a).receiveBegun b) d b.endpoint ue none upset

/-- STALLED of the endpoint at which a queue waits (R336). -/
def State.noteStall (s : State) (i : Issue) : State :=
  match (s.issueEnv i).map fun e => ((s.queue e.c e.v e.q).st, (s.queue e.c e.v e.q).waits) with
  | some (.waiting, .send k) => s.setEndpoint k { s.endpoint k with stalled := true }
  | some (.waiting, .receive k) => s.setEndpoint k { s.endpoint k with stalled := true }
  | _ => s

/-- MOV (R148, R149). The command may name mesh words that an upset struck (13 R393). -/
def execMov (m : MoveIssue) (s : State) : Res := .next ((s.issue 3 0 m.i (bodyMov m.upset)).noteStall m.i)

/-! ### MROOT (R197) -/

/-- Block and column offset in SRC of an MROOT: block in bits 31:0, column in bits 63:32 (DESIGN CHOICE,
log 52). -/
def mrootBlock (src : Nat) : Nat := fld src 0 32
def mrootCol (src : Nat) : Nat := fld src 32 32

/-- The move that an MROOT makes of its descriptor: from the selected slot in the factor store. -/
def mrootMove (f d : Bytes) (slot : Nat) : Bytes :=
  let src := recN d 0 8
  let d1 := putRec d 0 8 (rootMat f (mrootBlock src) slot + 2 * mrootCol src)
  let d2 := putRec d1 32 1 2
  putRec d2 36 1 (setFld (recN d 36 1) 1 1 0)

/-- MROOT: held until the Milestone of its step has completed; it reads the installed root (R197). -/
def bodyMroot (upset : Upset) (e : Env) (s : State) : Act :=
  if (s.ctx e.c).mstone < e.qu.step then .wait (.mstone e.qu.step)
  else s.post e fun s0 d ue =>
    let m := moveOf d
    Act.when (!moveOk d) xDescriptor <|
    match s0.factor e.c m.tid with
    | none => .exc xAccess
    | some f =>
      let k := mrootBlock m.src
      let n := facSize f k
      Act.when (decide (storeSize < m.status + 8) || decide (facBlocks f ≤ k)
        || decide (2 * n * n < (m.rows - 1) * m.spitch + 2 * mrootCol m.src + m.rowbytes)
        || !s0.endOk e m.dstSpace m.dst m.dpitch m.rows m.rowbytes (m.dstTiles e.v) true) xAccess <|
      match s0.rootSel e.c f k e.qu.step with
      | none => .exc xVersion
      | some i =>
        let d1 := mrootMove f d i
        let m1 := moveOf d1
        Act.when (!s0.endOk e 2 m1.src m1.spitch m1.rows m1.rowbytes [] false) xAccess <|
          moveGo e s0 d1 none ue none upset

/-- MROOT (R197). -/
def execMroot (m : MoveIssue) (s : State) : Res := .next (s.issue 3 1 m.i (bodyMroot m.upset))

/-! ### Held moves -/

/-- A flight record replaced by one whose work has gone on. -/
def State.putFlight (s : State) (f g : Flight) : State :=
  { s with flight := s.flight.map fun h => if h == f then g else h }

/-- The digest of a move whose source is host memory is kept for the step record (13 R416). -/
def State.noteInput (s : State) (f : Flight) (m : Move) (rows : List (Nat × Bytes)) : State :=
  if m.srcSpace = 3 then
    let x := s.ctx f.ctx
    let e := (f.step, f.vt, f.queue, f.seq, sha3_512 (rows.flatMap (·.2)))
    s.setCtx f.ctx { x with recov := { x.recov with inputs := x.recov.inputs ++ [e] } }
  else s

/-- A move in flight goes on as far as it can: a held one runs, one whose reads have been answered writes,
and one whose writes have been answered is done (R149, R345, R444). -/
def State.moveStep (s : State) (f : Flight) : State :=
  match f.work with
  | .post d =>
    let r := s.moveTry f d {}
    r.1.putFlight f r.2
  | .moving d false =>
    if !s.remoteOver f.ctx f.key then s
    else
      let m := moveOf d
      let bad := s.remoteFails f.ctx f.key
      let rows := (List.range m.rows).filterMap fun i =>
        if bad.any fun r => r.key == f.key ++ [i] then none
        else some (i, s.remoteData f.ctx (f.key ++ [i]))
      let s1 := (s.dropRemotes f.ctx f.key).noteInput f m rows
      let w := s1.moveWrite f d rows
      w.1.putFlight f { f with work := w.2, status := farStatus bad }
  | .moving _ true =>
    if !s.remoteOver f.ctx f.key then s
    else
      let bad := s.remoteFails f.ctx f.key
      (s.dropRemotes f.ctx f.key).putFlight f
        { f with work := .done, status := if f.status = 0 then farStatus bad else f.status }
  | _ => s

end Sys2Proof.Machine
end

