-- ==== Sys2Proof/Machine/Collectives.lean ====
section
/-! DEFINITION. Collective posts: their checks, their trees and exchanges, streams, empty contributions and
the management-assisted path (09_causeway_collectives R277 to R294).
Assumption log: log 43 (DEDUCED), log 54 (DESIGN CHOICE), log 57 (DESIGN CHOICE), log 59 (DEDUCED). -/

namespace Sys2Proof.Machine

/-! ### Collective descriptors (Table 9.8) -/

def cOp (d : Bytes) : Nat := recN d 0 1
def cFixed (d : Bytes) : Bool := bit (recN d 1 1) 0
def cSend (d : Bytes) : Bool := bit (recN d 1 1) 1
def cRed (d : Bytes) : Nat := fld (recN d 1 1) 4 2
def cEfmt (d : Bytes) : Nat := recN d 2 1
/-- The wire format's element code. -/
def cWire (d : Bytes) : Nat := match fld (recN d 1 1) 2 2 with | 0 => 0 | 1 => 3 | 2 => 1 | _ => cEfmt d
def cSrcHbm (d : Bytes) : Bool := bit (recN d 3 1) 0
def cDstHbm (d : Bytes) : Bool := bit (recN d 3 1) 1
def cGroup (d : Bytes) : Nat := recN d 4 2
def cPeer (d : Bytes) : Nat := recN d 6 2
def cSrc (d : Bytes) : Nat := recN d 8 8
def cDst (d : Bytes) : Nat := recN d 16 8
def cCount (d : Bytes) : Nat := recN d 24 4
def cUnit (d : Bytes) : Nat := recN d 28 4
def cTaddr (d : Bytes) : Nat := recN d 32 8
def cRaddr (d : Bytes) : Nat := recN d 40 8
def cEpoch (d : Bytes) : Nat := recN d 48 4
def cTid (d : Bytes) : Nat := recN d 52 4
def cFlow (d : Bytes) : Nat := fld (recN d 52 4) 0 12
def cStatus (d : Bytes) : Nat := recN d 56 4
def cFidx (d : Bytes) : Nat := recN d 60 4

def opAllreduce : Nat := 0
def opReduceScatter : Nat := 1
def opAllgather : Nat := 2
def opAlltoallv : Nat := 3
def opExpert : Nat := 4
def opPermute : Nat := 5
def opReduce : Nat := 6
def opStream : Nat := 7
def opFragEmpty : Nat := 8

/-- The reserved values of a collective descriptor. -/
def cpostOk (d : Bytes) : Bool :=
  decide (cOp d ≤ 8) && fld (recN d 1 1) 6 2 == 0 && cRed d != 3 && decide (cEfmt d < 15)
    && fld (recN d 3 1) 2 6 == 0 && (cOp d != 8 || cUnit d != 0)

/-- The collective reduces. -/
def cReduces (d : Bytes) : Bool := cOp d == 0 || cOp d == 1 || cOp d == 6

/-- The bytes of `n` elements of a format. -/
def elemBytes (code n : Nat) : Nat := ceilDiv (n * fmtWidth code) 8
/-- Elements in one unit of a scattered reduction. -/
def cUnitElems (d : Bytes) : Nat := cUnit d * 8 / max 1 (fmtWidth (cEfmt d))
/-- The elements of a reduction. -/
def cElems (d : Bytes) : Nat := if cOp d = 1 then cCount d * cUnitElems d else cCount d

/-- First element and number of elements of the tree rooted at a rank (R284). -/
def cTree (d : Bytes) (g root : Nat) : Nat × Nat :=
  if cOp d = 1 then (shareO (cCount d) g root * cUnitElems d, shareN (cCount d) g root * cUnitElems d)
  else (0, cCount d)

/-- The sum of a table of counts of 4 bytes: entries `lo` to `lo + n - 1`. -/
def countAt (t : Bytes) (i : Nat) : Nat := recN t (4 * i) 4
def countSum (t : Bytes) (lo n : Nat) : Nat := ((upTo lo n).map (countAt t)).foldl (· + ·) 0

/-! ### Reading and writing the spaces of a descriptor -/

/-- A range in tile store or context HBM. -/
def State.rangeOk (s : State) (c : Nat) (hbm : Bool) (a n : Nat) (write : Bool) : Bool :=
  n == 0 || (if hbm then (s.xlate c a n write).isSome else decide (a + n ≤ storeSize))

/-- A range read: HBM of the context, or the tile store by the Causeway engine. Of Table 4.1's requesters only the
mesh's read-out for another tile fits a send, so a source in the tile's own store logs code 2 too (R123; DESIGN CHOICE,
log 51). -/
def State.readRange (s : State) (c t : Nat) (hbm : Bool) (a n : Nat) : Rd :=
  if hbm then (s.ctxRead c a n).getD ⟨s, List.replicate n 0, false⟩ else s.storeRead t 2 a n
/-- A range written. -/
def State.writeRange (s : State) (c t : Nat) (hbm : Bool) (a : Nat) (bs : Bytes) : State :=
  if bs.isEmpty then s else if hbm then s.ctxStore c a bs else s.storeWrite t 3 a bs

/-- Bytes written at an offset of a collective's DST. -/
def State.writeDst (s : State) (k : Coll) (o : Nat) (bs : Bytes) : State :=
  s.writeRange k.ctx (s.physD k.ctx k.vt) (cDstHbm k.desc) (cDst k.desc + o) bs

/-! ### Collectives in progress -/

/-- The same collective: one rank's post with its CSEQ on a group. -/
def Coll.same (k j : Coll) : Bool :=
  k.ctx == j.ctx && cGroup k.desc == cGroup j.desc && k.cseq == j.cseq && k.rank == j.rank
/-- A collective in progress replaced. -/
def State.setColl (s : State) (k : Coll) : State :=
  { s with fab := { s.fab with colls := s.fab.colls.map fun j => if j.same k then k else j } }
/-- A collective in progress found again. -/
def State.getColl (s : State) (k : Coll) : Option Coll := s.fab.colls.find? fun j => j.same k

/-- The flight record of a post. -/
def State.flightOf (s : State) (c v q seq : Nat) : Option Flight :=
  s.flight.find? fun f => f.ofQueue c v q && f.seq == seq

/-- A post's work ends with a status; it is poisoned when a word it read was uncorrectable (04 R106). -/
def State.endPost (s : State) (c v q seq status : Nat) (ue : Bool := false) : State :=
  match s.flightOf c v q seq with
  | some f => s.putFlight f { f with work := .done, status := status, poison := f.poison || ue }
  | none => s

/-- A collective completes: its status, its flow entry released; a PERMUTE of a Switchback is counted (R289,
R293, 10 R330). -/
def State.collDone (s : State) (k : Coll) (count : Nat) : State :=
  let code := if k.e2eFail then 5 else if k.entry.isNone then 1 else 0
  let s1 : State := { s with fab := { s.fab with colls := s.fab.colls.filter fun j => !j.same k } }
  let s2 := s1.endPost k.ctx k.vt k.queue k.seq (code + count * 2 ^ 32) k.ue
  if cOp k.desc = opPermute then
    let x := s2.ctx k.ctx
    s2.setCtx k.ctx { x with permutes := x.permutes + 1 }
  else s2

/-- The group of a collective: its members with stand-ins, and its fan-out. -/
def State.collGroup (s : State) (k : Coll) : Group := (s.group k.ctx (cGroup k.desc)).getD ⟨[s.fab.devid], 2⟩

/-- A transfer of a collective to a rank: DATA frames, or MGMT frames on the management-assisted path (R294,
Table 9.3). -/
def State.collSend (s : State) (k : Coll) (vc rank off : Nat) (bs : Bytes) : State :=
  let g := s.collGroup k
  let mg := k.entry.isNone
  s.sendBytes { ty := if mg then 9 else 3, vc := if mg then 1 else vc, dst := (g.members[rank]?).getD 0
                job := s.jobTag k.ctx, epoch := cEpoch k.desc, group := cGroup k.desc, cseq := k.cseq
                offset := off, flow := k.entry.getD 0, rankFrom := some k.rank, rankTo := some rank } bs

/-- Bytes of one sender that cover a range, none while some are missing. -/
def gather (l : List Piece) (rank off n : Nat) : Option Bytes :=
  let mine := l.filter fun p => p.rank == rank && decide (off ≤ p.offset) && decide (p.offset < off + n)
  if (mine.map fun p => p.bytes.length).foldl (· + ·) 0 < n then none
  else some ((mine.foldl (fun b p => putB b (p.offset - off) p.bytes) (List.replicate n 0)).take n)

/-- When the last byte of a range came from a sender: its place in arrival order. -/
def arrivalOf (l : List Piece) (rank off n : Nat) : Nat :=
  ((l.zip (List.range l.length)).filter fun p => p.1.rank == rank
    && decide (p.1.offset < off + n) && decide (off < p.1.offset + p.1.bytes.length)).foldl
    (fun m p => max m (p.2 + 1)) 0

/-! ### Reductions (R279, R284, R290) -/

/-- Two elements combined by RED; a NaN result is the canonical one (02 R39). -/
def redOp (red : Nat) (a b : W32) : W32 :=
  match red with
  | 0 => faddC a b
  | 1 => canonF32 (fmaximum a b).v
  | _ => canonF32 (fminimum a b).v

/-- Inputs of one chunk combined in order. -/
def redInputs (red : Nat) : List (List W32) → List W32
  | [] => []
  | x :: xs => xs.foldl (fun a y => (a.zip y).map fun p => redOp red p.1 p.2) x

/-- Elements of a format as FP32 values, and back to nearest with SAT = 1 (R283). -/
def elemsToF32 (code n : Nat) (bs : Bytes) : List W32 :=
  (unpackElems (fmtWidth code) n bs).map (elemToF32 code)
def f32ToElems (code : Nat) (l : List W32) : Bytes :=
  packElems (fmtWidth code) (l.map fun v => (convTo! code true .nearest (decF32 v)).bits)

/-- Chunk `i` of the tree of a root: its first element in the tree, and its elements (R279). -/
def cChunk (d : Bytes) (g root i : Nat) : Nat × Nat := (4096 * i, min 4096 ((cTree d g root).2 - 4096 * i))

/-- The key of the accumulator that a rank holds for a chunk. -/
def Coll.accKey (k : Coll) (x : Nat × Nat) : List Nat := [0, cGroup k.desc, k.cseq, k.rank, x.1, x.2]

/-- What a child has sent of a chunk, none while bytes are missing. -/
def Coll.chunkFrom (k : Coll) (g : Group) (x : Nat × Nat) (child : Nat) : Option (List W32) :=
  let w := cWire k.desc
  let n := g.members.length
  let e := cChunk k.desc n x.1 x.2
  (gather k.up child (elemBytes w (cTree k.desc n x.1).1 + elemBytes w e.1) (elemBytes w e.2)).map (elemsToF32 w e.2)

/-- This rank's own part of a chunk. -/
def Coll.chunkOwn (k : Coll) (g : Group) (x : Nat × Nat) : List W32 :=
  let c := cEfmt k.desc
  let n := g.members.length
  let e := cChunk k.desc n x.1 x.2
  elemsToF32 c e.2 (k.own.drop (elemBytes c (cTree k.desc n x.1).1 + elemBytes c e.1))

/-- The order in which a node adds the inputs of a chunk: in ascending lowest rank in fixed-order mode, and in order of
arrival otherwise, its own first (R279). -/
def Coll.chunkOrder (k : Coll) (g : Group) (x : Nat × Nat) : List Nat :=
  let n := g.members.length
  if cFixed k.desc then (inputOrder n x.1 g.fan k.rank).map (·.2)
  else
    let w := cWire k.desc
    let e := cChunk k.desc n x.1 x.2
    let at_ (c : Nat) : Nat := arrivalOf k.up c (elemBytes w (cTree k.desc n x.1).1 + elemBytes w e.1) (elemBytes w e.2)
    k.rank :: sortBy (fun a b => decide (at_ a ≤ at_ b)) (treeChildren n x.1 g.fan k.rank)

/-- The inputs of a chunk combined, none while one is missing (R279, R290). -/
def Coll.chunkSum (k : Coll) (g : Group) (x : Nat × Nat) : Option (List W32) :=
  let ins := (k.chunkOrder g x).map fun r => if r = k.rank then some (k.chunkOwn g x) else k.chunkFrom g x r
  if ins.any Option.isNone then none else some (redInputs (cRed k.desc) (ins.map (·.getD [])))

/-- The children that are granted a credit for a chunk now: in fixed-order mode the one whose input is the next, and
otherwise all (R280). -/
def Coll.chunkGrants (k : Coll) (g : Group) (x : Nat × Nat) : List Nat :=
  let open_ (r : Nat) : Bool := r != k.rank && (k.chunkFrom g x r).isNone
  let l := (k.chunkOrder g x).filter open_
  (if cFixed k.desc then l.take 1 else l).filter fun r => !k.granted.contains (x.1, x.2, r)

/-- A whole chunk goes on: toward the root in the wire format; at the root it is written, and the result of an ALLREDUCE
goes down the tree as it was rounded into the wire format. DEDUCED, log 55. -/
def State.sendChunk (s : State) (k : Coll) (g : Group) (x : Nat × Nat) (v : List W32) : State :=
  let d := k.desc
  let n := g.members.length
  let e := cChunk d n x.1 x.2
  let bytes := f32ToElems (cWire d) v
  match treeParent n x.1 g.fan k.rank with
  | some p => s.collSend k 2 p (elemBytes (cWire d) (cTree d n x.1).1 + elemBytes (cWire d) e.1) bytes
  | none =>
    let at_ := elemBytes (cEfmt d) e.1
    if cOp d = opAllreduce then
      let s1 := (treeChildren n x.1 g.fan k.rank).foldl
        (fun st c => st.collSend k 3 c (elemBytes (cWire d) e.1) bytes) s
      s1.writeDst k at_ (f32ToElems (cEfmt d) (elemsToF32 (cWire d) e.2 bytes))
    else s.writeDst k at_ (f32ToElems (cEfmt d) v)

/-- A chunk goes on at this rank: with children it needs an accumulator first and grants credits, and its sum waits for
the parent's credit; over a v1 link none is waited for (R280; DEDUCED, log 59). -/
def State.stepChunk (s : State) (k0 : Coll) (x : Nat × Nat) : State :=
  match s.getColl k0 with
  | none => s
  | some k =>
    let g := s.collGroup k
    let n := g.members.length
    let leaf := (treeChildren n x.1 g.fan k.rank).isEmpty
    if k.summed.contains x then s
    else match if leaf then some s else s.takeAcc k.ctx (k.accKey x) with
      | none => s
      | some s1 =>
        match k.chunkSum g x with
        | none =>
          (k.chunkGrants g x).foldl (fun st r =>
            let mg := k.entry.isNone
            st.sendGrant k.ctx (cGroup k.desc) k.rank r ((g.members[r]?).getD 0) (k.entry.getD 0)
              (if mg then 9 else 3) (if mg then 1 else 3) k.cseq [0, x.1, x.2])
            (s1.setColl { k with granted := k.granted ++ (k.chunkGrants g x).map fun r => (x.1, x.2, r) })
        | some v =>
          let free := match treeParent n x.1 g.fan k.rank with
            | some p => k.grants.contains x || s.v1Hop ((g.members[p]?).getD 0) (k.entry.getD 0)
            | none => true
          if !free then s1
          else ((s1.setColl { k with summed := k.summed ++ [x] }).freeAccs k.ctx [k.accKey x]).sendChunk k g x v

/-- The trees in which a collective's rank adds. -/
def reduceRoots (d : Bytes) (n : Nat) : List Nat :=
  if cOp d = opReduceScatter then List.range n
  else if cOp d = opReduce then [cPeer d] else [0]

/-- Every chunk of every tree of a reduction: root and number. -/
def reduceChunks (d : Bytes) (n : Nat) : List (Nat × Nat) :=
  (reduceRoots d n).flatMap fun r => (List.range (ceilDiv (cTree d n r).2 4096)).map fun i => (r, i)

/-- A reduction goes on, and completes once its sums are formed and what it receives is written. -/
def State.stepReduce (s : State) (k0 : Coll) : State :=
  let chunks := reduceChunks k0.desc (s.collGroup k0).members.length
  let s1 := chunks.foldl (fun st x => st.stepChunk k0 x) s
  match s1.getColl k0 with
  | none => s1
  | some k =>
    let waits := cOp k.desc == opAllreduce && k.rank != 0
      && decide (k.got < elemBytes (cWire k.desc) (cCount k.desc))
    if chunks.all k.summed.contains && !waits then s1.collDone k 0 else s1

/-! ### ALLGATHER (R284) -/

/-- The byte range of a rank's share. -/
def gatherShare (d : Bytes) (n r : Nat) : Nat × Nat :=
  (shareO (cCount d) n r * cUnit d, shareN (cCount d) n r * cUnit d)

/-- The rank whose share holds a byte. -/
def shareAt (d : Bytes) (n o : Nat) : Nat :=
  ((List.range n).find? fun r => let x := gatherShare d n r
    decide (x.1 ≤ o) && decide (o < x.1 + x.2)).getD 0

/-- An ALLGATHER sends its share down its own tree, and completes when every share is in. -/
def State.stepGather (s : State) (k : Coll) : State :=
  let g := s.collGroup k
  let n := g.members.length
  let x := gatherShare k.desc n k.rank
  let s1 := if k.sent then s
    else
      let s0 := s.setColl { k with sent := true, got := k.got + x.2 }
      let s2 := s0.writeDst k x.1 k.own
      if x.2 = 0 then s2
      else (treeChildren n k.rank g.fan k.rank).foldl (fun st c => st.collSend k 3 c x.1 k.own) s2
  match s1.getColl k with
  | some k1 => if cCount k.desc * cUnit k.desc ≤ k1.got then s1.collDone k1 0 else s1
  | none => s1

/-! ### Ragged exchanges (R285, R286) -/

/-- Counts that a rank sends to each other rank: one, or one for each expert. -/
def raggedE (d : Bytes) : Nat := if cOp d = opExpert then cCount d else 1

/-- The counts that rank `r` sent to this device; its own come from its table. -/
def raggedFrom (k : Coll) (r : Nat) : Option Bytes :=
  let e := raggedE k.desc
  if r = k.rank then some (sliceB k.table (4 * e * r) (4 * e)) else gather k.up r 0 (4 * e)

/-- The counts admitted from each source: all of them, or by the capacity of each expert in ascending source
rank (R286, 10 R324). -/
def admitRows (caps : List Nat) (e : Nat) (sources : List Bytes) : List (List Nat) :=
  let one (j : Nat) : List Nat :=
    (sources.foldl (fun (acc : Nat × List Nat) b =>
      let a := min (countAt b j) (((caps[j]?).getD 0) - acc.1)
      (acc.1 + a, acc.2 ++ [a])) (0, [])).2
  let per := (List.range e).map one
  (List.range sources.length).map fun r => per.map fun l => (l[r]?).getD 0

/-- The capacities of this device's experts (10 R324). -/
def State.caps (s : State) (c e : Nat) : List Nat :=
  match s.smap c with
  | none => []
  | some m => match m.rankOf s.fab.devid with
    | none => []
    | some r =>
      let x := (m.devs[r]?).getD []
      (List.range e).map fun j => if m.exptab = 0 ∨ devNexp x ≤ j then 0
        else recN (s.peekD c (m.exptab + 8 * (devExpoff x + j)) 8) 4 4

/-- The admitted counts of every source at this device, none while counts are missing. -/
def State.admitted (s : State) (k : Coll) : Option (List (List Nat)) :=
  let n := (s.collGroup k).members.length
  let e := raggedE k.desc
  let src := (List.range n).map (raggedFrom k)
  if src.any Option.isNone then none
  else
    let bs := src.map (·.getD [])
    some (if cOp k.desc = opExpert then admitRows (s.caps k.ctx e) e bs
      else bs.map fun b => [countAt b 0])

/-- The counts that each destination admits from this rank, none while a reply is missing. -/
def State.granted (s : State) (k : Coll) : Option (List (List Nat)) :=
  let n := (s.collGroup k).members.length
  let e := raggedE k.desc
  if cOp k.desc != opExpert then
    some ((List.range n).map fun r => [countAt k.table r])
  else
    let own := (s.admitted k).bind fun a => a[k.rank]?
    let l := (List.range n).map fun r => if r = k.rank then own
      else (gather k.up r (4 * e) (4 * e)).map fun b => (List.range e).map (countAt b)
    if l.any Option.isNone then none else some (l.map (·.getD []))

/-- Where the data of a ragged exchange starts in its transfer: after the counts, and for EXPERT after the admitted
counts (DESIGN CHOICE, log 54). -/
def raggedAt (d : Bytes) : Nat := (if cOp d = opExpert then 8 else 4) * raggedE d

/-- The rows that this rank sends to rank `r`: those admitted, by expert and in row order. -/
def raggedRows (k : Coll) (r : Nat) (grant : List Nat) : Bytes :=
  let e := raggedE k.desc
  let u := cUnit k.desc
  (List.range e).flatMap fun j =>
    let first := countSum k.table 0 (e * r + j)
    sliceB k.own (first * u) ((grant[j]?).getD 0 * u)

/-- The status byte of each source row of an EXPERT: 0 admitted, 1 returned unprocessed. -/
def expertStatus (k : Coll) (n : Nat) (grants : List (List Nat)) : Bytes :=
  let e := raggedE k.desc
  (List.range (n * e)).flatMap fun i =>
    let a := (((grants[i / e]?).getD [])[i % e]?).getD 0
    (List.range (countAt k.table i)).map fun x => if x < a then 0 else 1

/-- Counts go out at the post; replies once every source's counts are in; data once every reply is in; the
exchange completes when all data is in (R285, R286). -/
def State.raggedReplies (s : State) (k : Coll) : State :=
  if k.replied then s
  else match s.admitted k with
    | none => s
    | some a =>
      let s1 := s.setColl { k with replied := true }
      if cOp k.desc != opExpert then s1
      else ((List.range a.length).filter (· != k.rank)).foldl (fun st r =>
        st.collSend k 2 r (4 * raggedE k.desc) (((a[r]?).getD []).flatMap (leBytes 4))) s1

/-- The data of a ragged exchange sent. -/
def State.raggedData (s : State) (k0 : Coll) : State :=
  match s.getColl k0 with
  | none => s
  | some k =>
    let n := (s.collGroup k).members.length
    let e := raggedE k.desc
    match k.replied && !k.sent, s.granted k with
    | true, some gr =>
      let s1 := s.setColl { k with sent := true }
      let s2 := if cOp k.desc = opExpert then
          s1.ctxStore k.ctx (cTaddr k.desc + 4 * n * e) (expertStatus k n gr) else s1
      ((List.range n).filter (· != k.rank)).foldl (fun st r =>
        let rows := raggedRows k r ((gr[r]?).getD [])
        if rows.isEmpty then st else st.collSend k 2 r (raggedAt k.desc) rows) s2
    | _, _ => s

/-- The rows received written, and the exchange completed. -/
def State.raggedEnd (s : State) (k0 : Coll) : State :=
  match s.getColl k0 with
  | none => s
  | some k =>
    let n := (s.collGroup k).members.length
    let e := raggedE k.desc
    let u := cUnit k.desc
    match k.sent, s.admitted k, s.granted k with
    | true, some a, some gr =>
      let rows := (List.range n).map fun r =>
        let cnt := (a[r]?).getD []
        let tot := cnt.foldl (· + ·) 0
        if r = k.rank then some (raggedRows k r ((gr[r]?).getD [])) else gather k.up r (raggedAt k.desc) (tot * u)
      if rows.any Option.isNone then s
      else
        let part (r j : Nat) : Bytes :=
          let cnt := (a[r]?).getD []
          sliceB (((rows[r]?).getD none).getD []) ((cnt.take j).foldl (· + ·) 0 * u) ((cnt[j]?).getD 0 * u)
        let out := (List.range e).flatMap fun j => (List.range n).flatMap fun r => part r j
        let recv := (List.range e).flatMap fun j => (List.range n).flatMap fun r =>
          leBytes 4 ((((a[r]?).getD [])[j]?).getD 0)
        let back := (List.range n).foldl (fun t r =>
          t + (countSum k.table (e * r) e - ((gr[r]?).getD []).foldl (· + ·) 0)) 0
        let s1 := (s.writeDst k 0 out).ctxStore k.ctx (cRaddr k.desc) recv
        let s2 := if back = 0 then s1 else s1.ev 0x08B 0 [k.ctx] back
        s2.collDone k back
    | _, _, _ => s

/-- A ragged exchange goes on. -/
def State.stepRagged (s : State) (k : Coll) : State := ((s.raggedReplies k).raggedData k).raggedEnd k

/-! ### PERMUTE (R287) -/

/-- An entry of the transfer list. -/
def permEntry (t : Bytes) (i : Nat) : Bytes := sliceB t (24 * i) 24

/-- The entries of a PERMUTE posted in table order; those to the device itself are copied at once.
DEDUCED, log 71. -/
def State.permuteSend (s : State) (k : Coll) : State :=
  let t := s.physD k.ctx k.vt
  (List.range (cCount k.desc)).foldl (fun st i =>
    let e := permEntry k.table i
    let rd := st.readRange k.ctx t (cSrcHbm k.desc) (cSrc k.desc + recN e 8 8) (recN e 4 4)
    let r := recN e 0 2
    let here := r == k.rank
    let st1 := match rd.s.getColl k with
      | some k1 => rd.s.setColl { k1 with got := k1.got + (if here then rd.bytes.length else 0), ue := k1.ue || rd.ue }
      | none => rd.s
    if here then st1.writeDst k (recN e 16 8) rd.bytes else st1.collSend k 2 r (recN e 16 8) rd.bytes) s

/-- A frame belongs to a collective as this rank sends it. -/
def State.ofColl (s : State) (k : Coll) (f : Frame) : Bool :=
  f.job == s.jobTag k.ctx && f.group == cGroup k.desc && f.cseq == k.cseq && f.rankFrom == some k.rank

/-- A PERMUTE goes on: it completes when every send has been accepted and the bytes that it expects are in (R287). -/
def State.stepPermute (s : State) (k : Coll) : State :=
  let s1 := if k.sent then s else (s.setColl { k with sent := true }).permuteSend { k with sent := true }
  match s1.getColl k with
  | some k1 =>
    if decide (cRaddr k.desc ≤ k1.got) && !s1.unaccepted (s1.ofColl k) then s1.collDone k1 0 else s1
  | none => s1

/-- A collective taken a step further. -/
def State.stepColl (s : State) (k0 : Coll) : State :=
  match s.getColl k0 with
  | none => s
  | some k =>
    if k.queued then s
    else match cOp k.desc with
      | 2 => s.stepGather k
      | 3 => s.stepRagged k
      | 4 => s.stepRagged k
      | 5 => s.stepPermute k
      | _ => s.stepReduce k

/-- What waits for an accumulator of a reduction store goes on, when a change has freed one (R280). -/
def State.afterAccs (s before : State) : State :=
  if before.fab.accsFull && !s.fab.accsFull then s.fab.frags.foldl State.stepNode (s.fab.colls.foldl State.stepColl s)
  else s

/-- A collective goes on as far as it can. -/
def State.runColl (s : State) (k : Coll) : State := (s.stepColl k).afterAccs s

/-- PERMUTEs whose sends the links have accepted since complete (R287). -/
def State.settlePermutes (s : State) : State :=
  (s.fab.colls.filter fun k => cOp k.desc == opPermute && k.sent).foldl (fun st k => st.stepColl k) s

/-! ### Arrivals -/

/-- A parent's credit for a chunk has come (R280). -/
def State.collGrant (s : State) (k : Coll) (x : Nat × Nat) (bad : Bool) : State :=
  let k1 : Coll := { k with grants := k.grants ++ [x], e2eFail := k.e2eFail || bad }
  (s.setColl k1).runColl k1

/-- A frame of a collective delivered: a tree input or a peer's data, or data that comes away from a root; data is written and forwarded down the tree as it comes (R268, R279, R284 to R287). -/
def State.collTake (s : State) (k : Coll) (f : Frame) (from_ : Nat) (down : Bool) : State :=
  let d := k.desc
  let g := s.collGroup k
  let n := g.members.length
  let bad := f.e2e != f.crc
  let p : Piece := ⟨from_, f.offset, f.payload⟩
  let k1 : Coll := { k with e2eFail := k.e2eFail || bad }
  let s1 := match cOp d, down with
    | 0, true =>
      let s2 := s.setColl { k1 with got := k1.got + f.payload.length }
      let w := cWire d
      let first := f.offset * 8 / max 1 (fmtWidth w)
      let cnt := f.payload.length * 8 / max 1 (fmtWidth w)
      let s3 := s2.writeDst k (elemBytes (cEfmt d) first)
        (f32ToElems (cEfmt d) (elemsToF32 w (min cnt (cCount d - first)) f.payload))
      (treeChildren n 0 g.fan k.rank).foldl (fun (st : State) c => st.collSend k 3 c f.offset f.payload) s3
    | 2, _ =>
      let s2 := (s.setColl { k1 with got := k1.got + f.payload.length }).writeDst k f.offset f.payload
      (treeChildren n (shareAt d n f.offset) g.fan k.rank).foldl
        (fun (st : State) c => st.collSend k 3 c f.offset f.payload) s2
    | 5, _ => (s.setColl { k1 with got := k1.got + f.payload.length }).writeDst k f.offset f.payload
    | _, _ => s.setColl { k1 with up := k1.up ++ [p] }
  s1.runColl k

/-- The frame comes away from a root. A MGMT frame carries no virtual channel of its own direction: the sender's place
in the tree says it (R294). -/
def collDown (k : Coll) (g : Group) (f : Frame) (from_ : Nat) : Bool :=
  cOp k.desc == opAllreduce
    && (if f.ty = 3 then f.vc == 3 else treeParent g.members.length 0 g.fan k.rank == some from_)

/-! ### Streams (R288) -/

/-- Rows of a sending stream sent while ring rows are known free. -/
def State.pumpStream (flow : Nat) : Nat → State → State
  | 0, s => s
  | n + 1, s =>
    match Tbl.find s.fab.streams flow with
    | none => s
    | some x =>
      if !x.sends || !x.opened || decide (x.rows ≤ x.done) || decide (x.freed ≤ x.done) then s
      else
        let rd := s.readRange x.ctx (s.physD x.ctx x.vt) x.hbm (x.addr + x.done * x.unit) x.unit
        let y : Stream := { x with done := x.done + 1, ue := x.ue || rd.ue }
        let s1 : State := { rd.s with fab := { rd.s.fab with streams := Tbl.set rd.s.fab.streams flow y } }
        let s2 := s1.sendBytes { ty := 3, vc := 2, dst := x.peer, group := 0xFFFF, cseq := flow, flow := flow
                                 job := s1.jobTag x.ctx, epoch := s1.jobEpoch x.ctx } rd.bytes
        State.pumpStream flow n s2

/-- A sending stream whose rows have all been accepted into the ring completes and releases its entry (R288). -/
def State.endStream (s : State) (flow : Nat) : State :=
  match Tbl.find s.fab.streams flow with
  | none => s
  | some x =>
    if x.sends && decide (x.rows ≤ x.taken) then
      let s1 : State := { s with fab := { s.fab with streams := Tbl.erase s.fab.streams flow } }
      s1.endPost x.ctx x.vt x.queue x.seq (if x.e2eFail then 5 else 0) x.ue
    else s

/-- The receiver reports its flow open, ring rows free, or rows taken into the ring: the sender goes on (R288). -/
def State.streamFreed (s : State) (flow freed taken : Nat) (bad : Bool) : State :=
  match Tbl.find s.fab.streams flow with
  | none => s
  | some x =>
    if !x.sends then s
    else
      let y : Stream := { x with opened := true, freed := x.freed + freed, taken := x.taken + taken
                                 e2eFail := x.e2eFail || bad }
      let s1 : State := { s with fab := { s.fab with streams := Tbl.set s.fab.streams flow y } }
      (State.pumpStream flow (x.rows + 1) s1).endStream flow

/-- Bytes of a stream's rows that arrive in the ring; a whole row is reported as taken (R288). -/
def State.streamBytes (s : State) (flow : Nat) (bs : Bytes) (bad : Bool) : State :=
  match Tbl.find s.fab.streams flow with
  | none => s
  | some x =>
    if x.sends then s
    else
      let o := x.partialRow.length
      let s1 := s.storeWrite (s.physD x.ctx x.vt) 3 (x.addr + x.done % max 1 x.depth * x.unit + o) bs
      let full := decide (x.unit ≤ o + bs.length)
      let y : Stream := { x with done := if full then x.done + 1 else x.done
                                 partialRow := if full then [] else x.partialRow ++ bs
                                 e2eFail := x.e2eFail || bad }
      let s2 : State := { s1 with fab := { s1.fab with streams := Tbl.set s1.fab.streams flow y } }
      if full then s2.reportRing x.ctx x.peer flow 0 1 else s2

/-! ### Posts (R283, R293, R294) -/

/-- The flow entries in use. -/
def State.entryUsed (s : State) (k : Nat) : Bool :=
  (Tbl.find s.fab.streams k).isSome || s.fab.colls.any fun j => j.entry == some k
/-- The lowest free flow entry. -/
def State.freeEntry (s : State) : Option Nat := (List.range 4096).find? fun k => !s.entryUsed k

/-- Posts made on a group under a rank. -/
def State.postsOn (s : State) (c g r : Nat) : Nat :=
  ((s.fab.cseqs.find? fun x => x.1 == c && x.2.1 == g && x.2.2.1 == r).map (·.2.2.2)).getD 0

/-- The rank under which the next post on a group is made: of a device's ranks the one with the fewest posts,
the lower first (13 R408). -/
def State.nextRank (s : State) (c g : Nat) (rs : List Nat) : Nat :=
  rs.foldl (fun b r => if s.postsOn c g r < s.postsOn c g b then r else b) (rs.headD 0)

/-- A post counted on its group; the answer is its CSEQ (R283). DEDUCED, log 55. -/
def State.countPost (s : State) (c g r : Nat) : State × Nat :=
  let n := s.postsOn c g r + 1
  ({ s with fab := { s.fab with cseqs :=
      (s.fab.cseqs.filter fun x => !(x.1 == c && x.2.1 == g && x.2.2.1 == r)) ++ [(c, g, r, n)] } }, n % 65536)

/-- What a collective reads at its post: the source and its table. -/
def State.collReads (s : State) (c t : Nat) (d : Bytes) (n r : Nat) : Rd × Rd :=
  let tab := match cOp d with
    | 3 => s.readRange c t true (cTaddr d) (4 * n)
    | 4 => s.readRange c t true (cTaddr d) (4 * n * cCount d)
    | 5 => s.readRange c t true (cTaddr d) (24 * cCount d)
    | _ => ⟨s, [], false⟩
  let len := match cOp d with
    | 2 => (gatherShare d n r).2
    | 3 => countSum tab.bytes 0 n * cUnit d
    | 4 => countSum tab.bytes 0 (n * cCount d) * cUnit d
    | 5 => 0
    | _ => elemBytes (cEfmt d) (cElems d)
  (tab, if len = 0 then ⟨tab.s, [], false⟩ else tab.s.readRange c t (cSrcHbm d) (cSrc d) len)

/-- The addresses of a descriptor are within reach (Table 5.11, ACCESS). -/
def State.collRanges (s : State) (c t : Nat) (d : Bytes) (n r : Nat) : Bool :=
  let e := cEfmt d
  let src (k : Nat) : Bool := s.rangeOk c (cSrcHbm d) (cSrc d) k false
  let dst (k : Nat) : Bool := s.rangeOk c (cDstHbm d) (cDst d) k true
  let tab (k : Nat) (w : Bool) : Bool := s.rangeOk c true (cTaddr d) k w
  match cOp d with
  | 0 => src (elemBytes e (cCount d)) && dst (elemBytes e (cCount d))
  | 1 => src (elemBytes e (cElems d)) && dst (elemBytes e (cTree d n r).2)
  | 2 => src (gatherShare d n r).2 && dst (cCount d * cUnit d)
  | 3 => tab (4 * n) false && s.rangeOk c true (cRaddr d) (4 * n) true
      && src ((s.collReads c t d n r).2.bytes.length)
  | 4 => tab (4 * n * cCount d) true && s.rangeOk c true (cRaddr d) (4 * n * cCount d) true
      && src (countSum (s.peekD c (cTaddr d) (4 * n * cCount d)) 0 (n * cCount d) * cUnit d)
  | 5 => tab (24 * cCount d) false && (List.range (cCount d)).all fun i =>
      let x := permEntry (s.peekD c (cTaddr d) (24 * cCount d)) i
      s.rangeOk c (cSrcHbm d) (cSrc d + recN x 8 8) (recN x 4 4) false
  | 6 => src (elemBytes e (cCount d)) && (r != cPeer d || dst (elemBytes e (cCount d)))
  | 7 => if cSend d then src (cCount d * cUnit d) else decide (cDst d + cTaddr d * cUnit d ≤ storeSize)
  | _ => true

/-- The post needs a v1 link that cannot carry it (R273). -/
def State.versionLow (s : State) (c : Nat) (d : Bytes) (members : List Nat) : Bool :=
  let far := members.filter (· != s.fab.devid)
  match cOp d with
  | 7 => s.v1Hop (s.standIn c (cPeer d)) (cFlow d)
  | 8 => (match (s.smap c).bind fun m => m.tensorEntry (cTid d) with
    | some t => (List.range (cCount d)).any fun i =>
        let o := s.ownerDev c t (cFidx d + i)
        o != s.fab.devid && s.v1Hop o (cFidx d + i)
    | none => false)
  | op => (far.any fun m => s.v1Hop m 0) && (decide (2 < op) || (cReduces d && cWire d != 0 && cWire d != 1))

/-- The epoch of a post is right: the job's current one; for a PERMUTE the Switchback's new one (R287, Table
9.10). -/
def State.epochOk (s : State) (c : Nat) (d : Bytes) : Bool :=
  let e := s.jobEpoch c
  if cOp d = opPermute ∧ (s.ctx c).switchStep.isNone then cEpoch d == e + 1 else cEpoch d == e

/-- Empty contributions sent (R226, Table 9.9). -/
def State.fragEmpty (s : State) (e : Env) (x : Tensor) (d : Bytes) : State :=
  (List.range (cCount d)).foldl (fun st i =>
    st.sendFragment e.c (some (e.v, e.q, e.qu.seq))
      { tid := cTid d, fidx := (cFidx d + i) % 2 ^ 32, mstone := e.qu.step, expect := x.expect
        contrib := cUnit d, srank := (st.jobRank e.c), epoch := st.jobEpoch e.c, empty := true }) s

/-- A post whose collective is entered in the tables and begun. -/
def State.beginColl (s : State) (e : Env) (d : Bytes) (g : Group) (rank : Nat) : State :=
  let n := g.members.length
  let cs := s.countPost e.c (cGroup d) rank
  let rd := cs.1.collReads e.c e.t d n rank
  let entry := rd.2.s.freeEntry
  let k : Coll := { ctx := e.c, vt := e.v, queue := e.q, seq := e.qu.seq, rank := rank, desc := d, cseq := cs.2
                    entry := entry, queued := entry.isNone, own := rd.2.bytes, table := rd.1.bytes
                    ue := rd.1.ue || rd.2.ue }
  let s1 : State := { rd.2.s with fab := { rd.2.s.fab with colls := rd.2.s.fab.colls ++ [k] } }
  let full : State := { s1 with fab := { s1.fab with refused := satInc 16 s1.fab.refused } }
  let s2 := if entry.isNone then full.ev 0x08A 0 [e.c] else s1
  let x := s2.ctx e.c
  if cReduces d && !cFixed d then s2.setCtx e.c { x with recov := { x.recov with unfixed := x.recov.unfixed ++ [e.qu.step] } } else s2

/-- The first messages of a collective, and whatever it can do at once. -/
def State.startColl (s : State) (k0 : Coll) : State :=
  if k0.begun || k0.queued then s
  else
    let k : Coll := { k0 with begun := true }
    let s0 := s.setColl k
    let n := (s0.collGroup k).members.length
    let e := raggedE k.desc
    let send (st : State) (r : Nat) : State := st.collSend k 2 r 0 (sliceB k.table (4 * e * r) (4 * e))
    let s1 := if cOp k.desc = opAlltoallv ∨ cOp k.desc = opExpert then
        ((List.range n).filter (· != k.rank)).foldl send s0
      else s0
    s1.runColl k

/-- A STREAM post (R288, R293); frames to a failed PEER are addressed to its stand-in (13 R408). -/
def State.beginStream (s : State) (e : Env) (d : Bytes) : State :=
  let flow := cFlow d
  let x : Stream := { ctx := e.c, vt := e.v, sends := cSend d, queue := e.q, seq := e.qu.seq
                      peer := s.standIn e.c (cPeer d), flow := flow, addr := if cSend d then cSrc d else cDst d
                      hbm := cSend d && cSrcHbm d, depth := cTaddr d, unit := cUnit d, rows := cCount d
                      opened := !cSend d }
  let s1 : State := { s with fab := { s.fab with streams := Tbl.set s.fab.streams flow x } }
  if cSend d then s1 else s1.reportRing e.c (s.standIn e.c (cPeer d)) flow (cTaddr d) 0

/-- A CPOST acts by its descriptor's OP (R283 to R289). Every post on a group takes its number, whatever status it
ends with (R283). DEDUCED, log 110. -/
def bodyCpost (e : Env) (s : State) : Act :=
  Act.when (s.minor e) xInvalid <| s.post e fun s0 d ue =>
    let now (s1 : State) (code : Nat) : Act :=
      .go s1 (fun f => { f with posted := true, statusAt := some (cStatus d), status := code, poison := ue })
        Queue.advance
    let later (s1 : State) : Act :=
      .go s1 (fun f => { f with posted := true, statusAt := some (cStatus d), work := .post d, poison := ue })
        Queue.advance
    let x := s0.tensor e.c (cTid d)
    Act.when (!cpostOk d) xDescriptor <|
    Act.when (decide (storeSize < cStatus d + 8)) xAccess <|
    if (s0.smap e.c).isNone then now s0 3
    else
      let grouped := cOp d != opStream
      let g := (s0.group e.c (cGroup d)).getD ⟨[], 2⟩
      let rs := ranksIn s0.fab.devid g.members
      let ids := ((s0.groupRec e.c 0).map (·.members)).getD []
      let asc := cGroup d == 0 || ascending (((s0.groupRec e.c (cGroup d)).map (·.members)).getD [] |>.map
        fun m => (indexOf? m ids).getD 0x10000)
      let rank := s0.nextRank e.c (cGroup d) rs
      if grouped && (rs.isEmpty || !asc) then now s0 3
      else
        Act.when (!s0.collRanges e.c e.t d g.members.length rank) xAccess <|
        Act.when (cOp d == opFragEmpty && (x.isNone
          || (((s0.smap e.c).bind fun m => m.tensorEntry (cTid d)).isNone))) xAccess <|
        let counted := if grouped then (s0.countPost e.c (cGroup d) rank).1 else s0
        if !s0.epochOk e.c d then now counted 6
        else if s0.versionLow e.c d g.members then now counted 4
        else if cOp d = opFragEmpty then
          .go counted (fun f => { f with posted := true, statusAt := some (cStatus d), poison := ue,
                                         work := .post d, frags := cCount d }) Queue.advance
        else if cOp d = opStream then
          if (Tbl.find s0.fab.streams (cFlow d)).isSome then now s0 2
          else if s0.entryUsed (cFlow d) then .wait .unit
          else if cSend d then later (s0.beginStream e d)
          else now (s0.beginStream e d) 0
        else later (s0.beginColl e d g rank)

/-- Empty contributions of a post that has just issued. -/
def State.sendEmpties (s : State) (f : Flight) (d : Bytes) : State :=
  match s.tensor f.ctx (cTid d) with
  | none => s
  | some x =>
    let e : Env := { s.envAt f with qu := { (s.envAt f).qu with seq := f.seq, step := f.step } }
    (s.putFlight f { f with work := .done }).fragEmpty e x d

/-- What posts that have just issued begin: their first messages, their empty contributions. -/
def State.kick (s : State) : State :=
  let s1 := s.fab.colls.foldl (fun st k => st.startColl k) s
  s1.flight.foldl (fun st f => match f.work with
    | .post d => if f.cls == 4 && cOp d == opFragEmpty then st.sendEmpties f d else st
    | _ => st) s1

/-- MANAGEMENT_ASSISTED_PATH: the next refused post runs, one at a time and in post order (R294). -/
def State.nextManaged (s : State) : State :=
  if s.fab.colls.any fun k => k.entry.isNone && !k.queued then s
  else match s.fab.colls.find? fun k => k.queued with
    | none => s
    | some k => ((s.setColl { k with queued := false })).startColl { k with queued := false }

end Sys2Proof.Machine
end

