-- ==== Sys2Proof/Machine/Uoa.lean ====
section
/-! DEFINITION. Update on arrival: reduction buffers, the acceptance of fragments, the update, norms and
clipping, working copies, delta records, forced fetches and digests (08_update_on_arrival R223 to R250).
Assumption log: log 19 (DEDUCED). -/

namespace Sys2Proof.Machine

/-! ### Reduction buffers (R227 to R229) -/

/-- An entry of a unit. -/
def Uoa.entry (u : Uoa) (k : Nat) : RbEntry := Tbl.get {} u.entries k
/-- An entry of a tile's unit. -/
def State.rb (s : State) (t k : Nat) : RbEntry := (s.uoa t).entry k
/-- An entry of a tile's unit replaced. -/
def State.setRb (s : State) (t k : Nat) (e : RbEntry) : State :=
  let u := s.uoa t
  s.setUoa t { u with entries := Tbl.set u.entries k e }

/-- UOA_ERR_LOG written while VALID is 0 (R252). -/
def State.uoaLog (s : State) (t cause tid fidx : Nat) : State :=
  let u := s.uoa t
  if bit u.errLog.toNat 63 then s
  else s.setUoa t { u with errLog := BitVec.ofNat 64 (2 ^ 63 + cause * 2 ^ 59 + fld tid 0 24 * 2 ^ 32 + fidx) }

/-- The contributions at a unit that are not accepted yet: those that wait for an entry, and the early ones of FIXED
entries (R227, R229). -/
def Uoa.held (u : Uoa) : List Contribution := u.waiting ++ u.entries.flatMap fun e => e.2.early

/-- The entry of a contribution: the one that its fragment and step hold. -/
def Uoa.find (u : Uoa) (c : Nat) (f : Fragment) : Option Nat :=
  (List.range 32).find? fun k =>
    let e := u.entry k
    e.st != .free && e.ctx == c && e.tid == f.tid && e.fidx == f.fidx && e.mstone == f.mstone
/-- A free entry, the lowest. -/
def Uoa.freeSlot (u : Uoa) : Option Nat := (List.range 32).find? fun k => (u.entry k).st == .free

/-- A contribution is accepted or discarded: its drain or its credits are freed (R227). -/
def State.release (s : State) (x : Contribution) : State :=
  let s1 := s.accepted x.ctx x.sender
  match x.port with
  | some p => s1.owe p.1 p.2.1 p.2.2
  | none => s1

/-- One addition into a buffer: FP32 sums, rounded to E6M9 stochastically in class N at site 2 with RECV as
ordinal (R229). -/
def State.addElems (s : State) (c : Nat) (x : Tensor) (e : RbEntry) (f : Fragment) : List W32 :=
  if f.empty then e.elems
  else
    let key := srKey (s.ctx c).jobSeed f.tid f.mstone
    let w := (s.ctx c).classW
    ((e.elems.zip f.elems).zip (List.range 8192)).map fun p =>
      if !x.inside f.fidx p.2 then p.1.1
      else
        let v := faddC p.1.1 p.1.2
        if w then v
        else elemToF32 3 (convTo! 3 true
          (.stochastic (srBits key (x.linear f.fidx p.2) 2 (e.recv % 4096))) (decF32 v)).bits

/-- A contribution added into its entry. -/
def State.addOne (s : State) (c : Nat) (x : Tensor) (e : RbEntry) (f : Fragment) : RbEntry :=
  { e with elems := s.addElems c x e f, recv := e.recv + f.contrib, low := min e.low f.srank,
           added := f.srank :: e.added }

/-- The SRANK values that arrive at the owner of a fragment on its tree: its own rank, and the lowest of each
child's subtree (09 R278, R281). -/
def State.sranks (s : State) (c : Nat) (x : Tensor) (f : Nat) : List Nat :=
  match s.smap c with
  | none => []
  | some m => match m.tensorEntry x.tid with
    | none => []
    | some t =>
      if x.replica || m.replica || s.ownerDev c t f != s.fab.devid then []
      else match s.fragTree c m x t f with
        | none => []
        | some tr =>
          let n := tr.members.length
          let job (r : Nat) : Nat := (m.rankOf ((tr.members[r]?).getD 0)).getD 0
          job tr.root :: (treeChildren n tr.root tr.fan tr.root).map fun k =>
            minOf ((treeSub n tr.root tr.fan treeFuel k).map job)

/-- A contribution of lowest rank `r` may be added now to a FIXED entry (R229). -/
def mayAdd (ranks added : List Nat) (r : Nat) : Bool := ranks.all fun k => decide (r ≤ k) || added.contains k

/-- Early contributions of a FIXED entry added as their turn comes, and those that have been; `fuel` bounds them. -/
def State.addEarly (s : State) (c : Nat) (x : Tensor) (ranks : List Nat) :
    Nat → RbEntry → List Contribution → RbEntry × List Contribution
  | 0, e, l => (e, l)
  | n + 1, e, l =>
    match (sortBy (fun (a b : Contribution) => decide (a.frag.srank ≤ b.frag.srank)) e.early).find? fun y =>
        mayAdd ranks e.added y.frag.srank with
    | none => (e, l)
    | some y => State.addEarly s c x ranks n (s.addOne c x { e with early := e.early.erase y } y.frag) (l ++ [y])

/-! ### The states of a complete entry (R230, R231, R233) -/

/-- The entry is complete. -/
def RbEntry.complete (e : RbEntry) (x : Tensor) : Bool := e.recv == x.expect

/-- A complete suspect entry is held and reported (R231). -/
def State.holdSuspect (s : State) (t k : Nat) : State :=
  let e := s.rb t k
  let x := s.tile t
  let s1 := (s.setRb t k { e with st := .suspectHeld }).setTile t { x with errStatus := x.errStatus ||| 0x10 }
  (s1.uoaLog t 5 e.tid e.fidx).raise e.ctx 3 s1.fab.devid

/-! ### The delta log (R248 to R250) -/

/-- The address of a page's log, and its 128-byte header (Table 8.8). -/
def Tensor.logAt (x : Tensor) (p : Nat) : Nat := x.dladdr + p * (128 + 65536 * x.pgf)
def State.logHead (s : State) (c : Nat) (x : Tensor) (p : Nat) : Bytes := s.peekD c (x.logAt p) 128
def logCount (b : Bytes) : Nat := recN b 8 1
def logMst (b : Bytes) (q : Nat) : Nat := recN b (16 + 8 * q) 8
def logPresent (b : Bytes) (q : Nat) : Nat := recN b (48 + 8 * q) 8
def logEta (b : Bytes) (q : Nat) : W32 := BitVec.ofNat 32 (recN b (80 + 4 * q) 4)
def logLam (b : Bytes) (q : Nat) : W32 := BitVec.ofNat 32 (recN b (96 + 4 * q) 4)
def Tensor.deltaAt (x : Tensor) (p i q : Nat) : Nat := x.logAt p + 128 + 16384 * (4 * i + q)

/-- The fragments of a page of `n` held ones. -/
def Tensor.pageFrags (x : Tensor) (n p : Nat) : Nat := min x.pgf (n - p * x.pgf)

/-- The position of a step in a log, a new one when it has none. -/
def logPos (b : Bytes) (n : Nat) : Nat :=
  ((List.range (logCount b)).find? fun q => logMst b q == n).getD (logCount b)

/-- A position of a log is complete: every fragment of the page has its delta. -/
def logFull (b : Bytes) (cnt q : Nat) : Bool := popcount 64 (logPresent b q) == cnt

/-- A page must be fetched synchronously: it rests and its position 3 is complete (R249). -/
def State.forcedDue (s : State) (c : Nat) (x : Tensor) (p : Nat) : Bool :=
  let b := s.logHead c x p
  s.pageState c x p == 2 && logCount b == 4 && logFull b (x.pageFrags (s.heldFrags c x).length p) 3

/-- A forced fetch of a page is due or under way (R249). -/
def State.pageStalls (s : State) (c : Nat) (x : Tensor) (p : Nat) : Bool :=
  s.uoaDev.stalls.contains (c, x.tid, p) || s.forcedDue c x p

/-- The page of an entry's fragment is held by a forced fetch (R249). -/
def State.stalled (s : State) (c : Nat) (x : Tensor) (f : Nat) : Bool :=
  match s.localOrd c x f with
  | none => false
  | some j => x.pgf != 0 && s.pageStalls c x (x.pageOf j)

/-! ### The state of an entry (R231 to R233) -/

/-- The state of an entry after an addition, or when its conditions change: suspect, held for the commit,
stalled, waiting for its parameters, or ready (R231 to R233, R249). -/
def State.settleEntry (s0 : State) (t k : Nat) : State :=
  let s := s0.formChats (s0.rb t k).ctx
  let e := s.rb t k
  match s.tensor e.ctx e.tid with
  | none => s
  | some x =>
    if e.st == .free || e.st == .suspectHeld then s
    else if !e.complete x then
      s.setRb t k { e with st := if e.early.isEmpty then .accumulating else .fixedWait }
    else if e.suspect then s.holdSuspect t k
    else
      let n := (s.ctx e.ctx).mstone
      if e.mstone = n + 1 then
        let s1 := s.setRb t k { e with st := .commitHold }
        if e.st == .commitHold then s1 else s1.evTile 0x017 t
      else if (((s.ctx e.ctx).job.map (·.awaiting)).getD []).contains (e.tid, e.fidx) then
        s.setRb t k { e with st := .commitHold }
      else if s.stalled e.ctx x e.fidx then s.setRb t k { e with st := .fetchStall }
      else if (s.stepParams e.ctx n).isNone then
        let s1 := s.setRb t k { e with st := .paramWait }
        if e.st == .paramWait then s1 else s1.evTile 0x018 t
      else s.setRb t k { e with st := .applying }

/-! ### Mirrors (10 R311, R313) -/

/-- The device to which an owner forwards a complete entry of a fragment, if it mirrors it: by the map, or
once it has been rebuilt (10 R311, 13 R410). -/
def State.mirrorOf (s : State) (c : Nat) (x : Tensor) (f : Nat) : Option Nat :=
  match s.smap c with
  | none => none
  | some m => match m.tensorEntry x.tid with
    | none => none
    | some t =>
      if !tenMirror t || x.replica || m.replica || s.ownerDev c t f != s.fab.devid then none
      else
        let failed := (s.ctx c).failed
        let l := (m.domain ((m.rankOf s.fab.devid).getD 0)).map m.devOf
        let next := nextAlive l failed l.length (((indexOf? s.fab.devid l).getD 0) + 1)
        match next with
        | none => none
        | some d =>
          if d = s.fab.devid then none
          else
            let r := (m.rankOf d).getD 0
            let byMap := (m.mirrors r).any fun o => (s.ownedBy c m x t (m.devOf o)).contains f
            let rebuilt := match (s.ctx c).job with
              | some j => (Tbl.get [] j.rebuilt r).contains (x.tid, f)
              | none => false
            if byMap || rebuilt then some d else none

/-- A complete entry sent to the mirror, once (10 R313). -/
def State.forwardMirror (s : State) (t k : Nat) (x : Tensor) : State :=
  let e := s.rb t k
  if e.mirrored then s
  else match s.mirrorOf e.ctx x e.fidx, s.smap e.ctx with
    | some d, some m =>
      let f : Fragment := { tid := e.tid, fidx := e.fidx, mstone := e.mstone, expect := x.expect
                            contrib := x.expect, srank := e.low, epoch := s.jobEpoch e.ctx
                            wire := if (s.ctx e.ctx).classW then 0 else 1, elems := e.elems }
      let s1 := s.setRb t k { e with mirrored := true }
      (s1.sendBytes (s1.fragFrame e.ctx 2 d 0 m f) (fragBytes f)).ev 0x08C 0 [e.ctx]
    | _, _ => s

/-! ### Arrival (R227 to R230) -/

/-- What the part does with a contribution (Table 8.3). -/
inductive Accept where
  | discard (cause : Nat) (stale : Bool)
  | overcount
  | add (x : Tensor)
deriving DecidableEq, Repr

/-- Table 8.3, its rows from the top. -/
def State.acceptance (s : State) (c : Nat) (f : Fragment) (e : RbEntry) : Accept :=
  let n := (s.ctx c).mstone
  if f.epoch < s.jobEpoch c ∨ (s.ctx c).bundle.step.isSome then .discard 0 true
  else if f.mstone < n ∨ n + 1 < f.mstone then .discard 1 true
  else match s.tensor c f.tid with
    | none => .discard 2 false
    | some x =>
      if f.wire = 3 ∨ f.reserved ∨ x.nfrag ≤ f.fidx ∨ (s.localOrd c x f.fidx).isNone then .discard 2 false
      else if x.frozen then .discard 4 false
      else if f.expect ≠ x.expect then .discard 2 false
      else if x.expect < e.recv + (e.early.map (·.frag.contrib)).foldl (· + ·) 0 + f.contrib then .overcount
      else .add x

/-- A contribution taken into an entry (R229, R230). It is accepted once it has been added, which an early one is later
(R227). -/
def State.intoEntry (s : State) (t k : Nat) (y : Contribution) : State :=
  let f := y.frag
  let e := s.rb t k
  match s.acceptance y.ctx f e with
  | .discard cause stale =>
    let s1 := if stale then s.evTile 0x019 t else s
    let s2 := if cause = 0 then s1 else s1.uoaLog t cause f.tid f.fidx
    let s3 := if e.recv = 0 ∧ e.early.isEmpty ∧ !e.suspect then s2.setRb t k {} else s2
    s3.release y
  | .overcount =>
    let s1 := ((s.setRb t k { e with suspect := true }).evTile 0x01A t).uoaLog t 3 f.tid f.fidx
    (s1.release y).settleEntry t k
  | .add x =>
    let e1 : RbEntry := { e with suspect := e.suspect || f.suspect }
    let ranks := if x.fixed then s.sranks y.ctx x f.fidx else []
    let r := if mayAdd ranks e1.added f.srank
      then s.addEarly y.ctx x ranks (e1.early.length + 1) (s.addOne y.ctx x e1 f) [y]
      else ({ e1 with early := e1.early ++ [y] }, [])
    let s1 := (s.setRb t k r.1).evTile 0x015 t
    let s2 := if f.suspect then s1.evTile 0x01B t else s1
    (r.2.foldl (fun st z => st.release z) s2).settleEntry t k

/-- The contribution that a unit takes next: the oldest whose fragment and step hold an entry, or that finds a
free one; only a contribution that holds no entry waits (R227; DEDUCED, log 111). -/
def Uoa.nextServed (u : Uoa) : Option Contribution :=
  u.waiting.find? fun y => (u.find y.ctx y.frag).isSome || u.freeSlot.isSome

/-- FRAGMENT_ARRIVE: the unit of a tile takes a contribution into the entry of its fragment and step, or into a
free one (R227, R230). Those that find no entry go on waiting, in arrival order. -/
def execFragmentArrive (t : Nat) (s : State) : Res :=
  let u := s.uoa t
  match u.nextServed with
  | none => .next s
  | some y =>
    let s1 := s.setUoa t { u with waiting := u.waiting.erase y }
    match u.find y.ctx y.frag with
    | some k => .next (s1.intoEntry t k y)
    | none =>
      let e : RbEntry := { st := .accumulating, ctx := y.ctx, tid := y.frag.tid, fidx := y.frag.fidx
                           mstone := y.frag.mstone, elems := List.replicate 8192 (zero32 true) }
      let k := u.freeSlot.getD 0
      .next ((s1.setRb t k e).intoEntry t k y)

/-! ### The update (R233 to R235, R240) -/

/-- One master element (R233). -/
def updateElement (w u0 eta lam chat : W32) : W32 :=
  let u := fmulC chat u0
  let v := ffmaC lam w u
  ffmaC (neg32 eta) v w

/-- A value rounded stochastically into a master format (R233). -/
def masterConv (key : W64) (x : Tensor) (f i site ord : Nat) (t : W32) : CRes :=
  convTo! x.mfmt true (.stochastic (srBits key (x.linear f i) site ord)) (decF32 t)
/-- Its code. -/
def masterCode (key : W64) (x : Tensor) (f i site ord : Nat) (t : W32) : Nat := (masterConv key x f i site ord t).bits

/-- The codes of a fragment of two-byte elements. -/
def fragCodes (b : Bytes) : List Nat := (chunks 2 8192 b).map leNat

/-- Codes laid over bytes, where the element lies inside the tensor. -/
def laidOver (x : Tensor) (f sz : Nat) (old : Bytes) (codes : List Nat) : Bytes :=
  (((chunks sz 8192 old).zip codes).zip (List.range 8192)).flatMap fun p =>
    if x.inside f p.2 then leBytes sz p.1.2 else p.1.1

/-- The elements of block `b` of a working fragment that lie inside the tensor (R46, R240). -/
def blockElems (x : Tensor) (f b : Nat) : List Nat :=
  let w := x.wblk
  let all := if x.bdim then (List.range w).map fun i => (b / 128 * w + i) * 128 + b % 128
    else (List.range w).map fun i => b / (128 / w) * 128 + b % (128 / w) * w + i
  all.filter (x.inside f)

/-- The working copy of a fragment from its new master values: its bytes, and its block saturations (R240). -/
def workingOf (key : W64) (x : Tensor) (f : Nat) (master : List W32) (old : Bytes) : Bytes × Nat :=
  let rd (i : Nat) : Rounding := .stochastic (srBits key (x.linear f i) 4 0)
  let val (i : Nat) : Fv := decF32 ((master[i]?).getD 0)
  if x.wblk = 0 then
    (laidOver x f 2 old ((List.range 8192).map fun i => (convTo! 1 true (rd i) (val i)).bits), 0)
  else
    (List.range (8192 / x.wblk)).foldl (fun (acc : Bytes × Nat) b =>
      match blockElems x f b with
      | [] => acc
      | is =>
        let r := convBlock 5 x.wfit (is.map fun i => (val i, rd i))
        let elems := (is.zip r.elems).foldl (fun bs p => putRec bs p.1 1 p.2) acc.1
        (putRec elems (8192 + b) 1 r.scale, acc.2 + r.sats)) (old, 0)

/-- A fragment's new master and working copy written into a slot: the codes of its elements inside the tensor,
with the Milestone argument of its conversions (R233, R240). -/
def State.writeFragment (s : State) (c t : Nat) (x : Tensor) (f j slot mst : Nat) (codes : List Nat) : State :=
  let key := srKey (s.ctx c).jobSeed x.tid mst
  let ma := x.maddr slot + 16384 * j
  let wa := x.waddr slot + x.wbytes * j
  let s1 := s.ctxWrite c ma (laidOver x f 2 (s.peekD c ma 16384) codes)
  let w := workingOf key x f (codes.map (elemToF32 x.mfmt)) (s1.peekD c wa x.wbytes)
  let s2 := s1.ctxWrite c wa w.1
  if w.2 = 0 then s2 else s2.evTile 0x009 t w.2

/-- s_f: the sum of U² over the elements inside the tensor (R235). -/
def sumSquares (x : Tensor) (f : Nat) (u : List W32) : W32 :=
  ((u.zip (List.range 8192)).filter fun p => x.inside f p.2).foldl (fun a p => ffmaC p.1 p.1 a) 0

/-- U holds a NaN or an infinity inside the tensor. -/
def nonFinite (x : Tensor) (f : Nat) (u : List W32) : Bool :=
  (u.zip (List.range 8192)).any fun p => x.inside f p.2 && !isFin32 p.1

/-- A complete entry of the current step applied: the new master and working copy are written, the norm
partial with them, the fragment is counted, and the entry is free (R233 to R235, R237, R240). A master read
that meets an uncorrectable word makes the entry suspect (11 R341). A master that saturates is counted as BLOCK_SAT, the
one counter of saturations (Table 8.17; DESIGN CHOICE, log 74). -/
def State.applyEntry (s0 : State) (t k : Nat) : State :=
  let e := s0.rb t k
  match s0.tensor e.ctx e.tid with
  | none => s0
  | some x =>
    match s0.localOrd e.ctx x e.fidx, s0.stepParams e.ctx e.mstone with
    | some j, some pb =>
      let n := e.mstone
      let s := s0.forwardMirror t k x
      (match s.ctxRead e.ctx (x.maddr (n % 2) + 16384 * j) 16384 with
      | none => s
      | some rd =>
        if rd.ue then ((rd.s.setRb t k { rd.s.rb t k with suspect := true }).settleEntry t k)
        else
          let old := fragCodes rd.bytes
          let skip := x.skipnf && nonFinite x e.fidx e.elems
          let key := srKey (s.ctx e.ctx).jobSeed e.tid n
          let eta := paramEta pb x.pgroup
          let lam := paramLam pb x.pgroup
          let new := ((old.zip e.elems).zip (List.range 8192)).map fun p =>
            (p.2, masterConv key x e.fidx p.2 3 0 (updateElement (elemToF32 x.mfmt p.1.1) p.1.2 eta lam x.chat))
          let codes := if skip then old else new.map (·.2.bits)
          let sats := (new.filter fun p => x.inside e.fidx p.1 && p.2.sat).length
          let s1 := if skip then (rd.s.ev 0x080 0 [e.ctx]).uoaLog t 6 e.tid e.fidx
            else if sats = 0 then rd.s else rd.s.evTile 0x009 t sats
          let s2 := s1.writeFragment e.ctx t x e.fidx j ((n + 1) % 2) n codes
          let s3 := s2.ctxWrite e.ctx (x.npaddr + 4 * j) (leBytes 4 (sumSquares x e.fidx e.elems).toNat)
          (s3.countWritten e.ctx x n j).setRb t k {})
    | _, _ => s0

/-- The page of an entry's fragment is away. -/
def State.entryAway (s : State) (c : Nat) (x : Tensor) (f : Nat) : Bool :=
  match s.localOrd c x f with
  | some j => x.pgf != 0 && s.awayAt c x j
  | none => false

/-- UPDATE_APPLY: entry `k` of a tile's unit is applied when it is complete, of the current step, not suspect,
its parameters are there and its page is resident (R232, R233). -/
def execUpdateApply (t k : Nat) (s : State) : Res :=
  let s1 := s.settleEntry t k
  let e := s1.rb t k
  match s1.tensor e.ctx e.tid with
  | none => .next s1
  | some x => .next (if e.st == .applying && !s1.entryAway e.ctx x e.fidx then s1.applyEntry t k else s1)

/-! ### Delta records (R248 to R250) -/

/-- The code that every element of a delta holds whose fragment is skipped under SKIPNF: the NaN of E6M9, which no delta
of finite values holds (R234; DESIGN CHOICE, log 69). -/
def skipCode : Nat := (convTo! 3 true .nearest (decF32 nan32)).bits

/-- A complete entry logged as a delta record (R248); under SKIPNF a non-finite U is not applied (R234). The write of its norm partial and its count follow R235
and R237. -/
def State.logDelta (s0 : State) (t k : Nat) : State :=
  let e := s0.rb t k
  match s0.tensor e.ctx e.tid with
  | none => s0
  | some x =>
    match s0.localOrd e.ctx x e.fidx, s0.stepParams e.ctx e.mstone with
    | some j, some pb =>
      let s := s0.forwardMirror t k x
      let n := e.mstone
      let p := x.pageOf j
      let i := j % x.pgf
      let b := s.logHead e.ctx x p
      let q := logPos b n
      if 3 < q then s0
      else
        let key := srKey (s.ctx e.ctx).jobSeed e.tid n
        let skip := x.skipnf && nonFinite x e.fidx e.elems
        let codes := (e.elems.zip (List.range 8192)).map fun y => if skip then skipCode
          else (convTo! 3 true (.stochastic (srBits key (x.linear e.fidx y.2) 5 q)) (decF32 (fmulC x.chat y.1))).bits
        let fresh := decide (logCount b ≤ q)
        let b1 := if fresh then
            putRec (putRec (putRec (putRec (putRec (putRec b 0 4 e.tid) 4 4 p) 8 1 (q + 1)) (16 + 8 * q) 8 n)
              (80 + 4 * q) 4 (paramEta pb x.pgroup).toNat) (96 + 4 * q) 4 (paramLam pb x.pgroup).toNat
          else b
        let pres := (if fresh then 0 else logPresent b q) ||| 2 ^ i
        let b2 := putRec b1 (48 + 8 * q) 8 pres
        let da := x.deltaAt p i q
        let s0' := if skip then (s.ev 0x080 0 [e.ctx]).uoaLog t 6 e.tid e.fidx else s
        let s1 := s0'.ctxWrite e.ctx da (laidOver x e.fidx 2 (s.peekD e.ctx da 16384) codes)
        let s2 := (s1.ctxWrite e.ctx (x.logAt p) b2).ev 0x082 0 [e.ctx]
        let s3 := s2.ctxWrite e.ctx (x.npaddr + 4 * j) (leBytes 4 (sumSquares x e.fidx e.elems).toNat)
        (s3.countWritten e.ctx x n j).setRb t k {}
    | _, _ => s0

/-- DELTA_RECORD: entry `k` of a tile's unit, complete and of the current step, whose page is away is logged
(R248). -/
def execDeltaRecord (t k : Nat) (s : State) : Res :=
  let s1 := s.settleEntry t k
  let e := s1.rb t k
  match s1.tensor e.ctx e.tid with
  | none => .next s1
  | some x => .next (if e.st == .applying && s1.entryAway e.ctx x e.fidx then s1.logDelta t k else s1)

/-- Master values of a fragment with one position of its log merged, the elements inside the tensor alone (R224, R250); a
skipped fragment keeps its master (R234). -/
def mergeStep (key : W64) (x : Tensor) (f : Nat) (eta lam : W32) (master : List Nat) (delta : List Nat) :
    List Nat :=
  let skip := x.skipnf && (delta.zip (List.range 8192)).any fun p => x.inside f p.2 && p.1 == skipCode
  ((master.zip delta).zip (List.range 8192)).map fun p =>
    let w := elemToF32 x.mfmt p.1.1
    if skip || !x.inside f p.2 then p.1.1 else masterCode key x f p.2 3 0 (ffmaC (neg32 eta) (ffmaC lam w (elemToF32 3 p.1.2)) w)

/-- The deltas of fragment `i` of a page at a position. -/
def State.deltaCodes (s : State) (c : Nat) (x : Tensor) (p i q : Nat) : List Nat :=
  fragCodes (s.peekD c (x.deltaAt p i q) 16384)

/-- Where the deltas of fragment `i` of a page at the first `k` positions stand. -/
def Tensor.deltaReads (x : Tensor) (p i k : Nat) : List (Nat × Nat) :=
  (List.range k).map fun q => (x.deltaAt p i q, 16384)

/-- The masters of a fragment after the first `k` positions of its page's log: of the steps merged, with the
version that each gives. -/
def State.mergeTo (s : State) (c : Nat) (x : Tensor) (p i f : Nat) (b : Bytes) (m0 : List Nat) : Nat → List Nat
  | 0 => m0
  | k + 1 =>
    mergeStep (srKey (s.ctx c).jobSeed x.tid (logMst b k)) x f (logEta b k) (logLam b k)
      (State.mergeTo s c x p i f b m0 k) (s.deltaCodes c x p i k)

/-! ### The Wayside copy of a page (11 R346) -/

/-- The region record of a page. -/
def State.regionRec (s : State) (c r : Nat) : Bytes := s.peekD c ((s.ctx c).wrt + 32 * r) 32

/-- The key of the access to fragment `i` of a page's copy. -/
def pageKey (x : Tensor) (p i : Nat) : List Nat := [1, x.tid, p, i]

/-- An access to fragment `i` of the copy of a page, in host memory or in peer HBM. -/
def State.pageAccess (s : State) (c : Nat) (x : Tensor) (p i : Nat) (pg : Bytes) (write : Bool) (data : Bytes) :
    State :=
  let r := s.regionRec c (pgRegion pg)
  let a := recN r 8 8 + pgRoff pg + 16384 * i
  match recN r 0 1 with
  | 1 => s.hostAccess c (pageKey x p i) (recN r 4 4 * 2 ^ 48 + a) 16384 write data
  | 2 => s.peerAccess c (pageKey x p i) (s.standIn c (recN r 2 2)) a 16384 write data none false
  | _ => s.newRemote { tag := 0, ctx := c, key := pageKey x p i, off := 0, host := false, write := write,
                       len := 16384, answered := true, failed := true }

/-- The reads of a whole page's copy begun. -/
def State.readCopy (s : State) (c : Nat) (x : Tensor) (p : Nat) (pg : Bytes) : State :=
  (List.range (x.pageFrags (s.heldFrags c x).length p)).foldl (fun st i => st.pageAccess c x p i pg false []) s

/-- FORCED_FETCH: a page whose position 3 has become complete is fetched synchronously: its copy is read
(R249). A fetch for use under way makes it unnecessary (Table 8.17). -/
def execForcedFetch (c tid p : Nat) (s : State) : Res :=
  match s.tensor c tid with
  | none => .next s
  | some x =>
    match s.pageAt c x p with
    | none => .next s
    | some pg =>
      if !s.forcedDue c x p || s.uoaDev.stalls.contains (c, tid, p) then .next s
      else
        let u := s.uoaDev
        let s1 := (s.readCopy c x p pg.2).ev 0x083 0 [c]
        .next { s1 with uoaDev := { u with stalls := u.stalls ++ [(c, tid, p)], forced := satInc 16 u.forced } }

/-- The fragment of a local ordinal. -/
def State.fragAt (s : State) (c : Nat) (x : Tensor) (j : Nat) : Nat := ((s.heldFrags c x)[j]?).getD 0

/-- FORCED_FETCH_DONE: the copy has been read and is merged with positions 0 to 2 and then written back; when
the write-back has been accepted, position 3's record moves to position 0, unless its step has been discarded
meanwhile, and the page's entries go on (R249, R250, R259). While a read or a write has failed it waits, as a fetch for
use does (DEDUCED, log 26). -/
def execForcedFetchDone (c tid p : Nat) (s : State) : Res :=
  match s.tensor c tid with
  | none => .next s
  | some x =>
    match s.pageAt c x p with
    | none => .next s
    | some pg =>
      let pre := [1, tid, p]
      let mine := s.remotes.filter fun r => r.ctx == c && pre.isPrefixOf r.key
      if !s.uoaDev.stalls.contains (c, tid, p) || !s.remoteOver c pre || !(s.remoteFails c pre).isEmpty then .next s
      else
        let b := s.logHead c x p
        let cnt := x.pageFrags (s.heldFrags c x).length p
        if mine.any fun r => !r.write then
          let merged := (List.range cnt).map fun i =>
            let m0 := fragCodes (sliceB (s.remoteData c (pageKey x p i)) 0 16384)
            s.mergeTo c x p i (s.fragAt c x (p * x.pgf + i)) b m0 3
          .next (((List.range cnt).zip merged).foldl (fun st im =>
            (st.meetCodes c (x.deltaReads p im.1 3)).pageAccess c x p im.1 pg.2 true (im.2.flatMap (leBytes 2)))
            (s.dropRemotes c pre))
        else
          let s1 := s.dropRemotes c pre
          let s2 := (List.range cnt).foldl (fun st i =>
            (st.meetCodes c [(x.deltaAt p i 3, 16384)]).ctxWrite c (x.deltaAt p i 0) (st.peekD c (x.deltaAt p i 3) 16384)) s1
          let b1 := putRec (putRec (putRec (putRec (putRec b 16 8 (logMst b 3)) 48 8 (logPresent b 3))
            80 4 (logEta b 3).toNat) 96 4 (logLam b 3).toNat) 8 1 1
          let b2 := if s.uoaDev.discarded.contains (c, tid, p) then putRec (putRec (putRec b1 16 8 0) 48 8 0) 8 1 0 else b1
          let s3 := (s2.ctxWrite c (x.logAt p) b2).putPage c x p 2 false false (logMst b 3)
          let u := s3.uoaDev
          .next { s3 with uoaDev :=
            { u with stalls := u.stalls.erase (c, tid, p), discarded := u.discarded.erase (c, tid, p) } }

/-! ### Norms and digests (R235, R246) -/

/-- Every fragment that the device holds of a tensor has been applied or logged for the current step. -/
def State.fragsDone (s : State) (c : Nat) (x : Tensor) : Bool :=
  let n := (s.ctx c).mstone
  x.frozen || (s.heldFrags c x).isEmpty || (x.slotSt ((n + 1) % 2) == 4 && x.tag ((n + 1) % 2) == n + 1)

/-- The group over which a tensor's norm is summed: NGROUP, none but the device itself for a replica (R235). -/
def Tensor.normGroup (x : Tensor) : Nat := if x.replica then 0x10000 else x.ngroup

/-- The key of the norm sum of step `n` of a tensor. -/
def Tensor.normKey (x : Tensor) (n : Nat) : List Nat := [n, x.tid, x.normGroup, 0]

/-- The ranks of this device in the group over which a norm is summed. -/
def State.normRanks (s : State) (c : Nat) (x : Tensor) : List Nat :=
  ranksIn s.fab.devid (s.controlGroup c x.normGroup).members

/-- The tensors of a job in whose norm sums this device takes part: those whose group lists it, whether or not it owns a
fragment (R235, 10 R310). -/
def State.normTensors (s : State) (c : Nat) : List Tensor :=
  (s.jobTensors c).filter fun x => !x.frozen && !(s.normRanks c x).isEmpty

/-- The device's own sum: the partials of the fragments it owns, in ascending fragment index; mirrored ones are
left out (10 R312). -/
def State.normOwn (s : State) (c : Nat) (x : Tensor) : W32 :=
  let own := s.owned c x
  ((sortBy (fun a b => decide (a ≤ b)) own).filterMap fun f => s.localOrd c x f).foldl
    (fun a j => faddC a (BitVec.ofNat 32 (recN (s.peekD c (x.npaddr + 4 * j) 4) 0 4))) 0

/-- Where the partials of that sum stand. -/
def State.normReads (s : State) (c : Nat) (x : Tensor) : List (Nat × Nat) :=
  ((s.owned c x).filterMap fun f => s.localOrd c x f).map fun j => (x.npaddr + 4 * j, 4)

/-- The rank under which the device's own sum goes; a rank that it holds as a stand-in adds 0, since its sum
includes the partials of the fragments it took over (13 R408). -/
def State.normRank (s : State) (c : Nat) (x : Tensor) (first : Nat) : Nat :=
  ((s.groupRec c x.ngroup).bind fun g => indexOf? s.fab.devid g.members).getD first

/-- NORM_SUM: once every local fragment of a tensor has been applied, the device's norm sum joins the reduction
of NGROUP (R235; 09 R292). -/
def execNormSum (c tid : Nat) (s : State) : Res :=
  match s.tensor c tid, (s.ctx c).job with
  | some x, some j =>
    let rs := s.normRanks c x
    if x.frozen || j.norms.contains tid || !s.fragsDone c x || rs.isEmpty then .next s
    else
      let v := s.normOwn c x
      let main := s.normRank c x (rs.headD 0)
      let s1 := rs.foldl (fun st r => st.contributeControl c ctlNorm (x.normKey j.mstone) r
        (leBytes 4 (if r = main then v else 0).toNat)) (s.meetCodes c (s.normReads c x))
      let y := s1.ctx c
      .next (s1.setCtx c { y with job := y.job.map fun k => { k with norms := k.norms ++ [tid] } })
  | _, _ => .next s

/-- The norm sum of a tensor for step `n`, once the reduction's result has come to this device (R235, 09 R292). -/
def State.normTotal (s : State) (c n : Nat) (x : Tensor) : Option W32 :=
  (s.fab.controls.findSome? fun k => if k.ctx == c && k.kind == ctlNorm && k.key == x.normKey n then k.result else none).map
    fun b => BitVec.ofNat 32 (leNat b)

/-- The norm sum of a tensor is over for this device: its sum is accepted and the total has come. -/
def State.normIn (s : State) (c n : Nat) (x : Tensor) : Bool := (s.normTotal c n x).isSome

/-- The bytes of a master slot of a tensor, in ordinal order, and of a working slot. -/
def State.masterBytes (s : State) (c : Nat) (x : Tensor) (slot : Nat) : Bytes :=
  (List.range (s.heldFrags c x).length).flatMap fun j => s.peekD c (x.maddr slot + 16384 * j) 16384

/-- Where the bytes of a master slot stand. -/
def State.masterReads (s : State) (c : Nat) (x : Tensor) (slot : Nat) : List (Nat × Nat) :=
  (List.range (s.heldFrags c x).length).map fun j => (x.maddr slot + 16384 * j, 16384)

/-- The device digest of Milestone `m`: over the CURRENT masters of the REPLICA tensors (R246). -/
def State.deviceDigest (s : State) (c m : Nat) : Bytes :=
  sha3_512 (((s.jobTensors c).filter (·.replica)).flatMap fun x =>
    leBytes 4 x.tid ++ sha3_512 (s.masterBytes c x (x.cur m)))

/-- What a device digest reads. -/
def State.digestReads (s : State) (c m : Nat) : List (Nat × Nat) :=
  ((s.jobTensors c).filter (·.replica)).flatMap fun x => s.masterReads c x (x.cur m)

/-- The replica group: the owner group of the first REPLICA tensor (R246). -/
def State.replicaGid (s : State) (c : Nat) : Nat :=
  match s.smap c with
  | none => 0x10000
  | some m => if m.replica then 0
    else (((s.jobTensors c).find? (·.replica)).bind fun x => (m.tensorEntry x.tid).map tenOgroup).getD 0

/-- The members of the replica group. -/
def State.replicaGroup (s : State) (c : Nat) : List Nat := (s.controlGroup c (s.replicaGid c)).members

/-- A digest is due in the current step of a job (R246). -/
def State.digestDue (s : State) (c : Nat) : Bool :=
  s.uoaDev.period != 0 && (s.ctx c).mstone % s.uoaDev.period == 0
    && (s.jobTensors c).any (·.replica)

/-- REPLICA_DIGEST: the digest that is due is formed and sent down this device's own tree of the replica group (R246, 09
R292). -/
def execReplicaDigest (c : Nat) (s : State) : Res :=
  match (s.ctx c).job with
  | none => .next s
  | some j =>
    if !s.digestDue c || j.digest == some j.mstone then .next s
    else
      let gid := s.replicaGid c
      let d := s.deviceDigest c j.mstone
      let s1 := (ranksIn s.fab.devid (s.replicaGroup c)).foldl (fun st r =>
        (st.noteControl c ctlDigest [j.mstone] 0 r r d).controlDown c gid r r ctlDigest [j.mstone] r d)
        (s.meetCodes c (s.digestReads c j.mstone))
      let y := s1.ctx c
      let s2 := s1.setCtx c { y with job := y.job.map fun k => { k with digest := some k.mstone } }
      .next { s2 with uoaDev := { s2.uoaDev with lastM := j.mstone % 2 ^ 32 } }

/-- The digests exchanged for Milestone `m`. -/
def State.digests (s : State) (c m : Nat) : List (Nat × Bytes) :=
  ((s.fab.controls.find? fun k => k.ctx == c && k.kind == ctlDigest && k.key == [m]).map fun k =>
    k.inputs.map fun i => (i.1, i.2.2)).getD []

/-- The digest exchange of the step is over: every member's digest has come. -/
def State.digestIn (s : State) (c m : Nat) : Bool :=
  let ds := s.digests c m
  (List.range (s.replicaGroup c).length).all fun r => ds.any fun i => i.1 == r

/-- This device's digest differs from the reference: that of the lowest-ranked member (R247). -/
def State.drifted (s : State) (c m : Nat) : Bool :=
  let ds := s.digests c m
  match (ds.find? fun i => i.1 == 0), (ranksIn s.fab.devid (s.replicaGroup c)).head? with
  | some r, some own => (match ds.find? fun i => i.1 == own with
    | some o => o.2 != r.2
    | none => false)
  | _, _ => false

/-! ### Discard (R244) -/

/-- The log positions of a step removed from every page of a tensor (R250); of a page with a forced fetch under way when
its write-back is over (R259). -/
def State.dropDeltas (s : State) (c n : Nat) (x : Tensor) : State :=
  (List.range (x.pages (s.heldFrags c x).length)).foldl (fun st p =>
    let b := st.logHead c x p
    let q := logPos b n
    if st.uoaDev.stalls.contains (c, x.tid, p) && logMst b 3 == n then
      { st with uoaDev := { st.uoaDev with discarded := st.uoaDev.discarded ++ [(c, x.tid, p)] } }
    else if q < logCount b ∧ logCount b ≤ 4 then
      st.ctxWrite c (x.logAt p) (putRec (putRec (putRec b (16 + 8 * q) 8 0) (48 + 8 * q) 8 0) 8 1 q)
    else st) s

/-- Recovery discards step `n`: entries and waiting contributions of steps n and n + 1, slot b of every tensor,
delta records and norm sums (R244). -/
def State.discardUpdates (s : State) (c n : Nat) : State :=
  let late (m : Nat) : Bool := m == n || m == n + 1
  let gone := s.uoas.flatMap fun u => u.2.held.filter fun y => y.ctx == c && late y.frag.mstone
  let uoas := s.uoas.mapv fun _ u =>
    { u with waiting := u.waiting.filter (fun y => !(y.ctx == c && late y.frag.mstone))
             entries := u.entries.filter fun e => !(e.2.st != .free && e.2.ctx == c && late e.2.mstone) }
  let s1 := gone.foldl (fun st y => st.release y) { s with uoas := uoas }
  let s2 := (s1.jobTensors c).foldl (fun st x =>
    if x.frozen then st else (st.voidSlot c n x).dropDeltas c n x) s1
  let y := s2.ctx c
  s2.setCtx c { y with applied := [], job := y.job.map fun k => { k with norms := [], digest := none } }

end Sys2Proof.Machine
end

