-- ==== Sys2Proof/Machine/Wayside.lean ====
section
/-! DEFINITION. The Wayside tier: its commands, evictions and fetches of pages, and the answers of the host and
of peers (11_memory_tiers R346 to R351).
Assumption log: log 26 (DEDUCED),
log 79 (DESIGN CHOICE). -/

namespace Sys2Proof.Machine

/-! ### Commands (R348) -/

/-- Command entry `i` of a context's ring. -/
def State.wcmd (s : State) (c i : Nat) : Bytes := s.peekD c ((s.ctx c).wcr + 32 * i) 32

/-- The pages that a command names. -/
def wcmdPages (b : Bytes) : List Nat := upTo (recN b 8 4) (recN b 12 4)

/-- Every page of a command has reached its state: RESTING for REST, RESIDENT for FETCH. -/
def State.wcmdOver (s : State) (c : Nat) (b : Bytes) : Bool :=
  match s.tensor c (recN b 4 4) with
  | none => true
  | some x => (wcmdPages b).all fun p =>
      (s.pageAt c x p).isNone || s.pageState c x p == (if recN b 0 1 = 1 then 2 else 0)

/-- DONE written in the commands whose pages have arrived. -/
def State.settleWcmds (s : State) (c : Nat) : State :=
  let ended := (s.ctx c).wRuns.filter fun i => s.wcmdOver c (s.wcmd c i)
  let s1 := ended.foldl (fun st i => st.ctxWrite c ((st.ctx c).wcr + 32 * i) (putRec (st.wcmd c i) 1 1 1)) s
  let x := s1.ctx c
  s1.setCtx c { x with wRuns := x.wRuns.filter fun i => !ended.contains i }

/-! ### Eviction (R349) -/

/-- A page's eviction begun: EVICTING, and the CURRENT masters of its fragments written to its copy. -/
def State.beginEvict (s : State) (c : Nat) (x : Tensor) (p : Nat) : State :=
  match s.pageAt c x p with
  | none => s
  | some pg =>
    let n := (s.ctx c).mstone
    let s1 := (s.putPage c x p 1 false false n).ev 0x08E 0 [c]
    (List.range (x.pageFrags (s.heldFrags c x).length p)).foldl (fun st i =>
      let rd := (st.ctxRead c (x.maddr (x.cur n) + 16384 * (p * x.pgf + i)) 16384).getD ⟨st, [], false⟩
      rd.s.pageAccess c x p i pg.2 true rd.bytes) s1

/-- A fragment of a page has been applied or logged for the step in progress. -/
def State.pageBusy (s : State) (c : Nat) (x : Tensor) (p : Nat) : Bool :=
  (s.ctx c).applied.any fun y => y.1 == x.tid && x.pageOf y.2 == p

/-- One page of a REST command. -/
def State.restPage (s : State) (c : Nat) (x : Tensor) (p : Nat) : State :=
  if (s.pageAt c x p).isNone || s.pageState c x p != 0 then s
  else if s.pageBusy c x p then
    let y := s.ctx c
    s.setCtx c { y with wRests := y.wRests ++ [(x.tid, p)] }
  else s.beginEvict c x p

/-- The next command of a context's ring starts, when it has the given OP (R348). A command with a reserved OP starts
nothing and holds the ring (DESIGN CHOICE, log 79). -/
def State.startWcmd (s : State) (c op : Nat) (page : State → Tensor → Nat → State) : State :=
  let x := s.ctx c
  let b := s.wcmd c x.wHead
  if x.wHead = x.wTail ∨ recN b 0 1 ≠ op then s
  else
    let s1 := s.setCtx c { x with wHead := (x.wHead + 1) % 256, wRuns := x.wRuns ++ [x.wHead] }
    let s2 := match s1.tensor c (recN b 4 4) with
      | none => s1
      | some t => (wcmdPages b).foldl (fun st p => page st t p) s1
    s2.settleWcmds c

/-- REST: the next command of a context's ring, a REST, starts (R348, R349). -/
def execRest (c : Nat) (s : State) : Res := .next (s.startWcmd c 1 fun st x p => st.restPage c x p)

/-- Rests that waited for the Milestone take effect (R349). -/
def State.takeRests (s : State) (c : Nat) : State :=
  let x := s.ctx c
  x.wRests.foldl (fun st r => match st.tensor c r.1 with
    | some t => if st.pageState c t r.2 = 0 then st.beginEvict c t r.2 else st
    | none => st) (s.setCtx c { x with wRests := [] })

/-- EVICT_DONE: the eviction's write has been accepted: the page rests and its frame is free (R349). -/
def execEvictDone (c tid p : Nat) (s : State) : Res :=
  match s.tensor c tid with
  | none => .next s
  | some x => match s.pageAt c x p with
    | none => .next s
    | some pg =>
      let pre := [1, tid, p]
      if pgState pg.2 != 1 || !s.remoteOver c pre || !(s.remoteFails c pre).isEmpty then .next s
      else
        let s1 := ((s.dropRemotes c pre).putPage c x p 2 false false (pgVtag pg.2)).putFrame c (pgFrame pg.2) none
        .next (s1.settleWcmds c)

/-! ### Fetches (R350, R351) -/

/-- A fetch asked for: it waits for its frame. -/
def State.askFetch (s : State) (c : Nat) (x : Tensor) (p : Nat) (byCmd : Bool) : State :=
  let y := s.ctx c
  if (s.pageAt c x p).isNone || s.pageState c x p == 0 || s.pageState c x p == 3
      || y.wFetches.any (fun f => f.1 == x.tid && f.2.1 == p) then s
  else s.setCtx c { y with wFetches := y.wFetches ++ [(x.tid, p, byCmd)] }

/-- FETCH: the next command of a context's ring, a FETCH, starts (R348, R350). -/
def execFetch (c : Nat) (s : State) : Res := .next (s.startWcmd c 2 fun st x p => st.askFetch c x p true)

/-- WAYSIDE_DEMAND: a versioned move that is held, of the context or of one that reads its weights (12 R384), starts a
fetch of a resting page that it touches (R351). -/
def execWaysideDemand (c tid p : Nat) (s : State) : Res :=
  match s.tensor c tid with
  | none => .next s
  | some x =>
    let wants := s.ctxs.keys.any fun k => s.weightsOf k == c && (List.range (s.ctx k).map.length).any fun v =>
      (List.range 4).any fun q => match (s.queue k v q).st, (s.queue k v q).waits with
      | .waiting, .version d =>
        let m := moveOf d
        m.tid == tid && m.srcSpace == 2
          && (s.pagesTouched c x (rowsOf m.src m.spitch m.rows m.rowbytes)).contains p
      | _, _ => false
    if wants && s.pageState c x p == 2 && !(s.ctx c).wFetches.any (fun f => f.1 == tid && f.2.1 == p) then
      .next ((s.askFetch c x p false).ev 0x090 0 [c])
    else .next s

/-- FETCH_START: a fetch whose frame is free claims it and reads the copy (R350). While the frame is owned it
waits. -/
def execFetchStart (c tid p : Nat) (s : State) : Res :=
  match s.tensor c tid, (s.ctx c).wFetches.find? fun f => f.1 == tid && f.2.1 == p with
  | some x, some f => (match s.pageAt c x p with
    | none => .next s
    | some pg =>
      if pgState pg.2 != 2 || (s.frameOwner c (pgFrame pg.2)).isSome then .next s
      else
        let y := s.ctx c
        let s1 := s.setCtx c { y with wFetches := y.wFetches.filter fun g => g != f }
        let s2 := (s1.putFrame c (pgFrame pg.2) (some (tid, p))).putPage c x p 3 false false (pgVtag pg.2)
        let s3 := if f.2.2 then s2.ev 0x08F 0 [c] else s2
        .next (s3.readCopy c x p pg.2))
  | _, _ => .next s

/-- The tile at which a held fragment's unit stands. -/
def State.unitOf (s : State) (c : Nat) (x : Tensor) (j : Nat) : Nat := s.physD c (x.ovt0 + j % (x.ovtn + 1))

/-- A page with no position of an uncommitted step left becomes RESIDENT, with an empty log (R350). -/
def State.settlePage (s : State) (c : Nat) (x : Tensor) (p : Nat) : State :=
  match s.pageAt c x p with
  | none => s
  | some pg =>
    let b := s.logHead c x p
    let n := (s.ctx c).mstone
    let open_ := (List.range (logCount b)).any fun q => decide (n ≤ logMst b q)
    if pgState pg.2 != 3 || !pgReadable pg.2 || open_ then s
    else
      let s1 := s.ctxWrite c (x.logAt p) (putRec b 8 1 0)
      (s1.putPage c x p 0 true (pgHasOld pg.2) (pgVtag pg.2)).settleWcmds c

/-- FETCH_DONE: the copy has been read: the committed positions of the log are merged, version n and, where the
merge passes through it, version n − 1 are written with their working copies, and READABLE is set (R350). -/
def execFetchDone (c tid p : Nat) (s : State) : Res :=
  match s.tensor c tid with
  | none => .next s
  | some x => match s.pageAt c x p with
    | none => .next s
    | some pg =>
      let pre := [1, tid, p]
      if pgState pg.2 != 3 || pgReadable pg.2 || !s.remoteOver c pre || !(s.remoteFails c pre).isEmpty then .next s
      else
        let n := (s.ctx c).mstone
        let b := s.logHead c x p
        let cnt := x.pageFrags (s.heldFrags c x).length p
        let upto (v : Nat) : Nat := ((List.range (logCount b)).filter fun q => decide (logMst b q < v)).length
        let old := decide (pgVtag pg.2 < n) && !x.frozen
        let write (st : State) (v : Nat) : State := (List.range cnt).foldl (fun q i =>
          let j := p * x.pgf + i
          let f := q.fragAt c x j
          let m0 := fragCodes (sliceB (s.remoteData c (pageKey x p i)) 0 16384)
          (q.meetCodes c (x.deltaReads p i (upto v))).writeFragment c (q.unitOf c x j) x f j (x.cur v) (v - 1) (q.mergeTo c x p i f b m0 (upto v))) st
        let s1 := write (if old then write s (n - 1) else s) n
        let s2 := (s1.dropRemotes c pre).putPage c x p 3 true old n
        .next (s2.settlePage c x p)

/-- At the completion of Milestone `m`, the position of the step that it commits is merged into the next slot of
every page that is being fetched and is readable, and such a page may become RESIDENT (R350). -/
def State.mergeFetching (s : State) (c m : Nat) : State :=
  (s.jobTensors c).foldl (fun st x =>
    (List.range (x.pages (st.heldFrags c x).length)).foldl (fun st2 p =>
      match st2.pageAt c x p with
      | none => st2
      | some pg =>
        if pgState pg.2 != 3 || !pgReadable pg.2 then st2
        else
          let b := st2.logHead c x p
          match (List.range (logCount b)).find? fun q => logMst b q + 1 == m with
          | none => st2.settlePage c x p
          | some q =>
            let cnt := x.pageFrags (st2.heldFrags c x).length p
            let s3 := (List.range cnt).foldl (fun st3 i =>
              let j := p * x.pgf + i
              let f := st3.fragAt c x j
              let cur := fragCodes (st3.peekD c (x.maddr ((m - 1) % 2) + 16384 * j) 16384)
              let key := srKey (st3.ctx c).jobSeed x.tid (m - 1)
              (st3.meetCodes c [(x.maddr ((m - 1) % 2) + 16384 * j, 16384), (x.deltaAt p i q, 16384)]).writeFragment c
                (st3.unitOf c x j) x f j (m % 2) (m - 1)
                (mergeStep key x f (logEta b q) (logLam b q) cur (st3.deltaCodes c x p i q))) st2
            (s3.putPage c x p 3 true true m).settlePage c x p) st) s

/-- Pages whose uncommitted position a discard has removed may become RESIDENT. -/
def State.settlePages (s : State) (c : Nat) : State :=
  (s.jobTensors c).foldl (fun st x =>
    (List.range (x.pages (st.heldFrags c x).length)).foldl (fun st2 p => st2.settlePage c x p) st) s

end Sys2Proof.Machine
end

