-- ==== Sys2Proof/Machine/Fabric.lean ====
section
/-! DEFINITION. The fabric ports: hellos, retry and retraining, and the frames that arrive
(09_causeway_collectives R261 to R276, R291 to R295; 10_parallel_mapping R327; 11_memory_tiers R345).
A frame that the device sent to itself arrives at port 24. -/

namespace Sys2Proof.Machine

/-! ### Hellos (R269 to R272) -/

/-- VMIN and VMAX of a port (R269). -/
def Port.vmin (x : Port) : Nat := if bit x.runFab.toNat 0 then 1 else 3
def Port.vmax (x : Port) : Nat := if bit x.runCtl.toNat 4 then 1 else 3

/-- The payload of a HELLO (Table 9.5); stepping A1 (00 R2). -/
def helloBytes (dev port vmin vmax beat st : Nat) : Bytes :=
  leBytes 2 dev ++ leBytes 1 port ++ leBytes 1 (16 * vmin + vmax) ++ leBytes 4 beat ++ leBytes 1 st
    ++ leBytes 1 0x11 ++ List.replicate 54 0

/-- A HELLO sent on a port with a STATE (R269). -/
def State.sendHello (s : State) (p st : Nat) : State :=
  let x := s.port p
  let f : Frame := { ver := if x.ver = 0 then x.vmax else x.ver, ty := 0, vc := 0, last := true, dst := x.peer
                     src := s.fab.devid
                     payload := helloBytes s.fab.devid p x.vmin x.vmax x.beat st }
  let s1 := if x.up then s.setPort p { x with beat := (x.beat + 1) % 2 ^ 32 } else s
  s1.enqueue p { frame := f.seal }

/-- STATE of this device's hellos: 1 at READY, 0 before (Table 9.5, 15 Table 15.1). -/
def State.helloState (s : State) : Nat := b2n (s.sec.stage == 9)

/-- A port whose PCS is locked sends hellos (R261, R269). -/
def Port.beats (x : Port) : Bool := (x.en.st == .on || x.en.st == .starting) && x.live

/-- HELLO_SEND: the beat of a port (R269). A device that has declared itself failed sends none (13 R394). -/
def execHelloSend (p : Nat) (s : State) : Res :=
  if (s.port p).beats && !s.aon.failed then .next (s.sendHello p s.helloState) else .next s

/-- The direction in which a peer lies (R274). -/
def Fab.direction (f : Fab) (peer : Nat) : Nat :=
  let self := f.devid
  let ds := (List.range 3).filter fun d => devCoord peer d != devCoord self d
  if peer / 2 ^ 14 ≠ 0 then 6
  else match ds with
    | [d] =>
      let n := f.dim d
      let c := devCoord self d
      let e := devCoord peer d
      if n ≤ e then 6
      else if (c + 1) % n = e then 2 * d
      else if (c + n - 1) % n = e then 2 * d + 1
      else 6
    | _ => 6

/-- The versions that both ends offer; the part implements 1 and 3 (R269, R270). -/
def agreedVersion (x : Port) (vmin vmax : Nat) : Option Nat :=
  [3, 1].find? fun v => decide (x.vmin ≤ v) && decide (v ≤ x.vmax) && decide (vmin ≤ v) && decide (v ≤ vmax)

/-- A port becomes UP: full credits, its peer, version and direction, and the start ends. What it owes for the frames
taken so far it still owes (R261, R264, R270, R274). -/
def State.portUp (s : State) (p peer ver : Nat) : State :=
  let x := s.port p
  let y : Port := { x with en := x.en.started, up := true, peer := peer, ver := ver, missed := 0, beat := 0
                           dir := s.fab.direction peer
                           cred := (List.range 4).foldl (fun t v => Tbl.set t v (vcBuffer v)) [] }
  let s1 := (s.setPort p y).reroute
  let s2 := State.drainPort p ((s1.port p).waiting.length + 1) s1
  if (s2.port p).en.st == .stopping then s2.sendHello p 2 else s2

/-- A port whose peer shows STATE 0 or 2 is not UP; its waiting frames move to the direction's other UP ports
(R270, R275; DEDUCED, log 112). -/
def State.portNotUp (s : State) (p : Nat) : State :=
  let x := s.port p
  if !x.up then s
  else
    (s.setPort p { x with up := false, waiting := x.waiting.filter fun t => t.frame.bare || t.frame.ty == 0 }).moveWaiting
      x.waiting

/-- A payload fails its end-to-end check: counted and logged (R268). -/
def State.checkE2e (s : State) (cs : List Nat) (p : Nat) (f : Frame) : State :=
  if f.e2e = f.crc then s else (s.ev 0x087 0 cs).fabLog 1 p f.src f.epoch

/-- A peer is reported to the recovery agent for every job of which it is no member in the job's epoch; a member is no
longer joinable (R272). -/
def State.noteJoinable (s : State) (dev : Nat) : State :=
  s.jobCtxs.foldl (fun st c =>
    let x := st.ctx c
    let l := x.recov.joinable.filter (· != dev)
    st.setCtx c { x with recov := { x.recov with joinable := if st.jobMember c dev then l else l ++ [dev] } }) s

/-- What a HELLO does (R270 to R272, 18 R515). DEDUCED, log 64. -/
def State.takeHello (s : State) (p : Nat) (b : Bytes) : State :=
  let dev := recN b 0 2
  let st := recN b 8 1
  let x := s.port p
  let agreed := agreedVersion x (fld (recN b 3 1) 4 4) (fld (recN b 3 1) 0 4)
  if dev = s.fab.devid ∧ dev ≠ 0xFFFF then s.ev 0x063 p []
  else
    let s1 := s.setPort p { x with missed := 0 }
    let s2 := if agreed.isNone && !x.up then s1.fabLog 4 p dev 0 else s1
    if st = 2 then (s2.portNotUp p).suspectPeer dev
    else if st = 0 then s2.portNotUp p
    else if st ≠ 1 ∨ dev = 0xFFFF ∨ s.aon.failed then s2
    else match agreed, x.up with
      | some v, false => (s2.noteJoinable dev).portUp p dev v
      | _, true => s2.noteJoinable dev
      | none, false => s2

/-! ### Link-level retry (R264, R266, R267) -/

/-- Link sequence number `a` comes before `b`, modulo 65,536. -/
def lseqBefore (a b : Nat) : Bool :=
  let d := (b + 65536 - a % 65536) % 65536
  decide (0 < d) && decide (d < 32768)

/-- The LACK and the CREDIT of a frame taken. -/
def Port.take (x : Port) (f : Frame) : Port :=
  { x with replay := x.replay.filter fun r => !lseqBefore r.frame.lseq f.lack
           cred := if x.up then (List.range 4).foldl (fun t v =>
             Tbl.set t v (min (vcBuffer v) (Tbl.get 0 t v + fld f.credit (8 * v) 8))) x.cred else x.cred }

/-- A NAK or ACK sent (Table 9.3). -/
def State.sendBare (s : State) (p ty : Nat) : State :=
  let x := s.port p
  let v := if x.ver = 0 then x.vmax else x.ver
  s.enqueue p { frame := { ver := v, ty := ty, vc := 0, last := true, dst := x.peer, src := s.fab.devid } }

/-- One NAK for a gap or a bad FCS (R266). -/
def State.nak (s : State) (p : Nat) : State :=
  let x := s.port p
  if x.naked || !x.live then s else (s.setPort p { x with naked := true }).sendBare p 2

/-- The frames of the replay buffer resent from LACK: each counts (R266). -/
def State.resend (s : State) (p : Nat) : State :=
  let x := s.port p
  let n := x.replay.length
  let y : Port := { x with replay := x.replay.map fun r => { r with resent := r.resent + 1 }
                           retries := satInc 16 x.retries n }
  let s1 := x.replay.foldl (fun (st : State) r => st.emit (.frame p r.frame)) (s.setPort p y)
  if n = 0 then s1 else s1.ev 0x060 p [] n

/-- The port hears a frame: it is on the line, and the frame is a Causeway frame by its EtherType (R262; one of another
EtherType is ignored, DEDUCED, log 68). -/
def Port.hears (x : Port) (f : Frame) : Bool := x.live && f.etype == x.etype

/-- What a frame that the link accepts brings with it: its acknowledgement, on which sends count as accepted, and its
credits, with which frames that wait can go (R264, R266). -/
def State.linkTake (s : State) (p : Nat) (x : Port) : State :=
  (State.drainPort p (x.waiting.length + 1) (s.setPort p x)).settlePermutes

/-- A received frame at the link: its acknowledgement and credits are taken when it is accepted, which its
LSEQ decides (R264, R266). -/
def State.linkRx (s : State) (p : Nat) (f : Frame) : State × Bool :=
  let x := s.port p
  if !x.hears f then (s, false)
  else if f.bare then (s.linkTake p (x.take f), true)
  else if f.lseq = x.rxSeq then
    (s.linkTake p { x.take f with rxSeq := (x.rxSeq + 1) % 65536, naked := false }, true)
  else if lseqBefore f.lseq x.rxSeq then (s, false)
  else (s.nak p, false)

/-- A frame leaves the receive buffer (R264). -/
def State.freeFrame (s : State) (p : Nat) (f : Frame) : State :=
  if p < 24 ∧ !f.bare then s.owe p f.vc f.credits else s

/-- A frame of a reserved type or version, or on a wrong virtual channel, is discarded (R263). A type that a
v1 link does not carry is treated alike (R273; log 62). -/
def State.dropFrame (s : State) (p : Nat) (f : Frame) : State :=
  ((s.ev 0x063 p []).fabLog 3 p f.src f.epoch).freeFrame p f

/-- The frame is of a known type and version, on a channel of its type. -/
def frameOk (x : Port) (f : Frame) : Bool :=
  (f.ver == 1 || f.ver == 3) && decide (f.ty ≤ 9) && vcMatches f.ty f.vc && (x.ver != 1 || v1Type f.ty)

/-- The current values that a frame on a v1 link stands for: the job that the peer serves, and its collective
in progress (R273). The end-to-end check stays as good or as bad as it was. DEDUCED, log 59. -/
def State.readV1 (s : State) (f : Frame) : Frame :=
  match s.jobCtxs.find? fun c => match s.group c 0 with
    | some g => g.members.contains f.src
    | none => false with
  | none => f.relabel { f with ver := 3 }
  | some c =>
    let k := s.fab.colls.find? fun k => k.ctx == c && (s.collGroup k).members.contains f.src
    f.relabel { f with ver := 3, job := s.jobTag c, epoch := s.jobEpoch c,
                       group := (k.map fun k => cGroup k.desc).getD 0,
                       cseq := (k.map (·.cseq)).getD 0 }

/-! ### What frames carry -/

/-- A frame discarded for its epoch or its sender (R272, R276). -/
def State.staleFrame (s : State) (cs : List Nat) (p : Nat) (f : Frame) : State :=
  (s.ev 0x088 0 cs).freeFrame p f

/-- A frame held in its receive buffer (R276, R283). -/
def State.holdFrame (s : State) (p : Nat) (f : Frame) : State :=
  { s with fab := { s.fab with held := s.fab.held ++ [(p, f)] } }

/-- A post with this CSEQ has not been made yet. -/
def notPosted (posts cseq : Nat) : Bool := lseqBefore (posts % 65536) cseq

/-- A frame of a collective, or the credit for one of its chunks (R279, R280, R283 to R287, R294). -/
def State.collFrame (s : State) (c p : Nat) (f : Frame) : State :=
  match s.fab.colls.find? fun k => k.ctx == c && cGroup k.desc == f.group && k.cseq == f.cseq
      && (match f.rankTo with | some r => k.rank == r | none => true) with
  | none =>
    let r := f.rankTo.getD ((ranksIn s.fab.devid ((s.group c f.group).getD ⟨[], 2⟩).members).headD 0)
    if notPosted (s.postsOn c f.group r) f.cseq then s.holdFrame p f else s.freeFrame p f
  | some k =>
    let g := s.collGroup k
    let from_ := f.rankFrom.getD ((indexOf? f.src g.members).getD 0)
    let s1 := s.checkE2e [c] p f
    (match f.msg with
    | some (.grant key) => s1.collGrant k ((key[1]?).getD 0, (key[2]?).getD 0) (f.e2e != f.crc)
    | _ => s1.collTake k f from_ (collDown k g f from_)).freeFrame p f

/-- The fragment at a context's local ordinal in a tensor's CURRENT copies written from an owner's copy; the
entries that waited for it go on (13 R410). -/
def State.takeCopy (s : State) (c tid fidx : Nat) (data : Bytes) : State :=
  match s.tensor c tid with
  | none => s
  | some x => match s.localOrd c x fidx with
    | none => s
    | some o =>
      let m := x.cur (s.ctx c).mstone
      let s1 := s.ctxWrite c (x.maddr m + 16384 * o) (data.take 16384)
      let s2 := s1.ctxWrite c (x.waddr m + x.wbytes * o) (data.drop 16384)
      let z := s2.ctx c
      let s3 := s2.setCtx c { z with job := z.job.map fun j =>
        { j with awaiting := j.awaiting.filter fun q => q != (tid, fidx) } }
      (List.range 256).foldl (fun st t => (st.uoa t).entries.keys.foldl (fun st2 k =>
        let e := st2.rb t k
        if e.ctx == c && e.tid == tid && e.fidx == fidx then st2.settleEntry t k else st2) st) s3

/-- The bytes of a stream's rows, taken from the stream's peer (R288). -/
def State.streamFrame (s : State) (c p : Nat) (f : Frame) : State :=
  let flow := fld f.cseq 0 12
  match Tbl.find s.fab.streams flow with
  | some x =>
    if x.sends || x.ctx != c || x.peer != f.src then s.freeFrame p f
    else (((s.checkE2e [c] p f).streamBytes flow f.payload (f.e2e != f.crc)).runArrays).freeFrame p f
  | none => s.freeFrame p f

/-- The report of a stream's receiver: it waits in its receive buffer for a stream that sends there (R288). -/
def State.ringFrame (s : State) (c p : Nat) (f : Frame) (flow freed taken : Nat) : State :=
  match Tbl.find s.fab.streams flow with
  | some x =>
    if x.sends && x.ctx == c && x.peer == f.src then
      ((s.checkE2e [c] p f).streamFreed flow freed taken (f.e2e != f.crc)).freeFrame p f
    else s.holdFrame p f
  | none => s.holdFrame p f

/-- The credit of a parent for a fragment (R280). -/
def State.grantFrame (s : State) (c p : Nat) (f : Frame) (key : List Nat) : State :=
  ((s.checkE2e [c] p f).nodeGrant c ((key[1]?).getD 0) ((key[2]?).getD 0) ((key[3]?).getD 0)
    (f.rankTo.getD 0)).freeFrame p f

/-- A DATA or MGMT frame of the current epoch (Table 9.3). -/
def State.dataFrame (s : State) (c p : Nat) (f : Frame) : State :=
  match f.msg with
  | some (.control kind key low data) =>
    (((s.checkE2e [c] p f).takeControl c f kind key low data).settleIdentities).freeFrame p f
  | some (.mirror _ key data) =>
    ((s.checkE2e [c] p f).takeCopy c ((key[0]?).getD 0) ((key[1]?).getD 0) data).freeFrame p f
  | some (.ring flow freed taken) => s.ringFrame c p f flow freed taken
  | some (.grant key) => if key.head? = some 1 then s.grantFrame c p f key else s.collFrame c p f
  | _ => if f.group = 0xFFFF then s.streamFrame c p f else s.collFrame c p f

/-- Frames of an update's transfer gathered, and the whole fragment handed on (R268, R281). -/
def State.fragFrameIn (s : State) (c p : Nat) (f : Frame) : State :=
  let s0 := s.checkE2e [c] p f
  let same (r : FragRx) : Bool := r.src == f.src && r.job == f.job && r.flow == f.flow && r.vc == f.vc
  let old := if f.fragHdr then { src := f.src, job := f.job, flow := f.flow, vc := f.vc, bytes := [], bad := false,
                                 credits := 0 } else (s.fab.fragRx.find? same).getD
    { src := f.src, job := f.job, flow := f.flow, vc := f.vc, bytes := [], bad := true, credits := 0 }
  let r : FragRx := { old with bytes := old.bytes ++ f.payload, bad := old.bad || f.e2e != f.crc
                               credits := old.credits + (if p < 24 then f.credits else 0), port := p }
  let rest := s.fab.fragRx.filter fun q => !same q
  if !f.last then { s0 with fab := { s0.fab with fragRx := rest ++ [r] } }
  else
    let g := parseFrag r.bytes
    let s1 : State := { s0 with fab := { s0.fab with fragRx := rest } }
    s1.fragArrived c f.src f.vc { g with suspect := g.suspect || r.bad }
      (if p < 24 then some (p, f.vc, r.credits) else none)

/-! ### Milestone agreement (R291) -/

/-- Whether a rank's subtree has arrived: this device's own arrival, and every child's (R291). -/
def State.subtreeIn (s : State) (c r : Nat) (g : Group) : Bool :=
  match (s.ctx c).job with
  | none => false
  | some j => j.arrived && (treeChildren g.members.length 0 g.fan r).all fun k =>
      if g.members[k]? == some s.fab.devid then j.sentArr.contains k else j.childArr.contains k

/-- COMPLETE noted and sent to the children of this device's ranks (R291). -/
def State.agreeDone (s : State) (c : Nat) (g : Group) : State :=
  let x := s.ctx c
  let m := x.mstone + 1
  let s1 := s.setCtx c { x with job := x.job.map fun j => { j with agreed := true } }
  (ranksIn s.fab.devid g.members).foldl (fun st r =>
    (treeChildren g.members.length 0 g.fan r).foldl (fun st2 k =>
      let d := (g.members[k]?).getD 0
      if d = st2.fab.devid then st2
      else st2.sendFrame { ty := 7, vc := 0, dst := d, job := st2.jobTag c, epoch := st2.jobEpoch c, last := true
                           rankFrom := some r, rankTo := some k, msg := some (.agree m true) }) st) s1

/-- The arrivals of this device's ranks sent toward rank 0 as their subtrees are in; at rank 0 the agreement is
complete (R291). A job in recovery sends none (13 R402). -/
def State.tryAgree (s : State) (c : Nat) : State :=
  match s.group c 0 with
  | none => s
  | some g =>
    if (s.ctx c).recov.phase ≠ 0 then s
    else (ranksIn s.fab.devid g.members).reverse.foldl (fun st r =>
      let x := st.ctx c
      let j := x.job.getD {}
      if j.sentArr.contains r || j.agreed || !st.subtreeIn c r g then st
      else
        let st1 := st.setCtx c { x with job := some { j with sentArr := r :: j.sentArr } }
        match treeParent g.members.length 0 g.fan r with
        | none => st1.agreeDone c g
        | some q =>
          let d := (g.members[q]?).getD 0
          if d = st1.fab.devid then st1
          else st1.sendFrame { ty := 7, vc := 0, dst := d, job := st1.jobTag c, epoch := st1.jobEpoch c, last := true
                               rankFrom := some r, rankTo := some q, msg := some (.agree (x.mstone + 1) false) }) s

/-- An AGREE frame of the current epoch (R291, 13 R402). -/
def State.agreeFrame (s : State) (c p : Nat) (f : Frame) : State :=
  let s0 := (s.checkE2e [c] p f).freeFrame p f
  let x := s0.ctx c
  match f.msg, s0.group c 0, x.job with
  | some (.agree m complete), some g, some j =>
    if x.recov.phase ≠ 0 then s0
    else if m ≠ x.mstone + 1 then s0.ev 0x088 0 [c]
    else if complete then (if j.agreed then s0 else s0.agreeDone c g)
    else
      let r := f.rankFrom.getD ((indexOf? f.src g.members).getD 0)
      (s0.setCtx c { x with job := some { j with childArr := j.childArr ++ [r] } }).tryAgree c
  | _, _, _ => s0

/-! ### Requests of peers (11 R345) -/

/-- HBM_LENDw and HBM_LEND_JOBw. -/
def State.lend (s : State) (w : Nat) : Nat := (Tbl.get 0 s.hbm.lend w).toNat

/-- The device address of a request that is served, none when it is refused (R345); nothing lies above the device's
address space (R339; DEDUCED, log 75). -/
def State.lendAddr (s : State) (job addr total : Nat) : Option Nat :=
  let w := fld addr 60 4
  let e := s.lend w
  if bit e 63 ∧ Tbl.get 0 s.hbm.lendJob w = job ∧ fld addr 0 60 + total ≤ 2048 * fld e 0 28
      ∧ 2048 * fld e 28 28 + fld addr 0 60 + total ≤ s.hbm.capacity then
    some (2048 * fld e 28 28 + fld addr 0 60)
  else none

/-- A response to a request; one without data when it is refused. -/
def State.respond (s : State) (f : Frame) (tag : Nat) (ok : Bool) (data : Bytes) : State :=
  s.sendFrame { ty := 6, vc := 1, dst := f.src, job := f.job, epoch := f.epoch, last := true, payload := data
                msg := some (.response tag ok) }

/-- A send of a stage queue counted at its receiver (10 R320, R321). -/
def State.queueArrived (s : State) (c q : Nat) : State :=
  match (List.range 64).find? fun k =>
    let x := s.endpoint k
    x.valid && x.receiver && x.ctx == c && x.qidx == q with
  | some k => s.setEndpoint k (s.endpoint k).send
  | none => s

/-- A request served, through a lending window, or at the receiver of a stage queue in its context's HBM. -/
def State.serve (s : State) (f : Frame) (tag : Nat) (write : Bool) (addr total off len : Nat)
    (queue : Option (Nat × Bool)) : State :=
  let at_ := match queue, s.ctxOfJob f.job with
    | some _, some c => (s.xlate c addr total write)
    | some _, none => none
    | none, _ => s.lendAddr f.job addr total
  match at_ with
  | none => s.respond f tag false []
  | some a =>
    let s1 := if write then s.dataWrite (a + off) f.payload else s
    let rd := if write then ⟨s1, [], false⟩ else s1.hbmRead (a + off) len
    let s2 := rd.s.respond f tag true rd.bytes
    match queue, s.ctxOfJob f.job with
    | some (q, true), some c => s2.queueArrived c q
    | _, _ => s2

/-- A REQ frame (R345). -/
def State.reqFrame (s : State) (c p : Nat) (f : Frame) : State :=
  let s0 := (s.checkE2e [c] p f).freeFrame p f
  match f.msg with
  | some (.request tag write addr total off len queue) => s0.serve f tag write addr total off len queue
  | _ => s0

/-- A RESP frame: the answer of a request, or a credit of a stage queue (R345, 10 R321). -/
def State.respFrame (s : State) (c p : Nat) (f : Frame) : State :=
  let s0 := (s.checkE2e [c] p f).freeFrame p f
  match f.msg with
  | some (.response tag ok) => s0.answerRemote tag ok f.payload
  | some (.credit q) =>
    (match (List.range 64).find? fun k =>
      let x := s0.endpoint k
      x.valid && !x.receiver && x.ctx == c && x.qidx == q with
    | some k => s0.queueCredit k
    | none => s0)
  | _ => s0

/-! ### Reception (R263, R268, R272, R275, R276) -/

/-- A frame for this device whose epoch is current; what waited for an accumulator that it frees goes on. -/
def State.deliverNow (s : State) (c p : Nat) (f : Frame) : State :=
  (match f.ty with
  | 3 => s.dataFrame c p f
  | 4 => s.fragFrameIn c p f
  | 5 => s.reqFrame c p f
  | 6 => s.respFrame c p f
  | 7 => s.agreeFrame c p f
  | 9 => s.dataFrame c p f
  | _ => s.freeFrame p f).afterAccs s

/-- A frame for this device: its epoch compared with the job's (R272, R276). A request or response of a job
without a context here has no epoch to compare (log 63). DEDUCED, log 58. -/
def State.deliver (s : State) (p : Nat) (f : Frame) : State :=
  match s.ctxOfJob f.job with
  | none => if f.ty == 5 || f.ty == 6 then s.deliverNow 0 p f else s.holdFrame p f
  | some c =>
    let e := s.jobEpoch c
    if f.epoch < e then s.staleFrame [c] p f
    else if e < f.epoch then s.holdFrame p f
    else if !s.jobMember c f.src then s.staleFrame [c] p f
    else s.deliverNow c p f

/-- Held frames tried again, after a post, a map or a new epoch. -/
def State.retryHeld (s : State) : State :=
  s.fab.held.foldl (fun st h => st.deliver h.1 h.2) { s with fab := { s.fab with held := [] } }

/-- A frame at a port: the link, the checks of its header, transit, and its delivery. What comes over a v1 link stands
for a frame with the current values (R263, R268, R273, R275). -/
def State.receive (s : State) (p : Nat) (f : Frame) : State :=
  if p = 24 then
    if s.fab.inbox.contains f then
      ({ s with fab := { s.fab with inbox := s.fab.inbox.erase f } }).deliver p f
    else s
  else
    let r := s.linkRx p f
    if !r.2 then r.1
    else
      let x := r.1.port p
      if !frameOk x f then r.1.dropFrame p f
      else
        let g := if x.ver = 1 then r.1.readV1 f else f
        if g.dst ≠ r.1.fab.devid then r.1.forward p g else r.1.deliver p g

/-- A command's frame is of its type, or of a reserved type. -/
def ofType (f : Frame) (ty : Nat) : Bool := f.ty == ty || decide (9 < f.ty)

/-- DATA_RX (R279). -/
def execDataRx (p : Nat) (f : Frame) (s : State) : Res :=
  if ofType f 3 then .next (s.receive p f) else .next s
/-- FRAG_RX (R281). -/
def execFragRx (p : Nat) (f : Frame) (s : State) : Res :=
  if ofType f 4 then .next (s.receive p f) else .next s
/-- REQ_RX (11 R345). -/
def execReqRx (p : Nat) (f : Frame) (s : State) : Res :=
  if ofType f 5 then .next (s.receive p f) else .next s
/-- RESP_RX (11 R345). -/
def execRespRx (p : Nat) (f : Frame) (s : State) : Res :=
  if ofType f 6 then .next (s.receive p f) else .next s
/-- AGREE_RX (R291). -/
def execAgreeRx (p : Nat) (f : Frame) (s : State) : Res :=
  if ofType f 7 then .next (s.receive p f) else .next s
/-- MGMT_RX (R294). -/
def execMgmtRx (p : Nat) (f : Frame) (s : State) : Res :=
  if ofType f 9 then .next (s.receive p f) else .next s

/-- HELLO_RX: a HELLO at a port (R270, R271). -/
def execHelloRx (p : Nat) (f : Frame) (s : State) : Res :=
  if f.ty ≠ 0 then .next s
  else
    let r := s.linkRx p f
    if !r.2 then .next r.1
    else if !frameOk (r.1.port p) f then .next (r.1.dropFrame p f)
    else .next (((r.1.freeFrame p f).checkE2e [] p f).takeHello p f.payload)

/-- A port at eight missed beats, or one that has failed three retrains, is lost: it goes down, is logged and
counted, and its peer becomes suspect when every port to it is down (R267, R271). -/
def State.losePort (s : State) (p : Nat) : State :=
  let x := s.port p
  let s1 := ((s.portDown p true).fabLog 2 p x.peer 0).ev 0x062 p []
  if x.peer ≠ 0xFFFF ∧ s1.peerDown x.peer then s1.suspectPeer x.peer else s1

/-- MISSED_BEAT: an interval without a HELLO at a port that is UP, one that retrains among them (R271). -/
def execMissedBeat (p : Nat) (s : State) : Res :=
  let x := s.port p
  if x.en.st == .off || !x.up then .next s
  else
    let s1 := (s.setPort p { x with missed := x.missed + 1 }).ev 0x064 p []
    .next (if x.missed + 1 < 8 then s1 else s1.losePort p)

/-- An ACK or NAK at the link: whether it is taken; a reserved version is discarded (R263, R266). -/
def State.bareRx (s : State) (p : Nat) (f : Frame) : State × Bool :=
  let x := s.port p
  if x.hears f && !frameOk x f then (s.dropFrame p f, false) else s.linkRx p f

/-- ACK_RX: an ACK advances LACK and returns credits (R264, R266). -/
def execAckRx (p : Nat) (f : Frame) (s : State) : Res :=
  if f.ty = 1 then .next (s.bareRx p f).1 else .next s

/-- ACK_SEND: no frame is due and credits are returned in an ACK (R264). -/
def execAckSend (p : Nat) (s : State) : Res :=
  if (s.port p).live then .next (s.sendBare p 1) else .next s

/-- NAK_RX: the sender resends from LACK (R266). -/
def execNakRx (p : Nat) (f : Frame) (s : State) : Res :=
  if f.ty = 2 then
    let r := s.bareRx p f
    .next (if r.2 then r.1.resend p else r.1)
  else .next s

/-- RETRY_TIMEOUT: LACK has not advanced while frames are unacknowledged (R266). -/
def execRetryTimeout (p : Nat) (s : State) : Res :=
  if (s.port p).live then .next (s.resend p) else .next s

/-- BAD_FCS_FRAME: a frame with a bad FCS, or one that leaves a gap, is discarded and answered with one NAK
(R266). On the host port, here number 24, it is discarded and counted (14 R447). -/
def execBadFcsFrame (p : Nat) (s : State) : Res :=
  if p = 24 then
    .next (State.ev { s with host := { s.host with fcsErr := satInc 16 s.host.fcsErr } } 0x0B1 0 [])
  else .next (s.nak p)

/-- PORT_RETRAIN: a frame has been resent 8 times and the port retrains (R267). -/
def execPortRetrain (p : Nat) (s : State) : Res :=
  let x := s.port p
  if x.live && x.replay.any fun r => decide (8 ≤ r.resent) then .next (s.setPort p { x with retraining := true })
  else .next s

/-- PORT_RETRAIN_END: a retrain ends with the receiver's LACK, from which the port resends, or it fails; `recent`
says that this failure and those before it lie within one second (R267). -/
def execPortRetrainEnd (p : Nat) (ok : Bool) (lack : Nat) (recent : Bool) (s : State) : Res :=
  let x := s.port p
  if !x.retraining then .next s
  else if ok then
    let y : Port := { x with retraining := false, failedRetrains := 0
                             replay := (x.replay.filter fun r => !lseqBefore r.frame.lseq lack).map fun r =>
                               { r with resent := 0 } }
    .next (((s.setPort p y).ev 0x061 p []).resend p)
  else
    let n := if recent then x.failedRetrains + 1 else 1
    let s1 := s.setPort p { x with failedRetrains := n }
    .next (if n < 3 then s1 else s1.losePort p)

/-! ### Registers with effects -/

/-- FAB_ID_WRITE: ignored while any port is not OFF, a port in a loop-back run among them (R295, 18 R514). -/
def execFabIdWrite (v : W32) (s : State) : Res :=
  if (List.range 24).all fun p => s.portState p == 0 then
    .next { s with fab := { s.fab with id := BitVec.ofNat 32 (setFld v.toNat 0 2 0) } }
  else .next s

/-- The arming of a Switchback is refused with BAD_SWITCH (10 R327). -/
def Ctx.badSwitch (x : Ctx) (m : Nat) (map : SMap) : Bool :=
  decide (m ≤ x.mstone) || !map.switch || (x.bundleAt == m && m != 0)

/-- FAB_SWITCH_AT_WRITE: a Switchback armed at Milestone `m`, or disarmed by 0 (10 R327, R335; DEDUCED, log 117). -/
def execFabSwitchAtWrite (c m : Nat) (s : State) : Res :=
  let x := s.ctx c
  if m = 0 then .next (s.setCtx c { x with switchAt := 0 })
  else
    let code := if x.job.isNone then 9
      else s.checkMap c x.switchAddr.toNat (s.jobEpoch c + 1) (x.badSwitch m)
    .next (s.setCtx c { x with smapCode := code, switchAt := if code = 0 then m else 0 })

end Sys2Proof.Machine
end

