-- ==== Sys2Proof/Machine/Bundle.lean ====
section
/-! DEFINITION. Signed weight bundles: their manifest, its verification, the replacement step, and the commands
that load them (11_memory_tiers R352 to R358, R366). -/

namespace Sys2Proof.Machine

/-! ### The manifest (R352, Table 11.5) -/

/-- The addresses in the armed descriptor: the manifest and STAGE (R354). -/
def State.mfBase (s : State) (c : Nat) : Nat := recN (s.peekD c (s.ctx c).bundleAddr.toNat 64) 0 8
def State.mfStage (s : State) (c : Nat) : Nat := recN (s.peekD c (s.ctx c).bundleAddr.toNat 64) 8 8
/-- The header, NLAYER, NCHUNK and PKOFF. -/
def State.mfHdr (s : State) (c : Nat) : Bytes := s.peekD c (s.mfBase c) 64
def mfLayers (h : Bytes) : Nat := recN h 4 2
def mfChunks (h : Bytes) : Nat := recN h 8 4
def mfPkoff (h : Bytes) : Nat := recN h 24 4
/-- Layer `i` and chunk `j`. -/
def State.mfLayer (s : State) (c i : Nat) : Bytes := s.peekD c (s.mfBase c + 64 + 16 * i) 16
def State.mfChunk (s : State) (c j : Nat) : Bytes :=
  s.peekD c (s.mfBase c + 64 + 16 * mfLayers (s.mfHdr c) + 96 * j) 96
def layFirst (b : Bytes) : Nat := recN b 4 4
def layNch (b : Bytes) : Nat := recN b 8 4
def chTid (b : Bytes) : Nat := recN b 0 4
def chFfrag (b : Bytes) : Nat := recN b 4 4
def chNfrag (b : Bytes) : Nat := recN b 8 1 + 1
def chDoff (b : Bytes) : Nat := recN b 16 8
def chDigest (b : Bytes) : Bytes := sliceB b 32 64

/-- The tensors that the chunks of layer `i` name. -/
def State.layTids (s : State) (c i : Nat) : List Nat :=
  let l := s.mfLayer c i
  ((upTo (layFirst l) (layNch l)).map fun j => chTid (s.mfChunk c j)).eraseDups

/-- The records of a manifest before its key: header, layers and chunks, each one access (R340); none when one does not
translate. -/
def State.mfRecords (s : State) (c : Nat) : Option Bytes :=
  let h := s.mfHdr c
  let a := s.mfBase c
  match s.peek c a 64, s.entries c (a + 64) 16 (mfLayers h), s.entries c (a + 64 + 16 * mfLayers h) 96 (mfChunks h) with
  | some x, some ls, some cs => some (x ++ ls.flatten ++ cs.flatten)
  | _, _, _ => none

/-- Every tensor that the manifest names. -/
def State.mfTids (s : State) (c : Nat) : List Nat :=
  ((List.range (mfChunks (s.mfHdr c))).map fun j => chTid (s.mfChunk c j)).eraseDups

/-- The rules of a layer: its chunks follow those of the layers before it. -/
def State.layersOk (s : State) (c : Nat) : Nat → Nat → Nat → Bool
  | 0, _, first => first == mfChunks (s.mfHdr c)
  | k + 1, i, first =>
    let l := s.mfLayer c i
    layFirst l == first && decide (1 ≤ layNch l) && zeroAt l [(12, 4)]
      && State.layersOk s c k (i + 1) (first + layNch l)

/-- The rules of a chunk (R352, R353). -/
def State.chunkOk (s : State) (c j : Nat) : Bool :=
  let b := s.mfChunk c j
  zeroAt b [(10, 6), (24, 8)] && decide (chNfrag b ≤ 64)
    && (match (s.jobTensors c).find? fun x => x.tid == chTid b with
      | some x => !x.frozen && recN b 9 1 == x.mfmt && decide (chFfrag b + chNfrag b ≤ x.nfrag)
      | none => false)

/-- Every structural rule of a manifest holds (R352, R353). -/
def State.manifestOk (s : State) (c : Nat) : Bool :=
  let h := s.mfHdr c
  let n := mfLayers h
  (s.peek c (s.ctx c).bundleAddr.toNat 64).isSome && (s.mfRecords c).isSome
    && (s.peek c (s.mfBase c + mfPkoff h) 2592).isSome && (s.peek c (s.mfBase c + mfPkoff h + 2592) 4627).isSome
    && recN h 0 4 == 0x3142474E && decide (1 ≤ n) && zeroAt h [(6, 2), (12, 4), (32, 32)]
    && mfPkoff h == 64 + 16 * n + 96 * mfChunks h && recN h 28 4 == mfPkoff h + 2592
    && s.layersOk c n 0 0 && (List.range (mfChunks h)).all (s.chunkOk c)
    && noDup ((List.range n).flatMap (s.layTids c))

/-- The publisher's key and the signature. -/
def State.mfKey (s : State) (c : Nat) : Bytes := s.peekD c (s.mfBase c + mfPkoff (s.mfHdr c)) 2592
def State.mfSig (s : State) (c : Nat) : Bytes := s.peekD c (s.mfBase c + mfPkoff (s.mfHdr c) + 2592) 4627

/-- The hash of the key is one of KEYHASH0 and KEYHASH1; all zeros is no key (R353, 12 Table 12.1). -/
def State.keyTrusted (s : State) (c : Nat) : Bool :=
  let h := sha3_512 (s.mfKey c)
  [256, 320].any fun o =>
    let k := sliceB (s.ctx c).desc o 64
    k == h && k.any (· != 0)

/-- The signature verifies (R353). -/
def State.sigOk (s : State) (c : Nat) : Bool :=
  Config.mldsaVerify (s.mfKey c) (ascii "ngutas-bundle-v1")
    (sha3_512 ((s.mfRecords c).getD [])) (s.mfSig c)

/-! ### Carrying and loading (R354 to R357) -/

/-- The fragments of a tensor that lie in local HBM: those of a page that is away are not copied. -/
def State.atHome (s : State) (c : Nat) (x : Tensor) (j : Nat) : Bool :=
  x.pgf == 0 || (match s.pageAt c x (x.pageOf j) with
    | none => true
    | some pg => pgState pg.2 == 0 || (pgState pg.2 == 3 && pgReadable pg.2))

/-- Slot b of a tensor becomes WRITTEN with every held fragment counted (R237). -/
def State.wholeSlot (s : State) (c m : Nat) (x : Tensor) : State :=
  s.putTensor c ((x.setSlot ((m + 1) % 2) 4 (m + 1)).setWritten (s.heldFrags c x).length)

/-- A tensor carried: its slot a copied byte for byte into slot b (R354), of the fragments in local HBM (DEDUCED, log
117). -/
def State.carry (s : State) (c m : Nat) (x : Tensor) : State :=
  let a := m % 2
  let b := (m + 1) % 2
  let s1 := ((List.range (s.heldFrags c x).length).filter (s.atHome c x)).foldl (fun st j =>
    let st0 := st.meetCodes c [(x.maddr a + 16384 * j, 16384), (x.waddr a + x.wbytes * j, x.wbytes)]
    let st1 := st0.ctxWrite c (x.maddr b + 16384 * j) (st.peekD c (x.maddr a + 16384 * j) 16384)
    st1.ctxWrite c (x.waddr b + x.wbytes * j) (st1.peekD c (x.waddr a + x.wbytes * j) x.wbytes)) s
  s1.wholeSlot c m x

/-- The load of a context's bundle replaced. -/
def State.setBundle (s : State) (c : Nat) (b : Bundle) : State :=
  let x := s.ctx c
  s.setCtx c { x with bundle := b }

/-- A chunk covers a fragment. -/
def covers (b : Bytes) (tid f : Nat) : Bool :=
  chTid b == tid && decide (chFfrag b ≤ f) && decide (f < chFfrag b + chNfrag b)

/-- The held fragments that a chunk covers: their place in the chunk, index and ordinal. -/
def State.chunkHeld (s : State) (c : Nat) (x : Tensor) (b : Bytes) : List (Nat × Nat × Nat) :=
  let hs := s.heldFrags c x
  (hs.zip (List.range hs.length)).filterMap fun p =>
    if covers b x.tid p.1 then some (p.1 - chFfrag b, p.1, p.2) else none

/-- A held fragment of a layer's tensors that no chunk covers. -/
def State.uncovered (s : State) (c i : Nat) : Bool :=
  let l := s.mfLayer c i
  let chs := (upTo (layFirst l) (layNch l)).map (s.mfChunk c)
  (s.layTids c i).any fun tid => match s.tensor c tid with
    | none => false
    | some x => (s.heldFrags c x).any fun f => !chs.any fun b => covers b tid f

/-- Chunks that cover nothing held are passed over, and layers whose chunks are done become live in order (R355);
`fuel` bounds their number. -/
def State.advanceLoad (c m : Nat) : Nat → State → State
  | 0, s => s
  | k + 1, s =>
    let b := (s.ctx c).bundle
    if b.st ≠ 3 then s
    else if mfLayers (s.mfHdr c) ≤ b.live then s.setBundle c { b with st := 4 }
    else
      let l := s.mfLayer c b.live
      if layFirst l + layNch l ≤ b.done then
        if s.uncovered c b.live then s.setBundle c { b with st := 5, code := 6 }
        else
          let s1 := (s.layTids c b.live).foldl (fun st tid => match st.tensor c tid with
            | none => st
            | some x => st.wholeSlot c m x) s
          State.advanceLoad c m k (s1.setBundle c { b with live := b.live + 1 })
      else
        let ch := s.mfChunk c b.done
        let held := match s.tensor c (chTid ch) with
          | none => []
          | some x => s.chunkHeld c x ch
        if held.isEmpty then State.advanceLoad c m k (s.setBundle c { b with done := b.done + 1 }) else s

/-- The load goes on from where it stands. -/
def State.goOn (s : State) (c m : Nat) : State :=
  let h := s.mfHdr c
  State.advanceLoad c m (mfLayers h + mfChunks h + 2) s

/-- The update fragments of a job that its buffers hold when a replacement step begins are discarded and counted
(R354). -/
def State.dropHeldEntries (s : State) (c : Nat) : State :=
  s.uoas.keys.foldl (fun st t => (List.range 32).foldl (fun st1 k =>
    let e := st1.rb t k
    if e.st == .free || e.ctx != c then st1
    else e.early.foldl (fun st2 y => st2.release y) ((st1.setRb t k {}).evTile 0x019 t (e.added.length + e.early.length)))
    st) s

/-- Step `m` becomes the replacement step: tensors that the bundle does not name are carried, and the load begins
(R354). A replay does not verify the signature again (R358, Table 11.16). -/
def State.beginReplacement (s0 : State) (c m : Nat) : State :=
  let s := s0.dropHeldEntries c
  let v := (s.ctx c).bundle.verified
  let b : Bundle := { st := if v then 3 else 2, step := some m, verified := v }
  let named := s.mfTids c
  let s1 := (s.jobTensors c).foldl (fun st x =>
    if x.frozen || named.contains x.tid then st else st.carry c m x) (s.setBundle c b)
  s1.goOn c m

/-! ### Commands -/

/-- HBM_BUNDLE_AT_WRITE: a replacement armed at Milestone `m`, or disarmed by 0 (R354, R365). During a replacement
step the register keeps its value (DEDUCED, log 117). -/
def execHbmBundleAtWrite (c m : Nat) (s : State) : Res :=
  let x := s.ctx c
  if x.bundle.step.isSome then .next s
  else if m = 0 then .next (s.setCtx c { x with bundleAt := 0, bundle := {} })
  else if m ≤ x.mstone ∨ x.bundleAddr.toNat % 64 ≠ 0 ∨ x.switchAt = m then
    .next (s.setCtx c { x with bundleAt := 0, bundle := { code := 1 } })
  else .next (s.setCtx c { x with bundleAt := m, bundle := { st := 1 } })

/-- BUNDLE_VERIFY: the manifest, the publisher's key and the signature of the replacement step's bundle are
checked; a failure loads nothing (R353, R357). -/
def execBundleVerify (c : Nat) (s : State) : Res :=
  let b := (s.ctx c).bundle
  match b.step with
  | none => .next s
  | some m =>
    if b.st ≠ 2 then .next s
    else
      let code := if !s.manifestOk c then 2 else if !s.keyTrusted c then 3 else if !s.sigOk c then 4 else 0
      if code ≠ 0 then .next (s.setBundle c { b with st := 5, code := code })
      else .next ((s.setBundle c { b with st := 3, verified := true }).goOn c m)

/-- CHUNK_HASHED: the next chunk that covers a held fragment is read from staging and hashed, and in the same pass its
held fragments are written into slot b; on a mismatch the load stops (R355). A fragment whose page is away is fetched
first. -/
def execChunkHashed (c : Nat) (s : State) : Res :=
  let b := (s.ctx c).bundle
  match b.step with
  | none => .next s
  | some m =>
    let ch := s.mfChunk c b.done
    match s.tensor c (chTid ch) with
    | none => .next s
    | some x =>
      let hs := s.chunkHeld c x ch
      if b.st ≠ 3 ∨ hs.isEmpty ∨ mfChunks (s.mfHdr c) ≤ b.done then .next s
      else if hs.any fun h => !s.atHome c x h.2.2 then
        .next (hs.foldl (fun st h => if st.atHome c x h.2.2 then st else st.askFetch c x (x.pageOf h.2.2) false) s)
      else
        let rd := (s.ctxRead c (s.mfStage c + chDoff ch) (16384 * chNfrag ch)).getD ⟨s, [], false⟩
        let s1 := hs.foldl (fun st h => st.writeFragment c (st.unitOf c x h.2.2) x h.2.1 h.2.2 ((m + 1) % 2) m
          (fragCodes (sliceB rd.bytes (16384 * h.1) 16384))) rd.s
        if sha3_512 rd.bytes ≠ chDigest ch then
          .next (s1.setBundle c { b with st := 5, code := 5, chunk := b.done })
        else .next ((s1.setBundle c { b with done := b.done + 1 }).goOn c m)

/-- RETRY: after a DIGEST failure the failing chunk is read again (R357). -/
def execRetry (c : Nat) (s : State) : Res :=
  let b := (s.ctx c).bundle
  if b.st = 5 ∧ b.code = 5 then .next (s.setBundle c { b with st := 3, code := 0, chunk := 0 }) else .next s

/-- ABORT: the load ends, and every layer that is not live is carried (R357). -/
def execAbort (c : Nat) (s : State) : Res :=
  let b := (s.ctx c).bundle
  match b.step with
  | none => .next s
  | some m =>
    if b.st = 2 ∨ b.st = 3 ∨ b.st = 5 then
      let s1 := (s.jobTensors c).foldl (fun st x =>
        if x.frozen || (x.slotSt ((m + 1) % 2) == 4 && x.tag ((m + 1) % 2) == m + 1) then st else st.carry c m x) s
      .next (s1.setBundle c { (s1.ctx c).bundle with st := 6 })
    else .next s

end Sys2Proof.Machine
end

