-- ==== Sys2Proof/Machine/Milestone.lean ====
section
/-! DEFINITION. Milestones: arrival, completion and the actions of R27, new epochs, Switchback steps, resync and
the choice of fragments to rebuild (01_organisation R27; 02 R53; 08 R242 to R247; 09 R276; 10 R328 to R330;
13 R410, R415 to R417).
Assumption log: log 19 (DEDUCED), log 72 (DESIGN CHOICE). -/

namespace Sys2Proof.Machine

/-! ### Arrival (08 R242, R255) -/

/-- The job's current step trains nothing: a Switchback or a replacement step. -/
def Ctx.special (x : Ctx) : Bool := x.switchStep == some x.mstone || x.bundle.step == some x.mstone

/-- The tensors of a job of which this device holds fragments that train. -/
def State.trained (s : State) (c : Nat) : List Tensor :=
  (s.jobTensors c).filter fun x => !x.frozen && !(s.heldFrags c x).isEmpty

/-- UOA_ARRIVEc (Table 8.13). -/
def State.arriveBits (s : State) (c : Nat) : Nat :=
  let x := s.ctx c
  match x.job with
  | none => 0
  | some j =>
    let n := j.mstone
    let tiles := !s.allArrived c (n + 1)
    let taps := s.engines.any (fun e => e.2.subtiles.any fun y => y.ctx == c)
      || (s.collects c && !s.gramMade c n) || !s.controlsAccepted c ctlGram n
    let solver := s.solverOpen c (n + 1)
    let frags := ((s.jobTensors c).any fun t => !s.fragsDone c t
        || (List.range (t.pages (s.heldFrags c t).length)).any (s.pageStalls c t))
      || s.uoaDev.stalls.any fun y => y.1 == c
    let norm := !x.special && (s.normTensors c).any fun t => !j.norms.contains t.tid || !s.normIn c n t
    let dig := s.digestDue c && (j.digest != some n || !s.digestIn c n)
    b2n tiles + 2 * b2n taps + 4 * b2n solver + 8 * b2n frags + 16 * b2n norm + 32 * b2n dig
      + 64 * b2n (j.arrived && !j.agreed)

/-- WDIGEST: over the WRITTEN master slots of the step's tensors (13 R417). -/
def State.writtenDigest (s : State) (c : Nat) : Bytes :=
  let n := (s.ctx c).mstone
  sha3_512 ((s.jobTensors c).flatMap fun x =>
    if x.frozen then [] else leBytes 4 x.tid ++ s.masterBytes c x ((n + 1) % 2))

/-- What WDIGEST reads. -/
def State.writtenReads (s : State) (c : Nat) : List (Nat × Nat) :=
  ((s.jobTensors c).filter fun x => !x.frozen).flatMap fun x => s.masterReads c x (((s.ctx c).mstone + 1) % 2)

/-- A diagnostic of the current step is armed (13 R417). -/
def Ctx.diagArmed (x : Ctx) : Bool := x.recov.diagAt != 0 && x.recov.diagAt == x.mstone

/-- The conditions of R242 hold and the device has not arrived. -/
def State.mayArrive (s : State) (c : Nat) : Bool :=
  let x := s.ctx c
  match x.job with
  | none => false
  | some j => x.on && !j.arrived && j.begun && x.recov.phase == 0 && s.arriveBits c % 64 == 0

/-- DEVICE_ARRIVE: once every condition of R242 holds the device arrives, and its arrival goes toward rank 0 (08
R242, 09 R291). Under a diagnostic it arrives at the second attempt, with the second digest (13 R417). -/
def execDeviceArrive (c : Nat) (s : State) : Res :=
  let x := s.ctx c
  let r := x.recov
  if !s.mayArrive c || (x.diagArmed && r.diagDigest.isNone) then .next s
  else
    let second := x.diagArmed && r.diagSecond.isNone
    let d := s.writtenDigest c
    let y : Recov := if second then { r with diagSecond := some d } else r
    let s0 := if second then s.meetCodes c (s.writtenReads c) else s
    let s1 := s0.setCtx c { x with recov := y, job := x.job.map fun j => { j with arrived := true } }
    let s2 := if second && r.diagDigest != some d then s1.ev 0x0AC 0 [c] else s1
    .next (s2.tryAgree c)

/-! ### A new epoch (09 R276) -/

/-- What a collective writes in its DST and at RADDR and after TADDR, as (in HBM, address, bytes): a reduction's or a
gather's result; of a ragged exchange what the counts admit, once they are known (09 R283 to R286). -/
def State.collWrites (s : State) (k : Coll) : List (Bool × Nat × Nat) :=
  let d := k.desc
  let n := (s.collGroup k).members.length
  let e := raggedE d
  let dst (len : Nat) : Bool × Nat × Nat := (cDstHbm d, cDst d, len)
  match cOp d with
  | 0 => [dst (elemBytes (cEfmt d) (cCount d))]
  | 1 => [dst (elemBytes (cEfmt d) (cTree d n k.rank).2)]
  | 2 => [dst (cCount d * cUnit d)]
  | 5 => []
  | 6 => if k.rank = cPeer d then [dst (elemBytes (cEfmt d) (cCount d))] else []
  | _ =>
    let rows := match s.admitted k with
      | some a => (a.map fun l => l.foldl (· + ·) 0).foldl (· + ·) 0
      | none => 0
    let status := if cOp d = 4 then [(true, cTaddr d + 4 * n * e, countSum k.table 0 (n * e))] else []
    [dst (rows * cUnit d), (true, cRaddr d, 4 * n * e)] ++ status

/-- A collective that a new epoch ends has moved its data partly: free values where it writes (Table 9.10). What a
PERMUTE has received has been written. DESIGN CHOICE, log 113. -/
def State.abortColl (s : State) (k : Coll) : State :=
  (s.collWrites k).foldl (fun st r =>
    let d := st.freeBytes r.2.2
    d.2.writeRange k.ctx (s.physD k.ctx k.vt) r.1 r.2.1 d.1) s

/-- The job of a context enters an epoch: its collectives and streams end with status ABORTED, their data moved partly, fragments and
accumulators in transit through this device are freed, and its arrivals are void (09 R276, 08 R243). -/
def State.enterEpoch (s : State) (c e : Nat) : State :=
  let tag := s.jobTag c
  let s1 := (s.fab.colls.filter fun k => k.ctx == c).foldl (fun st k =>
    (if k.begun then st.abortColl k else st).endPost k.ctx k.vt k.queue k.seq 7) s
  let s2 := (s.fab.streams.filter fun k => k.2.ctx == c).foldl (fun st k =>
    st.endPost c k.2.vt k.2.queue k.2.seq 7) s1
  let s3 := (s2.fab.fragRx.filter fun k => k.job == tag).foldl (fun st k =>
    if k.port < 24 then st.owe k.port k.vc k.credits else st) s2
  let s4 : State := { s3 with fab := { s3.fab with
    colls := s3.fab.colls.filter fun k => k.ctx != c
    streams := s3.fab.streams.filter fun k => k.2.ctx != c
    frags := s3.fab.frags.filter fun k => k.ctx != c
    accs := s3.fab.accs.filter fun k => k.ctx != c
    fragRx := s3.fab.fragRx.filter fun k => k.job != tag } }
  let x := s4.ctx c
  (s4.setCtx c { x with job := x.job.map fun j =>
    { j with epoch := e, arrived := false, childArr := [], sentArr := [], agreed := false } }).afterAccs s

/-! ### Tensor scales (02 R53, R54) -/

/-- The exponent of a step from a scale record's history (R53). -/
def scaleT (b : Bytes) : Option Nat :=
  let hs := ((List.range 16).map fun i => recN b i 1).filter (· != 0xFF)
  match hs with
  | [] => none
  | h :: t =>
    let mx := t.foldl max h
    let emax := blockEmax (recN b 18 1)
    let v : Int := (mx : Int) - 127 - emax + (fld (recN b 17 1) 0 4 : Nat)
    some (wrapInt 8 (if v < -127 then -127 else if 127 < v then 127 else v))

/-- The scale record at context address `a` at the completion of Milestone `m`, whose exponent bytes lie at the places
`l` (virtual tile, address): the history entry of step m − 1 from what the tensor held, and the exponent of step m + 1;
with an empty history T stays and LAST is written (R53, Table 2.10). A frozen record stays. NaNs and infinities are
counted (R53). -/
def State.scaleRecord (s : State) (c m a : Nat) (l : List (Nat × Nat)) : State :=
  let x := s.ctx c
  let held := x.heldScales.filter fun k => k.step + 1 == m && l.contains (k.vt, k.saddr)
  let bad := (held.map (·.bad)).sum
  let s1 := s.setCtx c { x with scaleBad := if bad = 0 then x.scaleBad else Tbl.set x.scaleBad a (Tbl.get 0 x.scaleBad a + bad) }
  match s1.peek c a 32 with
  | none => s1
  | some b =>
    if bit (recN b 17 1) 7 then s1
    else
      let codes := held.filterMap (·.code)
      let b1 := putRec (putRec b ((m + 15) % 16) 1 (if codes.isEmpty then 0xFF else codes.foldl max 0)) 24 8 m
      s1.ctxWrite c a (match scaleT b1 with
        | some t => putRec b1 16 1 t
        | none => b1)

/-- What the tensor-scaled tensors held in the steps before `m` forgotten. -/
def State.dropHeld (s : State) (c m : Nat) : State :=
  let x := s.ctx c
  s.setCtx c { x with heldScales := x.heldScales.filter fun k => decide (m ≤ k.step) }

/-! ### The step record (13 R415, R416) -/

/-- INPUT of step `n`: the digest over the digests of its host moves, in ascending virtual tile, queue and
sequence number (R416). -/
def inputDigest (l : List (Nat × Nat × Nat × Nat × Bytes)) (n : Nat) : Bytes :=
  let key (e : Nat × Nat × Nat × Nat × Bytes) : Nat × Nat := (4 * e.2.1 + e.2.2.1, e.2.2.2.1)
  sha3_512 ((sortBy (fun a b => pairLe (key a) (key b)) (l.filter fun e => e.1 == n)).flatMap fun e => e.2.2.2.2)

/-- Where a context's program image stands, in the 16-byte words in which it is fetched. -/
def Ctx.imageReads (x : Ctx) : List (Nat × Nat) := (List.range (x.plen / 16)).map fun i => (x.program + 16 * i, 16)

/-- The program image of a context. -/
def State.image (s : State) (c : Nat) : Bytes := (s.ctx c).imageReads.flatMap fun r => s.peekD c r.1 r.2

/-- The record of step `n` (Table 13.6). FIXED regards every tensor of which the device holds a fragment (R416). -/
def State.stepRecord (s : State) (c n : Nat) : Bytes :=
  let x := s.ctx c
  let r := x.recov
  let fixed := (s.jobTensors c).all (fun t => (s.heldFrags c t).isEmpty || t.fixed) && !r.unfixed.contains n
  let diag := r.diagAt != 0 && r.diagAt == n && r.diagSecond.isSome
  let flags := b2n fixed + 2 * b2n x.classW + 4 * b2n (decide (1 < r.attempts)) + 8 * b2n (x.switchStep == some n)
    + 16 * b2n (x.bundle.step == some n) + 32 * b2n diag + 64 * b2n (diag && r.diagDigest == r.diagSecond)
  leBytes 8 n ++ leBytes 8 x.jobSeed.toNat ++ leBytes 4 (s.jobEpoch c) ++ leBytes 2 (s.jobTag c)
    ++ leBytes 2 (s.jobRank c) ++ leBytes 1 flags ++ leBytes 1 (min 255 r.attempts) ++ leBytes 2 x.map.length
    ++ leBytes 4 0 ++ inputDigest r.inputs n ++ sha3_512 (s.image c)
    ++ (if diag then sliceB (r.diagDigest.getD []) 0 64 else List.replicate 64 0) ++ List.replicate 32 0

/-- The record of step `n` kept, the last 64 of them (R415), and AON_DIAG_ATc returned to 0 (R417). -/
def State.keepRecord (s : State) (c n : Nat) : State :=
  let x := s.ctx c
  let r := x.recov
  let used := r.diagAt != 0 && r.diagAt == n && r.diagSecond.isSome
  let y : Recov := { r with records := (s.stepRecord c n :: r.records).take 64
                            attempts := 1
                            unfixed := r.unfixed.filter fun k => decide (n < k)
                            inputs := r.inputs.filter fun e => decide (n < e.1)
                            diagAt := if used then 0 else r.diagAt
                            diagDigest := if used then none else r.diagDigest
                            diagSecond := if used then none else r.diagSecond }
  (s.meetCodes c x.imageReads).setCtx c { x with recov := y }

/-! ### Rebuilding mirrors (13 R410) -/

/-- The survivors of the domain of a job rank, by rank in ascending order. -/
def State.survivors (s : State) (c : Nat) (m : SMap) (r : Nat) : List Nat :=
  (m.domain r).filter fun k => !(s.ctx c).failed.contains (m.devOf k)

/-- A job rank holds a fragment: by the map, as owner or mirror, or rebuilt. -/
def State.rankHolds (s : State) (c : Nat) (m : SMap) (x : Tensor) (t : Bytes) (r f : Nat) : Bool :=
  (s.ownedBy c m x t (m.devOf r)).contains f
    || ((m.mirrors r).any fun o => (s.ownedBy c m x t (m.devOf o)).contains f)
    || (match (s.ctx c).job with
      | some j => (Tbl.get [] j.rebuilt r).contains (x.tid, f)
      | none => false)

/-- The unmirrored fragments of the device of rank `o`, whose mirror is the survivor of rank `r`, in ascending TID
and index (R410). -/
def State.unmirroredOf (s : State) (c : Nat) (m : SMap) (o r : Nat) : List (Nat × Nat) :=
  (s.jobTensors c).flatMap fun x => match m.tensorEntry x.tid with
    | none => []
    | some t =>
      if !tenMirror t || x.replica || m.replica then []
      else ((sortBy (fun a b => decide (a ≤ b)) (s.ownedNow c m x t (m.devOf o))).filter fun f =>
        !s.rankHolds c m x t r f).map fun f => (x.tid, f)

/-- The mirror relations of a domain's survivors: owner and mirror (R410). -/
def mirrorPairs (l : List Nat) : List (Nat × Nat) :=
  if l.length < 2 then []
  else (List.range l.length).map fun i => ((l[i]?).getD 0, (l[(i + 1) % l.length]?).getD 0)

/-- UNMIRRORED: a fragment that this device owns has no mirror that holds it, or the domain has one survivor
(R410). -/
def State.unmirrored (s : State) (c : Nat) : Bool :=
  match s.smap c with
  | none => false
  | some m => match m.rankOf s.fab.devid with
    | none => false
    | some r =>
      let l := s.survivors c m r
      if (s.ctx c).failed.isEmpty then false
      else if l.length < 2 then true
      else (mirrorPairs l).any fun p => p.1 == r && !(s.unmirroredOf c m p.1 p.2).isEmpty

/-- The mirror relations of every domain of a job (R410). -/
def State.allMirrors (s : State) (c : Nat) (m : SMap) : List (Nat × Nat) :=
  let heads := (List.range m.dcount).filter fun r => (m.domain r).head? == some r
  heads.flatMap fun r => mirrorPairs (s.survivors c m r)

/-- At the completion of a Milestone, up to REBUILD unmirrored fragments of each mirror relation are chosen: the
mirror holds them from now on, the owner owes their copies (R410). -/
def State.chooseRebuild (s : State) (c : Nat) : State :=
  match s.smap c with
  | none => s
  | some m => match m.rankOf s.fab.devid with
    | none => s
    | some self =>
      if (s.ctx c).failed.isEmpty then s
      else (s.allMirrors c m).foldl (fun st p =>
        let new := (st.unmirroredOf c m p.1 p.2).take (fld st.aon.recRun.toNat 0 13)
        let x := st.ctx c
        let st1 := st.setCtx c { x with job := x.job.map fun j =>
          { j with rebuilt := Tbl.set j.rebuilt p.2 (Tbl.get [] j.rebuilt p.2 ++ new)
                   awaiting := if p.2 = self then j.awaiting ++ new else j.awaiting
                   copies := if p.1 = self then j.copies ++ new.map fun q => (m.devOf p.2, q.1, q.2)
                             else j.copies } }
        if p.1 = self ∧ new ≠ [] then st1.ev 0x092 0 [c] new.length else st1) s

/-! ### Switchback steps (10 R328 to R330) -/

/-- Slot (m + 1) mod 2 of every tensor record becomes WRITTEN with every held fragment counted (R330). -/
def State.switchWritten (s : State) (c m : Nat) : State :=
  (s.jobTensors c).foldl (fun st x => if x.frozen then st else st.wholeSlot c m x) s

/-- PERMUTES of this device in the installed map. -/
def State.permutesDue (s : State) (c : Nat) : Nat :=
  match s.smap c with
  | none => 0
  | some m => match m.rankOf s.fab.devid with
    | none => 0
    | some r => devPermutes ((m.devs[r]?).getD [])

/-- SWITCHBACK_WRITTEN: the device's last PERMUTE of a Switchback step has completed (R330). -/
def execSwitchbackWritten (c : Nat) (s : State) : Res :=
  let x := s.ctx c
  match x.switchStep with
  | none => .next s
  | some m => if x.mstone = m ∧ s.permutesDue c ≤ x.permutes then .next (s.switchWritten c m) else .next s

/-- The Switchback armed at the Milestone just completed: the new map is installed under the next epoch (R328).
A map that has become invalid since it was armed is refused and the device stays in its epoch. -/
def State.switchback (s : State) (c m : Nat) : State :=
  let x := s.ctx c
  if x.switchAt ≠ m ∨ m = 0 then s
  else
    let a := x.switchAddr.toNat
    let e := s.jobEpoch c + 1
    let code := s.checkMap c a e fun k => !k.switch
    let s0 := s.setCtx c { x with switchAt := 0, smapCode := code }
    if code ≠ 0 then s0
    else
      let s1 := (s0.enterEpoch c e).installMap c a
      let y := s1.ctx c
      let s2 := s1.setCtx c { y with switchStep := some m, permutes := 0 }
      let s3 := if s2.permutesDue c = 0 then s2.switchWritten c m else s2
      s3.retryHeld

/-! ### Completion (01 R27, 08 R243) -/

/-- The norm of step `n` of a tensor put in its record (08 R235). -/
def State.putNorm (s : State) (c n : Nat) (x : Tensor) : State :=
  match s.normTotal c n x with
  | some v => s.putTensor c { x with b := putRec x.b 104 4 (fsqrtC v).toNat }
  | none => s

/-- Action (1): step m − 1 is committed: norms, slots and CHAT (08 R235, Table 8.5; 10 R330). -/
def State.commitStep (s : State) (c m : Nat) : State :=
  let n := m - 1
  let x := s.ctx c
  let special := x.special
  let switched := x.switchStep == some n
  let s1 := if special then s else (s.normTensors c).foldl (fun st t => st.putNorm c n t) s
  let s2 := (s1.jobTensors c).foldl (fun st t =>
    let st1 := st.commitTensor c m t
    if switched && !t.frozen then (match st1.tensor c t.tid with
      | some y => st1.putTensor c (y.setSlot (n % 2) 0 (y.tag (n % 2)))
      | none => st1)
    else st1) s1
  let y := s2.ctx c
  let b : Bundle := if y.bundle.step == some n then { y.bundle with step := none, verified := false } else y.bundle
  let j (k : Job) : Job := { k with mstone := m, begun := false, arrived := false, childArr := [], sentArr := []
                                    agreed := false, norms := [], digest := none, chatDue := true }
  (s2.setCtx c { y with job := y.job.map j, applied := [], bundle := b
                        bundleAt := if y.bundle.step == some n then 0 else y.bundleAt
                        switchStep := if switched then none else y.switchStep }).formChats c

/-- Held entries of step `m`, by fragment index: tile and entry (08 R243). -/
def State.heldEntries (s : State) (c m : Nat) : List (Nat × Nat) :=
  let l := s.uoas.flatMap fun u => u.2.entries.filterMap fun e =>
    if e.2.st != .free && e.2.ctx == c && e.2.mstone == m then some (e.2.fidx, u.1, e.1) else none
  (sortBy (fun a b => decide (a.1 ≤ b.1)) l).map (·.2)

/-- An entry that is ready is applied, or logged when its page is away. -/
def State.takeEntry (s0 : State) (t k : Nat) : State :=
  let s := s0.settleEntry t k
  let e := s.rb t k
  match s.tensor e.ctx e.tid with
  | none => s
  | some x =>
    if e.st != .applying then s
    else if s.entryAway e.ctx x e.fidx then s.logDelta t k
    else s.applyEntry t k

/-- Hard events of a context's tiles counted anew every 256 Milestones (13 R398). -/
def State.clearFaults (s : State) (c m : Nat) : State :=
  if m % 256 ≠ 0 then s
  else (s.ctx c).map.foldl (fun st t => st.setTile t { st.tile t with faultCnt := 0 }) s

/-- The send and credit counts of the endpoints of a context recorded (10 R323). -/
def State.markEndpoints (s : State) (c : Nat) : State :=
  { s with fab := { s.fab with endpoints := s.fab.endpoints.mapv fun _ e =>
      if e.valid && e.ctx == c then { e with sendsAt := e.sends, creditsAt := e.credits } else e } }

/-- The sums and digests of a committed step forgotten. -/
def State.dropControls (s : State) (c n : Nat) : State :=
  { s with fab := { s.fab with controls := s.fab.controls.filter fun k =>
      !(k.ctx == c && (k.kind == ctlNorm || k.kind == ctlDigest) && decide (k.key.headD 0 ≤ n)) } }

/-- Action (5): the step begins, unless a resync is due or an evaluation runs first (08 R247, 12 R383). -/
def State.tryBegin (s : State) (c : Nat) : State :=
  let x := s.ctx c
  match x.job with
  | none => s
  | some j =>
    if j.begun || j.resync || s.evalDue c then s
    else s.setCtx c { x with job := some { j with begun := true } }

/-- The replica drifted in the step just committed: a resync is due, counted and reported (08 R247). -/
def State.noteDrift (s : State) (c m : Nat) (drift : Bool) : State :=
  if !drift then s
  else
    let x := s.ctx c
    let u := s.uoaDev
    let s1 := s.setCtx c { x with job := x.job.map fun j => { j with resync := true } }
    let s2 : State := { s1 with uoaDev := { u with mismatch := satInc 16 u.mismatch } }
    let ref := match s2.smap c, (s2.replicaGroup c)[0]? with
      | some k, some d => (k.rankOf d).getD 0
      | _, _ => 0
    let slots := s2.host.slots.keys.filter fun a => (s2.slot a).st == 2
    slots.foldl (fun st a => st.slotEvent a 3 c (leBytes 8 (m - 1) ++ leBytes 2 ref)) (s2.ev 0x081 0 [c])

/-- The completion of the next Milestone with the actions of R27 (R243). Entries held for a step that becomes a
replacement step are not applied (11 R354; DEDUCED, log 76). `scales` gives, for each tensor-scaled
tensor, the context address of its scale record and the places of its exponent byte (log 72). -/
def State.completeMilestone (s : State) (c : Nat) (scales : List (Nat × List (Nat × Nat))) : State :=
  let m := (s.ctx c).mstone + 1
  let drift := s.digestDue c && s.drifted c (m - 1)
  let s0 : State := { s with aon := { s.aon with recRun := s.aon.recCtl } }
  let s1 := (s0.keepRecord c (m - 1)).commitStep c m
  let s2 := ((scales.foldl (fun st p => st.scaleRecord c m p.1 p.2) s1).dropHeld c m).mergeFetching c m
  let s3 := (s2.takeRests c).settleWcmds c
  let replaced := (s3.ctx c).bundleAt == m && m != 0
  let s4 := if replaced then s3 else (s3.heldEntries c m).foldl (fun st p => st.takeEntry p.1 p.2) s3
  let s5 := ((s4.foldAll c m).postDirty c m).installRoots c m
  let s6 := (s5.switchback c m).clearFaults c m
  let s7 := if replaced then s6.beginReplacement c m else s6
  let s8 := (s7.noteDrift c m drift).chooseRebuild c
  let s9 := (s8.markEndpoints c).dropControls c (m - 1)
  let s10 : State := { s9 with uoaDev := { s9.uoaDev with period := fld s9.uoaDev.digestCtl.toNat 0 16 } }
  let s11 := s10.traceUnit 4 [c] 0x500 m (leBytes 4 (s10.jobEpoch c))
  (s11.mstoneSnapshot c m).tryBegin c

/-- MILESTONE_COMPLETE: the agreement's completion has come (R243). -/
def execMilestoneComplete (c : Nat) (scales : List (Nat × List (Nat × Nat))) (s : State) : Res :=
  let x := s.ctx c
  match x.job with
  | none => .next s
  | some j => if j.agreed && x.recov.phase == 0 then .next (s.completeMilestone c scales).retryHeld else .next s

/-! ### Resync (08 R247) -/

/-- One tensor's CURRENT slots overwritten by the reference's. -/
def State.resyncTensor (s : State) (c m : Nat) (p : Nat × Bytes × Bytes) : State :=
  match s.tensor c p.1 with
  | none => s
  | some x =>
    let n := (s.heldFrags c x).length
    let s1 := s.ctxWrite c (x.maddr (x.cur m)) (sliceB p.2.1 0 (16384 * n))
    s1.ctxWrite c (x.waddr (x.cur m)) (sliceB p.2.2 0 (x.wbytes * n))

/-- RESYNC: the reference's CURRENT master and working slots of every REPLICA tensor, by TID, are copied over the
device's own; then the step begins (R247). -/
def execResync (c : Nat) (copies : List (Nat × Bytes × Bytes)) (s : State) : Res :=
  let x := s.ctx c
  match x.job with
  | none => .next s
  | some j =>
    let due := ((s.jobTensors c).filter (·.replica)).map (·.tid)
    if !j.resync || !due.all fun t => copies.any fun p => p.1 == t then .next s
    else
      let s1 := (copies.filter fun p => due.contains p.1).foldl (fun st p => st.resyncTensor c j.mstone p) s
      let y := s1.ctx c
      .next ((s1.setCtx c { y with job := y.job.map fun k => { k with resync := false } }).tryBegin c)

end Sys2Proof.Machine
end

