-- ==== Sys2Proof/Machine/Posts.lean ====
section
/-! DEFINITION. The collective posts as commands, the management-assisted path, and the completion of an
instruction (09_causeway_collectives R283 to R294; 05_instruction_set R134). Each row of the table is CPOST
with a descriptor of its OP; the descriptor in the tile store says what the post does. -/

namespace Sys2Proof.Machine

/-- A CPOST issues, its collective begins, and frames that were held for it are delivered (R283). -/
def State.cpost (s : State) (i : Issue) : State := ((s.issue 4 0 i bodyCpost).kick).retryHeld

/-- ALLREDUCE (R290). -/
def execAllreduce (i : Issue) (s : State) : Res := .next (s.cpost i)
/-- REDUCE_SCATTER (R284). -/
def execReduceScatter (i : Issue) (s : State) : Res := .next (s.cpost i)
/-- ALLGATHER (R284). -/
def execAllgather (i : Issue) (s : State) : Res := .next (s.cpost i)
/-- ALLTOALLV (R285). -/
def execAlltoallv (i : Issue) (s : State) : Res := .next (s.cpost i)
/-- EXPERT (R286). -/
def execExpert (i : Issue) (s : State) : Res := .next (s.cpost i)
/-- PERMUTE (R287). -/
def execPermute (i : Issue) (s : State) : Res := .next (s.cpost i)
/-- REDUCE (R290). -/
def execReduce (i : Issue) (s : State) : Res := .next (s.cpost i)
/-- A receiving STREAM (R288). -/
def execStreamReceive (i : Issue) (s : State) : Res := .next (s.cpost i)
/-- A sending STREAM (R288). -/
def execStreamSend (i : Issue) (s : State) : Res := .next (s.cpost i)
/-- FRAG_EMPTY (R226, R283). -/
def execFragEmpty (i : Issue) (s : State) : Res := .next (s.cpost i)

/-- MANAGEMENT_ASSISTED_PATH: the next refused post runs (R294). -/
def execManagementAssistedPath (s : State) : Res := .next s.nextManaged.retryHeld

end Sys2Proof.Machine
end

