-- ==== Sys2Proof/Machine/Contexts.lean ====
section
/-! DEFINITION. Contexts: creation, the model cache, eviction, destruction, switches, Layby lending and evaluation
between steps (12_contexts_scheduling R368 to R385). -/

namespace Sys2Proof.Machine

/-! ### Stamps and counts (R373, R385) -/

/-- The use counter advanced and written into a context's stamp. -/
def State.stampUp (s : State) (c : Nat) : State :=
  let n := (s.ctxBlk.uses + 1) % 2 ^ 64
  let x := s.ctx c
  ({ s with ctxBlk := { s.ctxBlk with uses := n } }).setCtx c { x with stamp := n }

/-- The counts of a client. -/
def State.client (s : State) (k : Nat) : Client := Tbl.get {} s.ctxBlk.clients k
/-- The counts of a client replaced. -/
def State.setClient (s : State) (k : Nat) (x : Client) : State :=
  { s with ctxBlk := { s.ctxBlk with clients := Tbl.set s.ctxBlk.clients k x } }
/-- One more admission, completion or refusal of a client. -/
def State.countAdmitted (s : State) (k : Nat) : State :=
  s.setClient k { s.client k with admitted := satInc 20 (s.client k).admitted }
def State.countCompleted (s : State) (k : Nat) : State :=
  s.setClient k { s.client k with completed := satInc 20 (s.client k).completed }
def State.countRefused (s : State) (k : Nat) : State :=
  s.setClient k { s.client k with refused := satInc 20 (s.client k).refused }

/-! ### Starting queues (05 R138, R158; 14 R440) -/

/-- The step number with which a queue is first started (05 R138; 12 R382, R384). -/
def State.firstStep (s : State) (c : Nat) : Nat :=
  match (s.ctx c).kind with
  | 0 => (s.ctx c).mstone
  | 2 => (s.ctx c).evalAt
  | _ => 0

/-- A queue started at its PC if it is idle, or halted where `halted` allows it. -/
def State.startQueue (s : State) (c v q : Nat) (halted : Bool) : State :=
  let x := s.queue c v q
  if x.st == .idle || (halted && x.st == .halted) then
    s.setQueue c v q { x with st := .running, exc := 0, yielded := false, started := true
                              seq0 := if x.st == .idle then x.seq else x.seq0
                              step := if x.started then x.step else s.firstStep c }
  else s

/-- The queues of a mask started on every tile of a context's map. -/
def State.startQueues (s : State) (c mask : Nat) (halted : Bool) : State :=
  (List.range (s.ctx c).map.length).foldl (fun st v =>
    ((List.range 4).filter fun q => bit mask q).foldl (fun st2 q => st2.startQueue c v q halted) st) s

/-! ### Saving and restoring a tile (R377, 04 R110, R111) -/

/-- The live regions of a virtual tile. -/
def State.liveRegions (s : State) (c v : Nat) : List Nat :=
  (List.range 256).filter fun r => (s.tc c v).live.getLsbD r

/-- The address of a region in the save area (Table 12.1). -/
def Ctx.saveAt (x : Ctx) (v r : Nat) : Nat := x.save + v * 2 ^ 22 + 16384 * r

/-- The live regions of a context's tile saved, and the tile left without a resident context. -/
def State.saveTile (s : State) (c t : Nat) : State :=
  match (s.ctx c).vid t with
  | none => s
  | some v =>
    let s1 := (s.liveRegions c v).foldl (fun st r =>
      let rd := st.storeRead t 6 (16384 * r) 16384
      rd.s.ctxWrite c ((st.ctx c).saveAt v r) rd.bytes) s
    s1.setTile t { s1.tile t with resident := none, store := [], ecc := [], wbacks := [] }

/-- A context made resident on a tile: its live regions restored, every other line reading as zero.
DESIGN CHOICE, log 13. -/
def State.loadTile (s : State) (c t : Nat) : State :=
  let s0 := s.setTile t { s.tile t with resident := some c, store := [], ecc := [], wbacks := [] }
  match (s.ctx c).vid t with
  | none => s0
  | some v => (s0.liveRegions c v).foldl (fun st r =>
      match st.ctxRead c ((st.ctx c).saveAt v r) 16384 with
      | some rd => rd.s.storeWrite t 6 (16384 * r) rd.bytes
      | none => st) s0

/-- Doorbells held for a context applied at its switch-in, then its watches tested (14 R441). -/
def State.ringHeld (s : State) (c : Nat) : State :=
  let x := s.ctx c
  let s1 := x.doorbells.foldl (fun st d =>
    st.applySig { ctx := c, srcVt := 0, srcQ := 4, dstVt := d.1, sig := d.2.1, amount := d.2.2 })
    (s.setCtx c { x with doorbells := [] })
  s1.testWatches c

/-! ### Switch time and its log (R378, R388) -/

/-- Live bytes and descriptors in flight of a context on a tile. -/
def State.tileLoad (s : State) (c t : Nat) : Nat × Nat :=
  match (s.ctx c).vid t with
  | none => (0, 0)
  | some v => (16384 * (s.liveRegions c v).length, s.posts c v)

/-- The core cycles of a switch: the largest t of R378 over its tiles with the handshake, and what contention
adds, which is a free value (log 61). -/
def State.switchCycles (s : State) (pairs : List (Nat × List Nat)) : Nat :=
  let one (p : Nat × List Nat) : Nat :=
    let l := p.2.map fun c => s.tileLoad c p.1
    1024 + ceilDiv ((l.map (·.1)).foldl (· + ·) 0) 256 + 64 * (l.map (·.2)).foldl (· + ·) 0
  (pairs.map one).foldl max 0 + 2048 + Config.freeNat s.free

/-- CTX_SWITCH_LOG written, traced, and the switch counted for both contexts. -/
def State.logSwitch (s : State) (ty out in_ cycles : Nat) : State :=
  let log := BitVec.ofNat 64 (2 ^ 63 + out * 2 ^ 57 + in_ * 2 ^ 51 + ty * 2 ^ 48 + min cycles (2 ^ 32 - 1))
  let s1 : State := { s with free := s.free + 1, ctxBlk := { s.ctxBlk with log := log } }
  let s2 := if ty = 5 then s1 else (s1.ev 0x0A0 0 [out, in_]).ev 0x0A1 0 [out, in_] cycles
  let tctx := fld s2.cnt.trcCtl.toNat 55 6
  s2.traceUnit 6 [out, in_] 0x500 (s2.ctx tctx).mstone (leBytes 8 log.toNat)

/-- Every queue of a context that issued YIELD may issue again (R375). -/
def State.unyield (s : State) (c : Nat) : State :=
  { s with tctx := s.tctx.mapv fun k tc =>
      if k / 256 = c then { tc with queues := tc.queues.mapv fun _ q => { q with yielded := false } } else tc }

/-! ### Idle contexts (R371) -/

/-- Tiles lent from or to a context. -/
def State.lentTiles (s : State) (c : Nat) : List Nat :=
  (s.tiles.filter fun e => e.2.lentFrom == some c || (e.2.lentFrom.isSome && e.2.resident == some c)).map (·.1)

/-- The admitted evaluations of a parent. -/
def State.children (s : State) (c : Nat) : List Nat :=
  s.ctxs.keys.filter fun e => s.isAdmitted e && (s.ctx e).kind == 2 && (s.ctx e).parent == c && e != c

/-- A context holds a flow entry, a queue endpoint or a structure entry. -/
def State.holdsFabric (s : State) (c : Nat) : Bool :=
  (s.fab.colls.any fun k => k.ctx == c && k.entry.isSome) || (s.fab.streams.any fun k => k.2.ctx == c)
    || (s.fab.endpoints.any fun e => e.2.valid && e.2.ctx == c)
    || s.engines.any fun g => g.2.owner.any fun o => o.2 == c

/-- The context is idle (R371). -/
def State.idle (s : State) (c : Nat) : Bool :=
  let x := s.ctx c
  x.on && x.kind != 2 && !x.pin
    && (List.range x.map.length).all (fun v => (List.range 4).all fun q => (s.queue c v q).st == .idle)
    && s.flight.all (fun f => !(f.ctx == c && f.posted))
    && (s.lentTiles c).isEmpty && (s.children c).isEmpty && !s.holdsFabric c
    && x.switchAt == 0 && x.bundleAt == 0

/-! ### The end of a context (R371, R374) -/

/-- Contributions and entries of a context freed from every update-on-arrival unit. -/
def State.clearUoas (s : State) (c : Nat) : State :=
  let gone := s.uoas.flatMap fun u => u.2.held.filter fun y => y.ctx == c
  let uoas := s.uoas.mapv fun _ u =>
    { u with waiting := u.waiting.filter (fun y => y.ctx != c)
             entries := u.entries.filter fun e => e.2.ctx != c }
  gone.foldl (fun st y => st.release y) { s with uoas := uoas }

/-- What the fabric holds for a context freed. -/
def State.clearFabric (s : State) (c : Nat) : State :=
  let tag := s.jobTag c
  let own := (s.smap c).isSome
  let heldOf (h : Nat × Frame) : Bool := own && h.2.job == tag
  let rxOf (k : FragRx) : Bool := own && k.job == tag
  let s0 := (s.fab.held.filter heldOf).foldl (fun st h => st.freeFrame h.1 h.2) s
  let s1 := (s0.fab.fragRx.filter rxOf).foldl (fun st k =>
    if k.port < 24 then st.owe k.port k.vc k.credits else st) s0
  let s2 : State := { s1 with fab := { s1.fab with
      endpoints := s1.fab.endpoints.filter (fun e => !(e.2.valid && e.2.ctx == c))
      streams := s1.fab.streams.filter (fun k => k.2.ctx != c)
      colls := s1.fab.colls.filter (fun k => k.ctx != c)
      cseqs := s1.fab.cseqs.filter (fun k => k.1 != c)
      held := s1.fab.held.filter (fun h => !heldOf h)
      frags := s1.fab.frags.filter (fun k => k.ctx != c)
      fragRx := s1.fab.fragRx.filter (fun k => !rxOf k)
      accs := s1.fab.accs.filter (fun k => k.ctx != c)
      controls := s1.fab.controls.filter (fun k => k.ctx != c) } }
  s2.afterAccs s1

/-- What the solver engines hold for a context freed. -/
def State.clearEngines (s : State) (c : Nat) : State :=
  let one (_ : Nat) (g : Engine) : Engine :=
    { g with
      table := g.table.filter fun e => Tbl.get 64 g.owner e.1 != c
      owner := g.owner.filter fun e => e.2 != c
      queue := g.queue.filter fun p => p.ctx != c
      run := match g.run with
        | some r => if r.post.ctx = c then none else some r
        | none => none
      subtiles := g.subtiles.filter fun y => y.ctx != c }
  { s with engines := s.engines.mapv one, installs := s.installs.filter fun x => x.ctx != c }

/-- A context ends: its tiles lose it without saving, its segments are unmapped, and what the part held for it is
freed. The Milestone of a parent begins that waited for it (R371, R374, R383). -/
def State.endContext (s : State) (c : Nat) : State :=
  let x := s.ctx c
  let tiles := s.tiles.mapv fun _ t =>
    if t.resident = some c then { t with resident := none, store := [], ecc := [], wbacks := [] } else t
  let s1 := (({ s with tiles := tiles }).clearUoas c).clearFabric c
  let s2 := s1.clearEngines c
  let s3 : State := { s2 with
    tctx := s2.tctx.filter fun e => e.1 / 256 != c
    flight := s2.flight.filter fun f => f.ctx != c
    sigs := s2.sigs.filter fun f => f.ctx != c
    remotes := s2.remotes.filter fun r => r.ctx != c
    uoaDev := { s2.uoaDev with stalls := s2.uoaDev.stalls.filter (fun y => y.1 != c)
                               discarded := s2.uoaDev.discarded.filter fun y => y.1 != c }
    ctxBlk := { s2.ctxBlk with switches := s2.ctxBlk.switches.filter (· != c) }
    host := { s2.host with maps := s2.host.maps.filter fun e => e.2.staging || e.2.ctx != c } }
  let s4 := ((s3.setCtx c { switchAddr := x.switchAddr, bundleAddr := x.bundleAddr }).countCompleted x.client)
  let s5 := ((s4.answerLater 0x22 c 0x0B).answerLater 0x21 c 0).settleRegions
  if x.kind = 2 then s5.tryBegin x.parent else s5

/-- A context that is to end and is ON begins to stop once no tile is lent and no evaluation of it is left
(R374). -/
def State.settleEnding (s : State) (c : Nat) : State :=
  let x := s.ctx c
  if x.on && x.ending && (s.lentTiles c).isEmpty && (s.children c).isEmpty then
    let s1 : State := { s with ctxBlk := { s.ctxBlk with switches := s.ctxBlk.switches.filter (· != c) } }
    (s1.setCtx c { x with en := x.en.drop }).answerLater 0x22 c 0x0B
  else s

/-- The end of a context asked for: during STARTING the disable is latched (R374, 16 Table 16.5). -/
def State.askEnd (s : State) (c : Nat) : State :=
  let x := s.ctx c
  let en := if x.en.st == .starting then x.en.drop else x.en
  (s.setCtx c { x with ending := true, en := en }).settleEnding c

/-- Nothing of a context is in flight any more (R374). Completions of one that is not resident are held and end
with it. -/
def State.drained (s : State) (c : Nat) : Bool :=
  (s.flight.all fun f => f.ctx != c || (!s.residentAt c f.vt && f.work == .done && f.frags == 0))
    && s.sigs.all fun f => f.ctx != c

/-- A context that is stopping ends once nothing of it is in flight (R374, 16 Table 16.6); a parent whose last
evaluation is gone goes on to stop. An evaluation that is switched in ends with its switch back (R383). -/
def State.stopContext (s : State) (c : Nat) : State :=
  let x := s.ctx c
  if x.en.st == .stopping && s.drained c && !(x.kind == 2 && x.map.any fun t => (s.tile t).resident == some c) then
    let s1 := s.endContext c
    if x.kind = 2 then s1.settleEnding x.parent else s1
  else s

/-! ### Creation (R368 to R372) -/

/-- The valid segments of a table: first chunk and length. -/
def segList (segs : Bytes) : List (Nat × Nat) :=
  (List.range 512).filterMap fun i =>
    let e := recN segs (8 * i) 8
    if bit e 63 then some (fld e 28 28, fld e 0 28) else none

/-- Two runs of chunks overlap. -/
def chunksMeet (a b : Nat × Nat) : Bool := decide (a.1 < b.1 + b.2) && decide (b.1 < a.1 + a.2)

/-- The reserved fields and the rules of R369 hold for a descriptor whose tile map is given (BAD_DESC). The map of an
evaluation is its parent's, which NO_REF tests, and only a primary context may set JOIN (DEDUCED, log 77). -/
def descOk (x : Ctx) (map : List Nat) : Bool :=
  let d := x.desc
  let fl := recN d 1 1
  decide (x.kind ≤ 2) && fld fl 4 4 == 0 && fld (recN d 3 1) 6 2 == 0 && fld (recN d 4 1) 6 2 == 0
    && zeroAt d [(5, 3), (36, 4), (208, 48), (384, 128)]
    && (List.range 4).all (fun q => decide (x.pc0 q < 2 ^ 48))
    && (x.kind == 2 || !map.isEmpty) && x.plen != 0 && x.plen % 16 == 0
    && (x.kind == 0 || x.smap == 0) && (x.join || (recN d 24 8 == 0 && recN d 32 4 == 0))
    && (!x.join || x.kind == 0)
    && (List.range 512).all fun i =>
        let e := recN x.segs (8 * i) 8
        !bit e 63 || (fld e 56 6 == 0 && decide (1 ≤ fld e 0 28) && decide (fld e 0 28 ≤ 524288))

/-- A segment lies beyond the layout's capacity, or overlaps one of another admitted context, a parent's excepted
(SEG_OVERLAP). -/
def State.segsClash (s : State) (x : Ctx) : Bool :=
  let mine := segList x.segs
  let others := s.ctxs.keys.filter fun c => s.isAdmitted c && !(x.kind == 2 && c == x.parent)
  mine.any fun a => decide (s.hbm.capacity < 2048 * (a.1 + a.2))
    || others.any fun c => (segList (s.ctx c).segs).any (chunksMeet a)

/-- LAYBY or PARENT names no admitted context of its kind (NO_REF). -/
def State.noRef (s : State) (x : Ctx) : Bool :=
  (x.laybyEn && !(s.isAdmitted x.layby && (s.ctx x.layby).kind == 1))
    || (x.kind == 2 && !(s.isAdmitted x.parent && (s.ctx x.parent).kind == 0))

/-- EVAL_AT has completed on the parent's device, or the parent has no job (LATE). -/
def State.late (s : State) (x : Ctx) : Bool :=
  x.kind == 2 && ((s.ctx x.parent).job.isNone || decide (x.evalAt ≤ (s.ctx x.parent).mstone))

/-- The tile map of a descriptor (R368). -/
def State.newMap (s : State) (x : Ctx) : List Nat :=
  if x.kind = 2 then (s.ctx x.parent).map
  else (List.range 256).filter fun t => bit x.tiles t && !s.aon.fence.getLsbD t

/-- A descriptor with the bytes masked that a hit takes from the request (R372). -/
def hitMask (d : Bytes) : Bytes :=
  let fl := recN d 1 1
  putB (putB (putRec (putRec d 2 1 0) 1 1 (setFld fl 1 1 0)) 16 (List.replicate 8 0)) 72 (List.replicate 32 0)

/-- The idle context that a request hits, the one of largest stamp (R372). -/
def State.hitOf (s : State) (x : Ctx) : Option Nat :=
  if x.modelId = 0 then none
  else
    let l := s.ctxs.keys.filter fun c =>
      let y := s.ctx c
      s.idle c && y.modelId == x.modelId && y.kind == x.kind && hitMask y.desc == hitMask x.desc && y.segs == x.segs
    l.foldl (fun b c => match b with
      | none => some c
      | some k => if (s.ctx k).stamp < (s.ctx c).stamp then some c else some k) none

/-- The lowest free context id, else the idle context of smallest stamp (R370, R371). -/
def State.placeFor (s : State) : Option Nat :=
  match (List.range 64).find? fun c => !s.isAdmitted c with
  | some c => some c
  | none => ((List.range 64).filter s.idle).foldl (fun b c => match b with
      | none => some c
      | some k => if (s.ctx c).stamp < (s.ctx k).stamp then some c else some k) none

/-- The program counters of a context's queues set, every queue idle. -/
def State.setPcs (s : State) (c : Nat) : State :=
  (List.range (s.ctx c).map.length).foldl (fun st v => (List.range 4).foldl (fun st2 q =>
    st2.setQueue c v q { st2.queue c v q with st := .idle, pc := (st2.ctx c).pc0 q % 2 ^ 48 }) st) s

/-- The context evicted for a new one (R371). -/
def State.evict (s : State) (c : Nat) : State :=
  let m := (s.ctx c).modelId
  let s1 := (s.ctxEvent c 2 (leBytes 8 m)).ev 0x0A3 0 [c]
  ({ s1 with ctxBlk := { s1.ctxBlk with evicted := satInc 16 s1.ctxBlk.evicted } }).endContext c

/-- Staging windows that the segments of a new context overlap are closed (14 R445). DEDUCED, log 92. -/
def State.closeWindows (s : State) (segs : List (Nat × Nat)) : State :=
  let shut (_ : Nat) (m : HbmMap) : HbmMap :=
    if m.staging && segs.any (chunksMeet (m.base, m.len)) then { m with isOpen := false } else m
  { s with host := { s.host with maps := s.host.maps.mapv shut } }

/-- A request refused: counted, with no other effect (R370, R385). -/
def State.refuse (s : State) (x : Ctx) (code : Nat) : State :=
  let s1 := ({ s with ctxBlk := { s.ctxBlk with refused := satInc 16 s.ctxBlk.refused } }).countRefused x.client
  if code = 2 then s1.ev 0x0A4 0 [] else s1

/-- A cached context reused (R372). -/
def State.reuse (s : State) (c slot : Nat) (x : Ctx) : State :=
  let y := s.ctx c
  let s1 := (s.setCtx c { y with desc := x.desc, owner := some slot }).setPcs c
  let s2 := ((s1.stampUp c).countAdmitted x.client).ev 0x0A2 0 [c]
  { s2 with ctxBlk := { s2.ctxBlk with hits := satInc 16 s2.ctxBlk.hits } }

/-- A new context entered under an id: STARTING, with the job that its descriptor creates or joins (R369). -/
def State.enter (s : State) (c slot : Nat) (x : Ctx) : State :=
  let old := s.ctx c
  let job : Option Job := if x.kind ≠ 0 then none
    else if x.join then some { mstone := recN x.desc 24 8, epoch := recN x.desc 32 4 }
    else if x.smap ≠ 0 then some {} else none
  let y : Ctx := { x with en := { st := .starting }, map := s.newMap x, owner := some slot, job := job
                          born := s.ctxBlk.uses + 1, switchAddr := old.switchAddr, bundleAddr := old.bundleAddr }
  (s.setCtx c y).setPcs c

/-- A create request: its result, the context id and the state after it (R370, Table 12.2). -/
def State.create (s : State) (slot : Nat) (desc segs : Bytes) : State × Nat × Nat :=
  let x : Ctx := { desc := desc, segs := segs }
  match s.hitOf x with
  | some c => (s.reuse c slot x, 1, c)
  | none =>
    let bad := if !descOk x (s.newMap x) then 3 else if s.segsClash x then 4
      else if s.noRef x then 6 else if s.late x then 7 else 0
    if bad ≠ 0 then (s.refuse x bad, bad, 0)
    else match s.placeFor with
    | none => (s.refuse x 2, 2, 0)
    | some c =>
      let trial := s.enter c slot x
      let maps := x.kind == 0 && !x.join && x.smap != 0
      let code := if maps then trial.checkMap c x.smap 0 fun _ => false else 0
      if code ≠ 0 then
        ((s.setCtx c { s.ctx c with smapCode := code }).refuse x 5, 5, c)
      else
        let s0 := if s.isAdmitted c then s.evict c else s
        let s1 := ((s0.enter c slot x).closeWindows (segList segs)).stampUp c
        let s2 := if maps then s1.installMap c x.smap else s1
        (s2.countAdmitted x.client, 0, c)

/-- CTX_CREATE (R368 to R373, 14 R440). -/
def execCtxCreate (m : Ncp) (s : State) : Res :=
  .next (s.ncp 0x20 m .attached (m.payload.length == 4608) fun st =>
    let r := st.create m.slot (m.payload.take 512) (m.payload.drop 512)
    .done r.1 0 (leBytes 1 r.2.1 ++ leBytes 1 r.2.2))

/-- The start of a context ends once every tile of its map is ON (16 Table 16.6). A primary none of whose tiles
has a resident context becomes resident on them (DESIGN CHOICE, log 70). -/
def State.startContext (s : State) (c : Nat) : State :=
  let x := s.ctx c
  if x.en.st != .starting || !x.map.all fun t => (s.tile t).en.st == .on then s
  else
    let s1 := s.setCtx c { x with en := x.en.started }
    let free := x.map.all fun t => (s1.tile t).resident.isNone
    let s2 := if x.kind == 0 && x.en.started.st == .on && free then
        (x.map.foldl (fun st t => st.loadTile c t) s1).ringHeld c
      else s1
    (s2.settleEnding c).retryHeld

/-- CTX_DESTROY: the context ends, its evaluation children first; the answer follows its end (R374, 14 R440). -/
def execCtxDestroy (m : Ncp) (s : State) : Res :=
  .next (s.ncp 0x21 m .owner (m.payload.length == 0) fun st =>
    let s1 := (st.children m.ctx).foldl (fun q e => q.askEnd e) (st.deferReq 0x21 m)
    .later (s1.askEnd m.ctx))

/-- DESTROY_PREEMPTION_LIMIT: what a context that is to end still has in flight is abandoned, and each tile that holds
such an instruction or descriptor goes through OFF and starts again (R374). A tile on loan, or switched to an
evaluation, is still given back afterwards. -/
def execDestroyPreemptionLimit (c : Nat) (s : State) : Res :=
  let x := s.ctx c
  if !s.isAdmitted c || !(x.ending || x.en.st == .stopping) || s.drained c then .next s
  else
    let busy := x.map.filter fun t => s.flight.any fun f => f.ctx == c && x.phys f.vt == some t
    let fresh (y : Tile) : Tile := { en := { st := .starting }, resident := y.resident, lentFrom := y.lentFrom }
    let s1 := busy.foldl (fun (st : State) t =>
      (((st.uoa t).held.foldl (fun (q : State) y => q.release y) st).setTile t (fresh (st.tile t))).setUoa t {}) s
    .next (({ s1 with flight := s1.flight.filter (fun f => f.ctx != c), sigs := s1.sigs.filter fun f => f.ctx != c
                      remotes := s1.remotes.filter fun r => r.ctx != c }).stopContext c)

/-! ### Gang switches (R376, R377) -/

/-- CTX_SWITCH: a switch to the named primary is asked for; the answer follows it (R376, 14 R440). -/
def execCtxSwitch (m : Ncp) (s : State) : Res :=
  .next (s.ncp 0x22 m .owner (m.payload.length == 0) fun st =>
    let x := st.ctx m.ctx
    if x.kind ≠ 0 then .done st 4 []
    else if x.map.all fun t => (st.tile t).resident == some m.ctx || (st.tile t).lentFrom == some m.ctx then
      .done st 0 []
    else
      let sw := st.ctxBlk.switches.filter (· != m.ctx)
      let s1 : State := { st with ctxBlk := { st.ctxBlk with switches := sw ++ [m.ctx] } }
      .later (s1.deferReq 0x22 m))

/-- Every tile of a gang switch has reached its point: it is in RUN, not lent, and at a preemption point of its resident
primary (R376). -/
def State.atPoints (s : State) (c : Nat) : Bool :=
  (s.switchTiles c).all fun t =>
    let x := s.tile t
    x.runs && x.lentFrom.isNone && (match x.resident with
      | none => true
      | some p => (s.ctx p).kind == 0 && s.atPoint p t)

/-- The tiles of a gang switch may move: each has reached its point, and no increment of an outgoing context is on its
way (R376, 05 R137). -/
def State.mayGang (s : State) (c : Nat) : Bool :=
  let outs := s.outsOf c
  s.atPoints c && s.sigs.all fun y => !outs.contains y.ctx

/-- A gang switch done. -/
def State.gang (s : State) (c : Nat) : State :=
  let outs := s.outsOf c
  let tiles := s.switchTiles c
  let cyc := s.switchCycles (tiles.map fun t =>
    (t, (s.tile t).resident.toList ++ (if (s.ctx c).map.contains t then [c] else [])))
  let s1 := tiles.foldl (fun st t => match (st.tile t).resident with
    | some p => st.saveTile p t
    | none => st) s
  let s2 := ((s1.ctx c).map.foldl (fun st t => st.loadTile c t) s1).stampUp c
  let s3 := (c :: outs).foldl State.unyield s2
  (s3.logSwitch 0 (outs.headD 0) c cyc).ringHeld c

/-- SWITCH_EXECUTE: a pending switch is done once every tile involved is at a preemption point (R376, R377).
A switch asked for earlier that shares a tile comes first. -/
def execSwitchExecute (c : Nat) (s : State) : Res :=
  let before := s.ctxBlk.switches.takeWhile (· != c)
  let clear := before.all fun b => (s.switchTiles b).all fun t => !(s.switchTiles c).contains t
  let x := s.ctx c
  if !s.ctxBlk.switches.contains c || !clear || !x.on || x.ending || !s.mayGang c then .next s
  else
    let s1 := s.gang c
    let s2 : State := { s1 with ctxBlk := { s1.ctxBlk with switches := s1.ctxBlk.switches.filter (· != c) } }
    .next (s2.answerLater 0x22 c 0)

/-- PREEMPT_TIMEOUT: a pending switch whose tiles have not all reached a preemption point is cancelled (R376). The cycles
of its log entry are free (log 61). -/
def execPreemptTimeout (c : Nat) (s : State) : Res :=
  if !s.ctxBlk.switches.contains c || s.atPoints c then .next s
  else
    let outs := s.outsOf c
    let s1 : State := { s with ctxBlk := { s.ctxBlk with switches := s.ctxBlk.switches.filter (· != c) } }
    let s2 := (c :: outs).foldl State.unyield s1
    .next (((s2.logSwitch 5 (outs.headD 0) c (Config.freeNat s.free)).ev 0x0A7 0 [c]).answerLater 0x22 c 0x0B)

/-! ### Layby lending (R379 to R381) -/

/-- The tile is stalled: its queues that are not idle all wait at issue on a queue send or receive, a signal or a
Milestone (10 R322). A tile whose queues are all idle is not stalled (DEDUCED, log 77). -/
def State.stalledTile (s : State) (c v : Nat) : Bool :=
  let qs := ((List.range 4).map fun q => s.queue c v q).filter fun q => q.st != .idle
  !qs.isEmpty && qs.all fun q => q.st == .waiting && (match q.waits with
    | .signal _ _ => true
    | .mstone _ => true
    | .send _ => true
    | .receive _ => true
    | _ => false)

/-- LAYBY_LEND: a stalled tile of a primary is lent to its Layby context (R379). -/
def execLaybyLend (t : Nat) (s : State) : Res :=
  let x := s.tile t
  match x.resident with
  | none => .next s
  | some p =>
    let l := (s.ctx p).layby
    let v := ((s.ctx p).vid t).getD 0
    if (s.ctx p).kind != 0 || x.lentFrom.isSome || !(s.ctx p).laybyEn || !(s.ctx l).on || (s.ctx l).ending
        || (s.ctx l).kind != 1 || !(s.ctx l).map.contains t || !s.ctxBlk.switches.isEmpty || s.gangPending t
        || !x.runs || !s.stalledTile p v || !s.atPoint p t || s.sigs.any (fun y => y.ctx == p && (y.dstVt == v || y.srcVt == v))
        || (s.ctx p).ending then .next s
    else
      let cyc := s.switchCycles [(t, [p, l])]
      let s1 := (s.saveTile p t).loadTile l t
      let s2 := (s1.setTile t { s1.tile t with lentFrom := some p }).stampUp l
      .next ((s2.logSwitch 1 p l cyc).ev 0x0A5 0 [p, l])

/-- Nothing of a Layby context is in flight that keeps its tile: no instruction, and no descriptor with an endpoint
in the tile's store (R381). -/
def State.laybyDone (s : State) (l t : Nat) : Bool :=
  match (s.ctx l).vid t with
  | none => true
  | some v => (s.flight.all fun f => !(f.ctx == l && f.vt == v && (!f.posted || f.touches v)))
      && s.sigs.all fun y => !(y.ctx == l && y.dstVt == v)

/-- LAYBY_RECLAIM: a lent tile returns to its primary once a reclaim condition holds and the Layby context's work
on it has completed (R381). -/
def execLaybyReclaim (t : Nat) (s : State) : Res :=
  let x := s.tile t
  match x.lentFrom, x.resident with
  | some p, some l =>
    if x.en.st == .starting || !s.reclaimable t || !s.laybyDone l t then .next s
    else
      let cyc := s.switchCycles [(t, [l, p])]
      let s1 := (s.saveTile l t).loadTile p t
      let s2 := s1.setTile t { s1.tile t with lentFrom := none }
      .next ((((s2.logSwitch 2 l p cyc).ev 0x0A6 0 [l, p]).settleEnding p).settleEnding l)
  | _, _ => .next s

/-! ### Evaluations (R383, R384) -/

/-- The evaluation that runs next against its parent's last Milestone: the one admitted first (R383). -/
def State.nextEval (s : State) (p : Nat) : Option Nat :=
  let due := (s.children p).filter fun e => (s.ctx e).evalAt == (s.ctx p).mstone
  due.foldl (fun b e => match b with
    | none => some e
    | some k => if (s.ctx e).born < (s.ctx k).born then some e else some k) none

/-- EVALUATION_SWITCH_IN: before action (5) of its Milestone, every tile of the parent's map is switched to the
evaluation (R383). -/
def execEvaluationSwitchIn (e : Nat) (s : State) : Res :=
  let x := s.ctx e
  let p := x.parent
  let ready := x.map.all fun t => (s.tile t).runs && (s.tile t).lentFrom.isNone && (s.tile t).resident == some p
    && s.atPoint p t
  if x.kind != 2 || !x.on || x.ending || !s.evalPending p || s.nextEval p != some e || !ready
      || (s.sigs.any fun y => y.ctx == p) then .next s
  else
    let cyc := s.switchCycles (x.map.map fun t => (t, [p, e]))
    let s1 := x.map.foldl (fun st t => (st.saveTile p t).loadTile e t) s
    .next (((s1.stampUp e).logSwitch 3 p e cyc).ringHeld e)

/-- The parent's tiles switched back from an evaluation. -/
def State.evalBack (s : State) (e : Nat) : State :=
  let x := s.ctx e
  let p := x.parent
  let mine := x.map.filter fun t => (s.tile t).resident == some e
  let cyc := s.switchCycles (mine.map fun t => (t, [e, p]))
  let s1 := mine.foldl (fun st t => (st.saveTile e t).loadTile p t) s
  ((s1.stampUp p).unyield p).logSwitch 4 e p cyc |>.ringHeld p

/-- EVALUATION_SWITCH_OUT: an evaluation all of whose queues are idle, or one that is to end, gives its parent's
tiles back; it ends, and the step begins when no other evaluation is due (R383). -/
def execEvaluationSwitchOut (e : Nat) (s : State) : Res :=
  let x := s.ctx e
  let p := x.parent
  let on_ := x.map.any fun t => (s.tile t).resident == some e
  let idle := (List.range x.map.length).all fun v => (List.range 4).all fun q => (s.queue e v q).st == .idle
  let waking := x.map.any fun t => (s.tile t).en.st == .starting
  if x.kind != 2 || !on_ || waking || (s.flight.any fun f => f.ctx == e) || (s.sigs.any fun y => y.ctx == e)
      || !(idle || x.en.st == .stopping) then .next s
  else
    let s1 := s.evalBack e
    if x.en.st == .stopping then .next ((s1.endContext e).settleEnding p)
    else .next (((s1.ctxEvent e 7 [1]).endContext e).settleEnding p)

end Sys2Proof.Machine
end

