-- ==== Sys2Proof/Machine/Detour.lean ====
section
/-! DEFINITION. Fenced tiles, tile maps without them, a device that declares itself failed, and the completion of
instructions (13_fault_tolerance R394 to R399; 05_instruction_set R129, R134). -/

namespace Sys2Proof.Machine

/-! ### A failed device (13 R394) -/

/-- The boot ends in HALT: the management core is stopped and the host port carries nothing (15 Table 15.1, R461). -/
def State.halt (s : State) : State :=
  { s with sec := { s.sec with stage := 0xF, fetch := none, imem := [] }
           host := { s.host with en := {}, link := false, pll := false, slots := [], deferred := [] } }

/-- A port taken down for good. -/
def State.shutPort (s : State) (p : Nat) : State :=
  s.setPort p { s.port p with up := false, waiting := [], replay := [], retraining := false, cred := [], owed := [],
                              naked := false }

/-- The device declares itself failed: every context ends without saving, one HELLO with STATE 2 goes out on every UP
port, and every port is down until RESET_N or power-on (R394). AON_REC_STATc shows PHASE 5 for its jobs (R424). In INIT the part goes to HALT (15 Table 15.1). -/
def State.declareFailed (s : State) : State :=
  if s.aon.failed then s
  else
    let s1 := (s.ctxs.keys.filter s.isAdmitted).foldl State.endContext s
    let jobs := s.ctxs.filter fun e => e.2.job.isSome
    let s2 := jobs.foldl (fun (st : State) e =>
      let r : Recov := { phase := 5, cause := e.2.recov.cause, attempt := e.2.recov.attempt, lead := e.2.recov.lead }
      st.setCtx e.1 { st.ctx e.1 with recov := r }) s1
    let s3 := (List.range 24).foldl (fun (st : State) p =>
      if (st.port p).up then (st.sendHello p 2).shutPort p else st) s2
    let s4 := if s3.sec.stage = 8 then s3.halt else s3
    { s4 with aon := { s4.aon with failed := true } }

/-! ### Queues held (13 R412) -/

/-- A queue as a takeover leaves it: idle at its PC of the descriptor, its step number `n`, I1 to I15 0, no loop, no
flag. -/
def Queue.reset (q : Queue) (pc n : Nat) : Queue :=
  { q with st := .idle, exc := 0, pc := pc % 2 ^ 48, step := n, flags := flNone, idx := [], loops := [],
           started := true, arrived := none, yielded := false }

/-- Every queue of a context as a takeover leaves it, with step number `n`, and every signal counter 0. -/
def State.resetQueues (s : State) (c n : Nat) : State :=
  (List.range (s.ctx c).map.length).foldl (fun (st : State) v =>
    let tc := st.tc c v
    let qs := (List.range 4).foldl (fun (t : TileCtx) q => t.setQ q ((t.q q).reset ((s.ctx c).pc0 q) n)) tc
    st.setTc c v { qs with sigs := [], shares := [], arrivedAt := tc.arrivedAt.map fun k => min k n }) s

/-! ### Tile maps (13 R399, 05 R129) -/

/-- A tile removed from the tile map of a context: the virtual ids above its own become one lower (05 R129). -/
def State.dropTile (s : State) (c t : Nat) : State :=
  match (s.ctx c).vid t with
  | none => s
  | some v =>
    let x := s.ctx c
    let shift (e : Nat × TileCtx) : Option (Nat × TileCtx) :=
      if e.1 / 256 ≠ c then some e
      else if e.1 % 256 = v then none
      else if v < e.1 % 256 then some (e.1 - 1, e.2) else some e
    ({ s with tctx := s.tctx.filterMap shift }).setCtx c { x with map := x.map.erase t }

/-- The fenced tiles of a context's map. -/
def State.fencedOf (s : State) (c : Nat) : List Nat := (s.ctx c).map.filter fun t => s.aon.fence.getLsbD t

/-- The fenced tiles removed from a context's map; with an empty map the context ends as for a destroy, and a device
whose job member ends so declares itself failed (R399). -/
def State.retile (s : State) (c : Nat) : State :=
  let s1 := (s.fencedOf c).foldl (fun (st : State) t => st.dropTile c t) s
  if !s.isAdmitted c || (s.fencedOf c).isEmpty || !(s1.ctx c).map.isEmpty then s1
  else
    let s2 := (s1.children c).foldl State.endContext s1
    let s3 := (s2.ctxEvent c 7 [2]).endContext c
    if (s.ctx c).job.isSome then s3.declareFailed else s3

/-- The map of a context without a job is rebuilt once nothing of the context is in flight, its queues as at a
takeover with their step number (R399). -/
def State.settleDetour (s : State) (c : Nat) : State :=
  let x := s.ctx c
  if x.job.isSome || !x.held || (s.fencedOf c).isEmpty || s.flight.any fun f => f.ctx == c then s
  else
    let n := (s.queue c 0 0).step
    (s.resetQueues c n).retile c

/-- Every context without a job that waits for its map. -/
def State.settleDetours (s : State) : State := s.ctxs.keys.foldl State.settleDetour s

/-! ### Fencing (13 R398) -/

/-- A contribution of a context is owed by a tile: the instruction that sent it ran there. -/
def State.sentFrom (s : State) (c t : Nat) (sender : Option (Nat × Nat × Nat)) : Bool :=
  match sender with
  | some p => (s.ctx c).phys p.1 == some t
  | none => false
/-- The same fragment, suspect. -/
def Fragment.suspected (f : Fragment) : Fragment := { f with suspect := true }
/-- What a tile still owes is suspect: of the contributions that wait for an entry, of the early ones of an entry, and of
a node's own contribution that has not been added (R398). -/
def State.suspectOwed (s : State) (t : Nat) : State :=
  let owed (y : Contribution) : Bool := s.sentFrom y.ctx t y.sender
  let mark (y : Contribution) : Contribution := if owed y then { y with frag := y.frag.suspected } else y
  let entry (e : RbEntry) : RbEntry := { e with early := e.early.map mark, suspect := e.suspect || e.early.any owed }
  let node (n : FragNode) : FragNode :=
    if s.sentFrom n.ctx t n.sender then
      { n with inputs := n.inputs.map fun i => if i.1 = n.rank then (i.1, i.2.suspected) else i }
    else n
  { s with uoas := s.uoas.mapv fun _ u => { u with waiting := u.waiting.map mark, entries := u.entries.mapv fun _ e => entry e }
           fab := { s.fab with frags := s.fab.frags.map node } }

/-- A tile is fenced: issue stops, completions still due are poisoned and owed fragments suspect, the tile goes
through STOPPING to OFF, its bit of AON_FENCE is set (R398); jobs go into a replay-only recovery, and contexts without a
job are held (R399). A tile already fenced stays so (Table 13.17). -/
def State.fenceTile (s : State) (t : Nat) : State :=
  if 256 ≤ t ∨ s.aon.fence.getLsbD t then s
  else
    let mark (f : Flight) : Flight :=
      if (s.ctx f.ctx).phys f.vt = some t then { f with poison := true, suspect := true } else f
    let x := s.tile t
    let en : Enable := { st := if x.en.st == .off then .off else .stopping }
    let s0 := s.suspectOwed t
    let s1 : State := { s0 with flight := s.flight.map mark
                                aon := { s.aon with fence := s.aon.fence ||| BitVec.ofNat 256 (2 ^ t) } }
    let s2 := (s1.setTile t { x with en := en }).ev 0x0A8 0 []
    let mine := s2.ctxs.keys.filter fun c => s2.isAdmitted c && (bit (s2.ctx c).tiles t || (s2.ctx c).map.contains t)
    let s3 := mine.foldl (fun (st : State) c =>
      let y := st.ctx c
      if y.job.isSome then st.raise c 4 st.fab.devid else st.setCtx c { y with held := true }) s2
    s3.settleDetours

/-- FENCE_LIMIT in force (R421). -/
def Aon.fenceLimit (a : Aon) : Nat := fld a.recRun.toNat 13 4

/-- TILE_FENCE: a tile's hard events have reached a FENCE_LIMIT that is not 0 (R398). -/
def execTileFence (t : Nat) (s : State) : Res :=
  let l := s.aon.fenceLimit
  if l = 0 ∨ (s.tile t).faultCnt < l then .next s else .next (s.fenceTile t)

/-- AON_FENCE_WRITE: each bit written as 1 in AON_FENCEi fences its tile (R398, R423). -/
def execAonFenceWrite (i : Nat) (v : W64) (s : State) : Res :=
  if 4 ≤ i then .next s
  else .next (((List.range 64).filter fun j => v.getLsbD j).foldl (fun (st : State) j => st.fenceTile (64 * i + j)) s)

/-- CONFIG_NO_ANSWER: a unit has not answered a configuration access: a tile is fenced, any other unit makes the
device declare itself failed (R395). -/
def execConfigNoAnswer (tile : Option Nat) (s : State) : Res :=
  match tile with
  | some t => .next (s.fenceTile t)
  | none => .next s.declareFailed

/-! ### The watchdog (13 R394, R422) -/

/-- The watchdog's timeout in slow cycles (R422). -/
def Aon.timeout (a : Aon) : Nat := 2 ^ max 16 a.wdExp

/-- WATCHDOG_EXPIRE: `n` slow cycles more have gone by since the core last wrote PET; at the timeout the running
watchdog expires (R394). -/
def execWatchdogExpire (n : Nat) (s : State) : Res :=
  if !s.aon.wdEn then .next s
  else
    let k := s.aon.wdCount + n
    if k < s.aon.timeout then .next { s with aon := { s.aon with wdCount := k } }
    else .next (State.declareFailed { s with aon := { s.aon with wdCount := k, expired := true } })

/-- PET: the count restarts (R422). -/
def execPet (s : State) : Res := .next { s with aon := { s.aon with wdCount := 0 } }

/-- WATCHDOG_ENABLE: EN is set; only reset clears it (R422). -/
def execWatchdogEnable (s : State) : Res :=
  .next { s with aon := { s.aon with wdEn := true, wdCount := if s.aon.wdEn then s.aon.wdCount else 0 } }

/-! ### Completion (05 R134) -/

/-- A transfer in flight goes on before it is asked whether it is complete (R149). -/
def State.advanceFlight (s : State) (f : Flight) : State := if f.cls = 3 then s.moveStep f else s

/-- The flight of a tile's queue with an issue sequence number: that of the resident context where there is one, since
the completions of the others are held (05 R134, 12 R377). -/
def State.flightAt (s : State) (t q seq : Nat) : Option Flight :=
  let here (f : Flight) : Bool := f.queue == q && f.seq == seq && s.physD f.ctx f.vt == t
  match s.flight.find? fun f => here f && s.residentAt f.ctx f.vt with
  | some f => some f
  | none => s.flight.find? here

/-- INSTRUCTION_COMPLETE: the instruction of a tile's queue with this issue sequence number completes once its
work is done (R134); a queue receive gives its slot back (10 R321). DEDUCED, log 7. -/
def execInstructionComplete (t q seq : Nat) (s : State) : Res :=
  match s.flightAt t q seq with
  | none => .next s
  | some f0 =>
    let s1 := s.advanceFlight f0
    match s1.flightAt t q seq with
    | none => .next s1
    | some f =>
      if !s1.mayComplete f then .next s1
      else match f.endpoint with
        | none => .next (s1.complete f).settleDetours
        | some k => .next ((s1.complete f).receiveDone k).settleDetours

end Sys2Proof.Machine
end

