-- ==== Sys2Proof/Machine/Upkeep.lean ====
section
/-! DEFINITION. The upkeep of the stores: scrubbers, write-backs, the states of the HBM stacks and the HBM layout (04 R106
to R110; 11 R339 to R344, R360; 13 R400).
Assumption log: log 28 (DESIGN CHOICE). -/

namespace Sys2Proof.Machine

/-! ### Upsets -/

/-- The health of a code word after one more upset: a second bad bit is uncorrectable. -/
def Health.worse (old : Option Health) (whole : Bool) : Health :=
  match old with
  | none => if whole then .uncorrectable else .single
  | some _ => .uncorrectable

/-- An 8-byte word of a tile store upset: with two or more bad bits what it holds is not what was written, a free value
(R106). -/
def State.upsetWord (s : State) (t : Nat) (u : Nat × Bool) : State :=
  if 2 ^ 19 ≤ u.1 then s
  else
    let x := s.tile t
    let h := Health.worse (Tbl.find x.ecc u.1) u.2
    let y : Tile := { x with ecc := Tbl.set x.ecc u.1 h }
    if h = .single then s.setTile t y
    else
      let d := s.freeBytes 8
      d.2.setTile t { y with store := memWriteBytes y.store (8 * u.1) d.1 }

/-- A 32-byte burst of HBM upset (R341). -/
def State.upsetBurst (s : State) (u : Nat × Bool) : State :=
  if s.hbm.capacity ≤ 32 * u.1 then s
  else
    let h := Health.worse (Tbl.find s.hbm.ecc u.1) u.2
    let ecc := Tbl.set s.hbm.ecc u.1 h
    if h = .single then { s with hbm := { s.hbm with ecc := ecc } }
    else
      let d := s.freeBytes 32
      { d.2 with hbm := { d.2.hbm with ecc := ecc, mem := memWriteBytes d.2.hbm.mem (32 * u.1) d.1 } }

/-! ### Tile stores (04 R107, R108) -/

/-- SCRUB_INTERVAL: the scrubber reads its next line, queues the write-back of single bad bits and logs uncorrectable
words. `upsets` are the words that have gone bad since the interval before, with two or more bad bits where marked. -/
def execScrubInterval (t : Nat) (upsets : List (Nat × Bool)) (s : State) : Res :=
  let s0 := upsets.foldl (fun (st : State) u => st.upsetWord t u) s
  let x := s0.tile t
  if !x.runs || !bit x.storeCtl.toNat 8 then .next s0
  else
    let s1 := (x.badWords (64 * x.scrubNext) 64).foldl (fun (st : State) e => match e.2 with
      | .single => st.storeCe t e.1
      | .uncorrectable => st.storeUe t true 7 e.1) s0
    .next (s1.setTile t { s1.tile t with scrubNext := (x.scrubNext + 1) % 65536 })

/-- ECC_WRITEBACK: the oldest queued write-back of a tile store, or of HBM, is done; a write to its line has dropped it
before (R107, R341). -/
def execEccWriteback (tile : Option Nat) (s : State) : Res :=
  match tile with
  | some t =>
    let x := s.tile t
    (match x.wbacks with
    | [] => .next s
    | w :: ws => .next (s.setTile t { x with store := memWriteBytes x.store w.addr w.data, wbacks := ws
                                             ecc := Tbl.erase x.ecc (w.addr / 8) }))
  | none =>
    (match s.hbm.wbacks with
    | [] => .next s
    | w :: ws => .next { s with hbm := { s.hbm with mem := memWriteBytes s.hbm.mem w.addr w.data, wbacks := ws
                                                    ecc := Tbl.erase s.hbm.ecc (w.addr / 32) } })

/-! ### HBM stacks (11 R342 to R344, R362; 13 R400) -/

/-- The bad bursts of chunk `j` of a stack. -/
def State.badInChunk (s : State) (k j : Nat) : List (Nat × Health) :=
  s.hbm.ecc.filter fun e =>
    let l := s.hbm.locate (32 * e.1)
    l.1 == k && l.2.2 / 64 == j

/-- HBM_SCRUB_INTERVAL: the scrubber of an active stack reads its next chunk (R342); UE counting starts again where a
pass begins (R344). `upsets` as for SCRUB_INTERVAL, by burst; `odecc` counts the corrections that the DRAM has made on its die since
(R362). -/
def execHbmScrubInterval (k : Nat) (upsets : List (Nat × Bool)) (odecc : Nat) (s : State) : Res :=
  let s1 := upsets.foldl State.upsetBurst s
  let s0 := if k < 12 then s1.setStack k { s1.stack k with odecc := satInc 16 (s1.stack k).odecc odecc } else s1
  let x := s0.stack k
  if 12 ≤ k ∨ x.st ≠ .active ∨ !bit s0.hbm.ctl.toNat 8 then .next s0
  else
    let s1 := (s0.badInChunk k x.scrubNext).foldl (fun (st : State) e => match e.2 with
      | .single => st.hbmCe e.1
      | .uncorrectable => st.hbmUe true e.1)
      (if x.scrubNext = 0 then s0.setStack k { x with ueInPass := 0 } else s0)
    .next (s1.setStack k { s1.stack k with scrubNext := if hbmC ≤ x.scrubNext + 1 then 0 else x.scrubNext + 1 })

/-- SELF_REFRESH_EXIT: a stack that the power sequencer no longer keeps in self-refresh is active again (R343). -/
def execSelfRefreshExit (k : Nat) (s : State) : Res :=
  let x := s.stack k
  if x.st = .selfRefresh ∧ s.pmc.deepState ≠ 2 then .next (s.setStack k { x with st := .active }) else .next s

/-- STACK_TRAINING_DONE: training during INIT ends well (15 R452). -/
def execStackTrainingDone (k : Nat) (s : State) : Res :=
  let x := s.stack k
  if k < 12 ∧ x.st = .training ∧ (s.sec.stage = 8 ∨ s.sec.stage = 9) then .next (s.setStack k { x with st := .active }) else .next s

/-- A context fits without a stack: no chunk of its segments lands on it (R400). -/
def State.fitsWithout (s : State) (c k : Nat) : Bool :=
  (segList (s.ctx c).segs).all fun g => (List.range g.2).all fun i => (s.hbm.locate (2048 * (g.1 + i))).1 != k

/-- The condition of a cause of loss: training has not ended, UE_LIMIT is reached in this pass, or a thermal trip, which
the stack reports. -/
def State.losable (s : State) (k cause : Nat) : Bool :=
  let x := s.stack k
  let lim := fld s.hbm.ctl.toNat 16 16
  match cause with
  | 1 => x.st == .training && (s.sec.stage == 8 || s.sec.stage == 9)
  | 2 => lim != 0 && decide (lim ≤ x.ueInPass)
  | 3 => true
  | _ => false

/-- STACK_LOST: a stack is lost (R344); every admitted context fits without it and every job replays its step, or the
device declares itself failed (R400). -/
def execStackLost (k cause : Nat) (s : State) : Res :=
  let x := s.stack k
  if 12 ≤ k ∨ x.st = .lost ∨ !s.losable k cause then .next s
  else
    let s1 := s.setStack k { x with st := .lost, cause := cause }
    let cs := s.ctxs.keys.filter s.isAdmitted
    if cs.all fun c => s.fitsWithout c k then
      .next (cs.foldl (fun (st : State) c => st.raise c 5 st.fab.devid) s1)
    else .next s1.declareFailed

/-! ### The layout (11 R339, R360) -/

/-- The chunk of the device address space that lies at unit `u` of a stack, none when the layout does not use it. -/
def Hbm.unlocate (h : Hbm) (k u : Nat) : Option Nat :=
  let us := h.usable
  let g := fld h.layout.toNat 0 25
  (indexOf? k us).map fun i =>
    if u < g then u * us.length + i
    else
      let fus := us.filter fun j => j / 3 == k / 3
      let before := (us.filter fun j => decide (j / 3 < k / 3)).length * (hbmC - g)
      us.length * g + before + (u - g) * fus.length + (indexOf? k fus).getD 0

/-- Where an address lies: stack, pseudo-channel and offset as one number. -/
def Hbm.physAt (h : Hbm) (a : Nat) : Nat :=
  let l := h.locate a
  (32 * l.1 + l.2.1) * 2 ^ 31 + l.2.2
/-- The stack of a place. -/
def physStack (p : Nat) : Nat := p / 2 ^ 36
/-- The address of a place, none in a stack that the layout leaves out. -/
def Hbm.addrOf (h : Hbm) (p : Nat) : Option Nat :=
  (h.unlocate (physStack p) (p % 2 ^ 31 / 64)).map fun c => 2048 * c + 64 * (p / 2 ^ 31 % 32) + p % 64

/-- Contents and bad bursts under a new layout: each byte keeps its place in its stack, and those of a stack that is left
out stay aside until a layout takes it back (log 82). -/
def Hbm.relaid (h : Hbm) (v : W64) : Hbm :=
  let new : Hbm := { h with layout := v }
  let cells := (h.mem.map fun x => (h.physAt x.1, x.2)) ++ h.aside
  let mem := cells.foldl (fun m x => match new.addrOf x.1 with
    | some a => memWrite m a x.2
    | none => m) []
  let aside := (cells.filter fun x => (new.addrOf x.1).isNone).foldl (fun m x => memWrite m x.1 x.2) []
  let bad := (h.ecc.map fun x => (h.physAt (32 * x.1), x.2)) ++ h.asideEcc
  let ecc := bad.foldl (fun m x => match new.addrOf x.1 with
    | some a => Tbl.set m (a / 32) x.2
    | none => m) []
  let asideEcc := (bad.filter fun x => (new.addrOf x.1).isNone).foldl (fun m x => Tbl.set m x.1 x.2) []
  let wbacks := h.wbacks.filterMap fun w => (new.addrOf (h.physAt w.addr)).map fun a => { w with addr := a }
  { new with mem := mem, ecc := ecc, aside := aside, asideEcc := asideEcc, wbacks := wbacks }

/-- HBM_LAYOUT_WRITE: ignored while a context holds a segment (R360). A GLOBAL_UNITS above its largest value leaves a
free one (log 83). -/
def execHbmLayoutWrite (v : W64) (s : State) : Res :=
  if (s.ctxs.keys.filter s.isAdmitted).any fun c => !(segList (s.ctx c).segs).isEmpty then .next s
  else
    let n := v.toNat % 2 ^ 37
    let g := fld n 0 25
    if g ≤ hbmC then .next { s with hbm := s.hbm.relaid (BitVec.ofNat 64 n) }
    else
      let d := s.draw
      let m := setFld n 0 25 (d.1 % (hbmC + 1))
      .next { d.2 with hbm := d.2.hbm.relaid (BitVec.ofNat 64 m) }

/-! ### What the registers of a tile belong to -/

/-- The resident context of a tile and its virtual id there. -/
def State.residentOf (s : State) (t : Nat) : Option (Nat × Nat) :=
  match (s.tile t).resident with
  | none => none
  | some c => ((s.ctx c).vid t).map fun v => (c, v)

/-- A tile answers register accesses: it is not OFF (log 84). -/
def Tile.answers (x : Tile) : Bool := x.en.st != .off

end Sys2Proof.Machine
end

