-- ==== Sys2Proof/Machine/Power.lean ====
section
/-! DEFINITION. Power, clocks and the board: enables, operating points, tile sleep, deep sleep, board inputs, resets,
thermal and power limits, and the supplies (16_power_clocks R467 to R494; 20_electrical_package R545 to R549), and
the tile registers whose writes have effects (03 R97; 04 R110; 05 R154, R158; 06 R183).
Assumption log: log 86 (DEDUCED), log 103 (DEDUCED). -/

namespace Sys2Proof.Machine

/-- The part is powered and its clocks run: neither held in reset nor tripped (R480, R484). -/
def State.clocked (s : State) : Bool := s.pmc.aon && s.pmc.powered && !s.pmc.stopped

/-- The tile group of a physical tile (01 R17). -/
def groupOf (t : Nat) : Nat := 4 * (t / 16 / 4) + t % 16 / 4
/-- The field of a tile group (01 R17). -/
def fieldOfGroup (g : Nat) : Nat := 2 * (g / 8) + g % 4 / 2

/-! ### Starts and stops (R476, R477) -/

/-- EN as an enable shows it: what was last requested. -/
def Enable.wants (e : Enable) : Bool :=
  match e.st with
  | .off => false
  | .starting => !e.pendOff
  | .on => true
  | .stopping => e.pendOn

/-- A tile that starts from OFF, with nothing kept of what it held (Table 16.1). -/
def freshTile (en : Enable) : Tile := { en := en }

/-- A fabric port that starts or is OFF: its link state is new, and MODE, AN, FORCE_V1 and FAB_CTL are latched. LOST
stays until the next start, and RETRIES until it is read (09 R270, R296, R300, R301). -/
def State.freshPort (s : State) (p : Nat) (en : Enable) : Port :=
  let x := s.port p
  { en := en, ctl := x.ctl, runCtl := x.ctl, runFab := s.fab.ctl, failedRetrains := x.failedRetrains
    lost := x.lost && en.st != .starting, retries := x.retries }

/-- The host port starts: its mode and its pause settings are latched (14 R446). -/
def State.startHost (s : State) (en : Enable) : State :=
  let pfc := fld s.host.ctl.toNat 8 4
  { s with host := { s.host with en := en, pll := false, link := false, runMode := s.host.mode, runPfc := pfc,
                                 paused := false, heldTx := [] } }

/-- The loop-back registers of a port replaced. -/
def State.setLb (s : State) (n : Nat) (x : LoopBack) : State :=
  { s with tst := { s.tst with ports := Tbl.set s.tst.ports n x } }

/-- A tile's enable asked for: a fenced tile stays as it is (13 R398), and before READY the tiles are OFF (15
R451). -/
def State.enableTile (s : State) (t : Nat) : State :=
  if 256 ≤ t then s
  else
    let s1 : State := { s with pmc := { s.pmc with tileEn := s.pmc.tileEn ||| BitVec.ofNat 256 (2 ^ t) } }
    let x := s.tile t
    if s.sec.stage ≠ 9 ∨ s.aon.fence.getLsbD t then s1
    else if x.en.st = .off then s1.setTile t (freshTile x.en.request)
    else s1.setTile t { x with en := x.en.request }

/-- A tile's disable asked for. -/
def State.disableTile (s : State) (t : Nat) : State :=
  if 256 ≤ t then s
  else
    let off := BitVec.ofNat 256 (2 ^ t)
    let s1 : State := { s with pmc := { s.pmc with tileEn := s.pmc.tileEn &&& ~~~off } }
    s1.setTile t { s.tile t with en := (s.tile t).en.drop }

/-- An engine's enable asked for. -/
def State.enableEngine (s : State) (e : Nat) : State :=
  if 16 ≤ e then s
  else
    let s1 : State := { s with pmc := { s.pmc with engEn := setFld s.pmc.engEn e 1 1 } }
    if s.sec.stage ≠ 9 then s1
    else
      let x : Engine := Tbl.get {} s1.engines e
      { s1 with engines := Tbl.set s1.engines e { x with en := x.en.request } }

/-- An engine's disable asked for. -/
def State.disableEngine (s : State) (e : Nat) : State :=
  if 16 ≤ e then s
  else
    let x : Engine := Tbl.get {} s.engines e
    { s with pmc := { s.pmc with engEn := setFld s.pmc.engEn e 1 0 }
             engines := Tbl.set s.engines e { x with en := x.en.drop } }

/-- A fabric port's enable asked for; during a loop-back it waits for the end of the run (18 R514). -/
def State.enablePort (s : State) (p : Nat) : State :=
  if 24 ≤ p ∨ s.sec.stage ≠ 9 then s
  else if (s.lb p).run then s.setLb p { s.lb p with want := true }
  else
    let x := s.port p
    if x.en.st = .off then s.setPort p (s.freshPort p x.en.request) else s.setPort p { x with en := x.en.request }

/-- A fabric port begins to stop with one HELLO of STATE 2; a start is left to end first (Table 16.6). -/
def State.dropPort (s : State) (p : Nat) : State :=
  let x := s.port p
  let s1 := s.setPort p { x with en := x.en.drop }
  if x.en.st = .on then s1.sendHello p 2 else s1

/-- A fabric port's disable asked for. -/
def State.disablePort (s : State) (p : Nat) : State :=
  if 24 ≤ p then s
  else if (s.lb p).run then s.setLb p { s.lb p with want := false }
  else s.dropPort p

/-- The host port's enable asked for (14 R446). -/
def State.enableHost (s : State) : State :=
  let s1 : State := { s with host := { s.host with want := true } }
  if s.sec.stage ≠ 9 then s1
  else if (s.lb 24).run then s1.setLb 24 { s.lb 24 with want := true }
  else if s.host.en.st = .off then s1.startHost s.host.en.request
  else { s1 with host := { s1.host with en := s1.host.en.request } }

/-- The host port's disable asked for. -/
def State.disableHost (s : State) : State :=
  let s1 : State := { s with host := { s.host with want := false } }
  if (s.lb 24).run then s1.setLb 24 { s.lb 24 with want := false }
  else { s1 with host := { s1.host with en := s1.host.en.drop } }

/-- ENABLE_REQUEST: an enable asked for of a tile, engine or port (R476). A context's is its creation (12 R370). -/
def execEnableRequest (f : Func) (s : State) : Res :=
  if !s.clocked then .next s
  else match f with
  | .tile t => .next (s.enableTile t)
  | .engine e => .next (s.enableEngine e)
  | .port p => .next (s.enablePort p)
  | .host => .next s.enableHost
  | .context _ => .next s

/-- DISABLE_REQUEST (R476); of a context, its end (12 R374). -/
def execDisableRequest (f : Func) (s : State) : Res :=
  if !s.clocked then .next s
  else match f with
  | .tile t => .next (s.disableTile t)
  | .engine e => .next (s.disableEngine e)
  | .port p => .next (s.disablePort p)
  | .host => .next s.disableHost
  | .context c => if s.isAdmitted c then .next (s.askEnd c) else .next s

/-- The start of a tile ends: its clocks run, its store is zero (R473, 04 R109). -/
def State.startTile (s : State) (t : Nat) : State :=
  let x := s.tile t
  if x.en.st != .starting || !bit s.pmc.groupPll (groupOf t) || !x.fll then s
  else
    let y : Tile := { x with en := x.en.started, level := fld x.shapeCtl.toNat 8 4, store := [], ecc := [], wbacks := [] }
    (s.setTile t y).ctxs.keys.foldl State.startContext (s.setTile t y)

/-- The start of an engine ends: its field's clock runs. -/
def State.startEngine (s : State) (e : Nat) : State :=
  let x : Engine := Tbl.get {} s.engines e
  if x.en.st != .starting || !bit s.pmc.fieldPll (e / 4) then s
  else { s with engines := Tbl.set s.engines e { x with en := x.en.started } }

/-- The training of a fabric port ends without UP (Table 16.6). -/
def State.startPort (s : State) (p : Nat) : State :=
  let x := s.port p
  if x.en.st != .starting || !x.pll then s
  else
    let s1 := s.setPort p { x with en := x.en.started }
    if (s1.port p).en.st == .stopping then s1.sendHello p 2 else s1

/-- START_ENDS: the start of a function ends once its work is done (R476, R477). -/
def execStartEnds (f : Func) (s : State) : Res :=
  match f with
  | .tile t => .next (s.startTile t)
  | .engine e => .next (s.startEngine e)
  | .port p => .next (s.startPort p)
  | .host =>
    if s.host.en.st == .starting && s.host.pll && s.host.link then
      .next { s with host := { s.host with en := s.host.en.started } }
    else .next s
  | .context c => .next (s.startContext c)

/-- A tile at the end of its stop: it is in no admitted context's map, or it is fenced (Table 16.6, 13 R398). What it
still held of its contexts' work is gone. -/
def State.stopTile (s : State) (t : Nat) : State :=
  let x := s.tile t
  let fenced := s.aon.fence.getLsbD t
  let mapped := (s.ctxs.keys.filter s.isAdmitted).any fun c => (s.ctx c).map.contains t
  if x.en.st != .stopping || (mapped && !fenced) then s
  else
    let s1 := (s.uoa t).held.foldl (fun (st : State) y => st.release y) s
    let s2 : State := { s1 with flight := s1.flight.filter fun f => (s.ctx f.ctx).phys f.vt != some t }
    (((s2.setTile t (freshTile x.en.stopped)).setUoa t {}).settleDetours)

/-- The host port OFF: every agent is detached (Table 16.6). -/
def State.hostOff (s : State) (en : Enable) : State :=
  let s1 := (List.range 8).foldl (fun (st : State) a => if (st.slot a).st = 0 then st else st.freeSlot a) s
  { s1 with host := { s1.host with en := en, pll := false, link := false, speed := 0, paused := false, heldTx := [] } }

/-- A host or fabric port has stopped: a loop-back that waits begins, or the port goes OFF or starts again (R476, 18
R514). -/
def State.portStopped (s : State) (p : Nat) : State :=
  let l := s.lb p
  let x := s.port p
  if l.run && l.waits then
    (s.setPort p (s.freshPort p {})).setLb p { l with waits := false }
  else s.setPort p (s.freshPort p x.en.stopped)

/-- The stop of a fabric port ends: every frame is acknowledged, or the port is lost (Table 16.6). -/
def State.stopPort (s : State) (p : Nat) : State :=
  let x := s.port p
  let quiet := x.lost || !x.pll || (x.replay.isEmpty && x.waiting.isEmpty)
  if x.en.st != .stopping || !quiet then s
  else
    let s1 := s.portDown p false
    let s2 := s1.portStopped p
    if x.peer ≠ 0xFFFF ∧ x.up ∧ s2.peerDown x.peer then s2.suspectPeer x.peer else s2

/-- The stop of the host port ends: no RoCEv2 operation of the part is in flight (Table 16.6). -/
def State.stopHost (s : State) : State :=
  if s.host.en.st != .stopping || s.remotes.any (fun r => r.host && !r.answered) then s
  else
    let l := s.lb 24
    if l.run && l.waits then (s.hostOff {}).setLb 24 { l with waits := false }
    else
      let en := s.host.en.stopped
      let s1 := s.hostOff en
      if en.st == .starting then s1.startHost en else s1

/-- STOP_ENDS: the stop of a function ends once its work is done (R476, R477). -/
def execStopEnds (f : Func) (s : State) : Res :=
  match f with
  | .tile t => .next (s.stopTile t)
  | .engine e =>
    let x : Engine := Tbl.get {} s.engines e
    if x.en.st == .stopping && x.run.isNone then
      .next { s with engines := Tbl.set s.engines e { x with en := x.en.stopped } }
    else .next s
  | .port p => .next (s.stopPort p)
  | .host => .next s.stopHost
  | .context c => .next (s.stopContext c)

/-! ### Clocks (R468, R469) -/

/-- A tile of a group needs the group's PLL: it is starting, or ON and not RETAINED. -/
def State.groupBusy (s : State) (g : Nat) : Bool :=
  (List.range 256).any fun t => groupOf t == g &&
    (let x := s.tile t
     x.en.st == .starting || (x.en.st != .off && x.sub != .retained))

/-- PLL_LOCK: a clock source locks that something needs (R469). -/
def execPllLock (p : Pll) (s : State) : Res :=
  if !s.clocked then .next s
  else match p with
  | .field f =>
    if f < 4 ∧ s.pmc.deepState ≠ 2 then .next { s with pmc := { s.pmc with fieldPll := setFld s.pmc.fieldPll f 1 1 } }
    else .next s
  | .group g =>
    if g < 16 ∧ s.pmc.deepState ≠ 2 ∧ s.groupBusy g then
      .next { s with pmc := { s.pmc with groupPll := setFld s.pmc.groupPll g 1 1 } }
    else .next s
  | .tile t =>
    let x := s.tile t
    if bit s.pmc.groupPll (groupOf t) ∧ x.en.st = .starting then .next (s.setTile t { x with fll := true }) else .next s
  | .port n =>
    let x := s.port n
    if x.en.st = .starting then .next (s.setPort n { x with pll := true }) else .next s
  | .host =>
    if s.host.en.st = .starting then .next { s with host := { s.host with pll := true } } else .next s

/-! ### Operating points (R470, R471) -/

/-- THROTTLE_N is accepted as asserted. -/
def Pmc.throttled (p : Pmc) : Bool := !p.thr.accepted
/-- TARGET, and THR_POINT while it counts (R470, R486). -/
def Pmc.target (p : Pmc) : Nat := fld p.dvfsCtl.toNat 0 2
def Pmc.thrPoint (p : Pmc) : Nat := if p.throttled then fld p.dvfsCtl.toNat 4 2 else 0
/-- The point that must be in force: the slowest of the four (R470). -/
def Pmc.required (p : Pmc) : Nat := max (max p.target p.thrPoint) (max p.thermCap p.pwrCap)
/-- A limit of point `q` sets the point (R487; log 85). -/
def Pmc.sets (p : Pmc) (q : Nat) : Bool := q == p.required && decide (p.target < q)
/-- The VID code of a point (Table 16.3). -/
def vidCode (point : Nat) : Nat := 30 - 10 * point

/-- While the clocks are stopped, VID_CORE carries the code of the point required (20 Table 20.4). DEDUCED, log 102. -/
def Pmc.heldVid (p : Pmc) : Pmc := { p with vid := vidCode p.required }

/-- The point in force changed. -/
def State.setPoint (s : State) (p : Nat) : State :=
  let k := s.pmc
  State.ev { s with pmc := { k with point := p, vid := vidCode p, raising := none
                                    changes := satInc 16 k.changes } } 0x0B4 0 []

/-- DVFS_CHANGE: the point required is not the one in force (R471). A slower point is taken at once and abandons a
raise; for a faster one the VID code goes first; a raise whose aim has become too fast turns to the slower aim
(log 87). -/
def execDvfsChange (s : State) : Res :=
  let k := s.pmc
  let r := k.required
  if !s.clocked then .next s
  else if k.point < r then .next (s.setPoint r)
  else match k.raising with
  | none => if r < k.point then .next { s with pmc := { k with raising := some r, vid := vidCode r } } else .next s
  | some a =>
    if r = k.point then .next { s with pmc := { k with raising := none, vid := vidCode k.point } }
    else if a < r then .next { s with pmc := { k with raising := some r, vid := vidCode r } }
    else .next s

/-- VR_SETTLE_EXPIRE: a raise has waited out VR_SETTLE (R471). -/
def execVrSettleExpire (s : State) : Res :=
  match s.pmc.raising with
  | some r => if s.clocked then .next (s.setPoint r) else .next s
  | none => .next s

/-! ### Tile sleep (R473, R474) -/

/-- The update-on-arrival unit of a tile holds an entry that can be applied. -/
def State.canApply (s : State) (t : Nat) : Bool :=
  (s.uoa t).entries.any fun e => e.2.st != .free && ((s.settleEntry t e.1).rb t e.1).st == .applying

/-- A tile is quiet (R473). -/
def State.quiet (s : State) (t : Nat) : Bool :=
  let still := match s.residentOf t with
    | none => true
    | some p => (List.range 4).all fun q =>
        let st := (s.queue p.1 p.2 q).st
        st == .idle || st == .waiting
  still && s.flight.all (fun f => (s.ctx f.ctx).phys f.vt != some t) && !s.canApply t && (s.uoa t).waiting.isEmpty

/-- TILE_CLOCK_STOP: a tile quiet for 2^CS_EXP core cycles stops its clock (R473). -/
def execTileClockStop (t : Nat) (s : State) : Res :=
  let x := s.tile t
  if x.runs && s.quiet t then .next (s.setTile t { x with sub := .clockStopped, fll := false }) else .next s

/-- TILE_RETAIN: a tile in CLOCK_STOPPED for 2^RET_EXP slow cycles is RETAINED; the last of its group stops the group's
PLL (R468, R473). -/
def execTileRetain (t : Nat) (s : State) : Res :=
  let x := s.tile t
  if x.en.st != .on || x.sub != .clockStopped then .next s
  else
    let s1 := s.setTile t { x with sub := .retained }
    let g := groupOf t
    if s1.groupBusy g then .next s1
    else .next { s1 with pmc := { s1.pmc with groupPll := setFld s1.pmc.groupPll g 1 0 } }

/-- A sleeping tile back in RUN, its array at level FLOOR (R474), its group's PLL running. The slow cycles that the
wake takes are a free value (log 61). -/
def State.wakeTile (s : State) (t : Nat) : State :=
  let x := s.tile t
  if x.en.st == .off || x.en.st == .starting || x.sub == .run then s
  else
    let s1 := s.setTile t { x with sub := .run, fll := true, level := fld x.shapeCtl.toNat 8 4 }
    let s2 : State := { s1 with pmc := { s1.pmc with groupPll := setFld s1.pmc.groupPll (groupOf t) 1 1 } }
    let d := s2.draw
    (d.2.evTile 0x01E t).evTile 0x01F t d.1

/-- TILE_WAKE: an event needs a sleeping tile (R474); in deep sleep the exit comes first (R475). -/
def execTileWake (t : Nat) (s : State) : Res :=
  if s.clocked && s.pmc.deepState != 2 then .next (s.wakeTile t) else .next s

/-- An access to the blocks of a tile in STARTING waits until the tile is ON (19 R533). DEDUCED, log 84: its clock
locks and its start ends before the access is served. -/
def State.awaitStart (s : State) (t : Nat) : State :=
  if (s.tile t).en.st == .starting then
    let s1 : State := { s with pmc := { s.pmc with groupPll := setFld s.pmc.groupPll (groupOf t) 1 1 } }
    (s1.setTile t { s.tile t with fll := true }).startTile t
  else s

/-- What an access to the blocks of a tile waits for: its start, or its wake (19 R533). -/
def State.tileAccess (s : State) (t : Nat) : State := (s.awaitStart t).wakeTile t

/-! ### Tile registers with effects (19 R533) -/

/-- TILE_QRESUME_WRITE: the marked queues of the resident context start if they are idle or halted (05 R158). -/
def execTileQresumeWrite (t : Nat) (v : W32) (s0 : State) : Res :=
  let s := s0.tileAccess t
  match s.residentOf t with
  | none => .next s
  | some p => .next (((List.range 4).filter fun q => bit v.toNat q).foldl
      (fun (st : State) q => st.startQueue p.1 p.2 q true) s)

/-- TILE_QSTAT_PC_WRITE: the program counter of a queue that is idle or halted (05 R154). -/
def execTileQstatPcWrite (t q : Nat) (v : W64) (s0 : State) : Res :=
  let s := s0.tileAccess t
  match s.residentOf t with
  | none => .next s
  | some p =>
    let x := s.queue p.1 p.2 q
    if q < 4 ∧ (x.st = .idle ∨ x.st = .halted) then
      .next (s.setQueue p.1 p.2 q { x with pc := 16 * fld v.toNat 4 44 })
    else .next s

/-- TILE_STORE_LIVE_WRITE: 64 bits of the live map of the resident context (04 R110). -/
def execTileStoreLiveWrite (t i : Nat) (v : W64) (s0 : State) : Res :=
  let s := s0.tileAccess t
  match s.residentOf t with
  | none => .next s
  | some p =>
    if 4 ≤ i then .next s
    else
      let tc := s.tc p.1 p.2
      let m := setFld tc.live.toNat (64 * i) 64 v.toNat
      .next (s.setTc p.1 p.2 { tc with live := BitVec.ofNat 256 m })

/-- TILE_SHAPE_CTL_WRITE: in force from the next boundary of the window (03 R97). -/
def execTileShapeCtlWrite (t : Nat) (v : W32) (s0 : State) : Res :=
  let s := s0.tileAccess t
  let x := s.tile t
  if x.answers then .next (s.setTile t { x with shapePend := some (v &&& 0xF30) }) else .next s

/-- TAP_CTL_WRITE: SUSPEND, in force from the tile's next arrival at a Milestone (06 R183). -/
def execTapCtlWrite (t : Nat) (v : W32) (s0 : State) : Res :=
  let s := s0.tileAccess t
  let x := s.tile t
  if x.answers then .next (s.setTile t { x with tapCtl := v &&& 1 }) else .next s

/-! ### Deep sleep (R475) -/

/-- The conditions of deep sleep. -/
def State.sleepReady (s : State) : Bool :=
  (s.ctxs.keys.filter s.isAdmitted).all (fun c => (s.smap c).isNone)
    && (List.range 24).all (fun p => (s.port p).en.st == .off)
    && s.engines.all (fun e => e.2.run.isNone && e.2.queue.isEmpty && e.2.subtiles.isEmpty)
    && s.flight.all (fun f => !f.posted)
    && (List.range 256).all fun t => (s.tile t).en.st == .off || ((s.tile t).en.st == .on && (s.tile t).sub == .retained)

/-- DEEP_SLEEP_ENTER: DEEP is 1 and every condition holds; active stacks go to self-refresh and the PLLs stop (R475,
11 R343). -/
def execDeepSleepEnter (s : State) : Res :=
  if !s.clocked || s.sec.stage != 9 || !s.pmc.deep || 2 ≤ s.pmc.deepState || !s.sleepReady then .next s
  else
    let rest (_ : Nat) (x : Stack) : Stack := if x.st = .active then { x with st := .selfRefresh } else x
    .next { s with hbm := { s.hbm with stackTbl := s.hbm.stackTbl.mapv rest }
                   pmc := { s.pmc with deepState := 2, fieldPll := 0, groupPll := 0 } }

/-- DEEP_SLEEP_EXIT: the exit ends with the field PLLs locked (R475). -/
def execDeepSleepExit (s : State) : Res :=
  if s.pmc.deepState = 3 then .next { s with pmc := { s.pmc with deepState := 0, deep := false, fieldPll := 15 } }
  else .next s

/-! ### Board inputs and resets (R478 to R480; 20 R546, R552) -/

/-- The level of RESET_N as the part treats it: low while a watched rail is below its threshold (20 R546). -/
def Pmc.resetLevel (p : Pmc) : Bool := p.rst.level && p.low.isEmpty

/-- JTAG holds the part as under an accepted RESET_N assertion (18 Table 18.3). -/
def jtagHolds (ir : Nat) : Bool := [3, 4, 5, 6, 7].contains ir

/-- RESET_N's level changed: one that reverts before it is accepted is a glitch (R478). -/
def Pmc.resetGlitch (old new : Pmc) : Pmc :=
  if old.resetLevel != new.resetLevel && new.resetLevel == new.rst.accepted then
    { new with rstGlitch := satInc 16 new.rstGlitch }
  else new

/-- BOARD_INPUT_LEVEL_CHANGE: the raw level of THROTTLE_N, or of RESET_N where `reset`, changes (R478). -/
def execBoardInputLevelChange (reset level : Bool) (s : State) : Res :=
  let k := s.pmc
  if !k.aon then .next s
  else if reset then
    let n : Pmc := { k with rst := { k.rst with level := level } }
    .next { s with pmc := k.resetGlitch n }
  else
    let glitch := k.thr.level != level && level == k.thr.accepted
    .next { s with pmc := { k with thr := { k.thr with level := level }
                                   thrGlitch := if glitch then satInc 16 k.thrGlitch else k.thrGlitch } }

/-- UNDERVOLTAGE: a watched rail falls below its threshold or is back (20 R546); `rail` is its row of 20 Table 20.2
after VDD_AON. -/
def execUndervoltage (rail : Nat) (below : Bool) (s : State) : Res :=
  let k := s.pmc
  if !k.aon || 6 ≤ rail then .next s
  else
    let rest := k.low.filter (· != rail)
    let n : Pmc := { k with low := if below then rest ++ [rail] else rest }
    .next { s with pmc := k.resetGlitch n }

/-- THROTTLE_N_ACCEPT: the pin's new level is accepted; `len` is the length in slow cycles of the assertion that ends
(R478, R479, R488). VID_CORE follows at once while the clocks are stopped (20 Table 20.4). -/
def execThrottleNAccept (len : Nat) (s : State) : Res :=
  let k := s.pmc
  if !k.aon || k.thr.level == k.thr.accepted then .next s
  else
    let time := if k.thr.level then min (len / 2 ^ 14) (2 ^ 31 - 1) else 0
    let n : Pmc := { k with thr := { k.thr with accepted := k.thr.level }, thrTime := time }
    .next { s with pmc := if k.stopped then n.heldVid else n }

/-- One HELLO with STATE 2 on every UP fabric port. -/
def State.goodbye (s : State) : State :=
  (List.range 24).foldl (fun (st : State) p => if (st.port p).isUp then st.sendHello p 2 else st) s

/-- An accepted assertion of RESET_N: hellos, every context ends without saving, every function is OFF, every clock but
the always-on domain's stops, and every register is at its reset value but the power-on-only fields, the filters, the
sensors and the SMBus target; HBM contents are not kept (R480). DEDUCED, log 6. -/
def State.chipReset (s : State) : State :=
  let k := s.pmc
  let r := State.reset.pmc
  { State.reset with
    pending := s.pending
    out := s.goodbye.out
    free := s.free
    fuses := s.fuses
    aon := { State.reset.aon with expired := s.aon.expired, fence := s.aon.fence }
    pmc := ({ r with
      aon := k.aon, powered := k.powered, low := k.low, rst := k.rst, thr := k.thr, rstGlitch := k.rstGlitch
      smbAddr := k.smbAddr, trip := k.trip, temps := k.temps, tmax := k.tmax, hot := k.hot, hotNow := k.hotNow
      tripDue := k.tripDue, boardLimit := k.boardLimit, echo := k.echo } : Pmc).heldVid
    tst := { State.reset.tst with ir := s.tst.ir } }

/-- RESET_N_ASSERT: RESET_N, low or treated as low, is accepted as asserted (R478, R480, 20 R546). -/
def execResetNAssert (s : State) : Res :=
  let k := s.pmc
  if !k.aon || !k.rst.accepted || k.resetLevel then .next s
  else
    let s1 := s.chipReset
    .next { s1 with pmc := { s1.pmc with rst := { s1.pmc.rst with accepted := false } } }

/-- The part with every supply off: only the fuses, and what it has sent, remain. -/
def State.dead (s : State) : State :=
  { State.reset with
    pending := s.pending, out := s.out, free := s.free, fuses := s.fuses
    pmc := { State.reset.pmc with aon := false, powered := false, low := [0, 1, 2, 3, 4, 5], vid := 0 } }

/-- POWER_ON: VDD_AON has been within its limits, with REFCLK_CORE, for 1,024 slow cycles: power-on completes, both
board inputs are taken as asserted and the address pins are sampled (R478, R480, 20 R552). The other rails are still
below their thresholds (20 Table 20.3), and VID_CORE drives code 0 (20 Table 20.4). DEDUCED, log 102. -/
def execPowerOn (addr : Nat) (s : State) : Res :=
  if s.pmc.powered then .next s
  else
    let d := s.dead
    .next { d with pmc := { d.pmc with aon := true, powered := true, smbAddr := addr % 4, vid := 0 } }

/-- VDD_AON_REMOVED: the whole part loses power (20 R548). While another rail is up the board breaks an obligation
whose consequence the spec does not give (R549). DESIGN CHOICE, log 105. -/
def execVddAonRemoved (s : State) : Res :=
  if s.pmc.aon && !(List.range 6).all s.pmc.low.contains then .fault .boardBreach
  else .next s.dead

/-! ### Thermal and power limits (R482 to R484) -/

/-- The thermal limit in 1/8 °C (R493). -/
def Pmc.lim (p : Pmc) : Int := 8 * ((min 105 (max 60 (fld p.limitCtl.toNat 0 8)) : Nat) : Int)
/-- The smaller of a limit of PMC_LIMIT_CTL and the board limit (R483, R493). -/
def Pmc.limitOf (p : Pmc) (v : Nat) : Nat := if p.boardLimit = 0 then v else min v p.boardLimit
def Pmc.peak (p : Pmc) : Nat := p.limitOf (min 3600 (fld p.limitCtl.toNat 48 16))
def Pmc.sustained (p : Pmc) : Nat := p.limitOf (min 3000 (fld p.limitCtl.toNat 32 16))

/-- A cap after one more sample: it moves one point slower at most once in 100 samples, and one point faster after
1,000 samples in a row that are `good` (R482, R483). DEDUCED, log 101. -/
def capStep (cap age run : Nat) (bad good : Bool) : Nat × Nat × Nat :=
  let run' := if good then run + 1 else 0
  if bad && decide (100 ≤ age) && decide (cap < 3) then (cap + 1, 0, run')
  else if decide (1000 ≤ run') then (cap - 1, if cap = 0 then age + 1 else 0, 0)
  else (cap, age + 1, run')

/-- The offset of a thermal sensor in 1/8 °C (18 R519, R529). -/
def State.thermOffset (s : State) (k : Nat) : Int := (Tbl.get ({} : Therm) s.tst.therm k).offset

/-- The hottest of the readings, and the first sensor that reads it. DEDUCED, log 101. -/
def hottest : List Int → Int × Nat
  | [] => (0, 0)
  | [x] => (x, 0)
  | x :: xs =>
    let h := hottest xs
    if h.1 ≤ x then (x, 0) else (h.1, h.2 + 1)

/-- THERMAL_SAMPLE: every sensor's reading before its offset, in 1/8 °C, the stacks' temperatures in °C, and the
averages over 10 ms and 1 s in W; the caps move, and two samples in a row at 115 °C or above make a trip due (R482 to
R484). -/
def execThermalSample (raw : List Int) (stackTemps : List Nat) (w10 w1 : Nat) (s : State) : Res :=
  if !s.pmc.aon || !s.pmc.powered then .next s
  else
    let r := (List.range 20).map fun i => (raw[i]?).getD 0 + s.thermOffset i
    let h := hottest r
    let k := s.pmc
    let hot := (List.range 20).filter fun i => decide (920 ≤ (r[i]?).getD 0)
    let th := capStep k.thermCap k.thermAge k.coolRun (decide (k.lim < h.1)) (decide (h.1 ≤ k.lim - 24))
    let above := decide (k.peak < w10) || decide (k.sustained < w1)
    let under := decide (100 * w10 < 95 * k.peak) && decide (100 * w1 < 95 * k.sustained)
    let pw := capStep k.pwrCap k.pwrAge k.lowRun above under
    let k1 : Pmc := { k with
      temps := (List.range 20).map fun i => (i, wrapInt 16 ((r[i]?).getD 0))
      hot := h.2, tmax := min 255 (h.1 / 8).toNat, hotNow := hot
      tripDue := k.tripDue || hot.any k.hotNow.contains
      thermCap := th.1, thermAge := th.2.1, coolRun := th.2.2
      pwrCap := pw.1, pwrAge := pw.2.1, lowRun := pw.2.2
      pwr10ms := min w10 0xFFFF, pwr1s := min w1 0xFFFF }
    let warm (st : State) (i : Nat) : State := st.setStack i { st.stack i with temp := min 255 ((stackTemps[i]?).getD 0) }
    let s1 := (List.range 12).foldl warm { s with pmc := k1 }
    .next (if th.1 = k.thermCap then s1 else s1.ev 0x0B5 0 [])

/-- THERMAL_TRIP: hellos go out, THERMTRIP_N goes low, every context ends, every function stops with its clock and
every tile is OFF, until power-on (R484). DEDUCED, log 88. -/
def execThermalTrip (s : State) : Res :=
  if !s.pmc.tripDue || s.pmc.trip then .next s
  else
    let s1 := s.goodbye
    let s2 := (s1.ctxs.keys.filter s1.isAdmitted).foldl State.endContext s1
    let off (_ : Nat) (x : Port) : Port := { x with en := {}, up := false, pll := false, waiting := [], replay := [] }
    let eng (_ : Nat) (x : Engine) : Engine := { x with en := {} }
    .next { s2 with
      tiles := [], uoas := []
      engines := s2.engines.mapv eng
      fab := { s2.fab with ports := s2.fab.ports.mapv off }
      host := { s2.host with en := {}, link := false, pll := false }
      pmc := { s2.pmc with trip := true, stopped := true, fieldPll := 0, groupPll := 0 } }

end Sys2Proof.Machine
end

