-- ==== Sys2Proof/Machine/Boot.lean ====
section
/-! DEFINITION. Boot, the firmware fetch, attestation and fuse programming (15_boot_security R451 to R465).
Assumption log: log 90 (DEDUCED). -/

namespace Sys2Proof.Machine

/-! ### The stages (R451, R457, R461) -/

/-- The seed of the identity key, from the fuse secret and the PUF response (R457). -/
def Fuses.idkSeed (f : Fuses) : Bytes :=
  let uds := (sha3_512 (f.secret ++ Config.puf f.helper)).take 32
  (sha3_512 (uds ++ ascii "ngutas-idk")).take 32

/-- FUSE and IDENTITY: the stage in which they end (Table 15.1). -/
def Fuses.bootStage (f : Fuses) : Nat :=
  if f.lifecycle = 0 then 1
  else if f.lifecycle ≠ 1 ∨ !f.parityOk then 0xF
  else if sha3_512 (Config.mldsaPublic f.idkSeed) ≠ f.idkHash then 0xF
  else 3

/-- BOOT_START: RESET_N is accepted as deasserted, the HOST_MODE lands are sampled, and the ROM runs FUSE, IDENTITY and
PORT, in which the host port starts (R451, 20 R552). -/
def execBootStart (hostMode : Nat) (s : State) : Res :=
  let k := s.pmc
  if !k.aon || !k.powered || !k.resetLevel || k.trip || s.sec.stage ≠ 0 || jtagHolds s.tst.ir then .next s
  else
    let mode := if hostMode % 8 = 7 then 0 else hostMode % 8
    let st := s.fuses.bootStage
    let idk := if st = 3 then Config.mldsaPublic s.fuses.idkSeed else []
    let s1 : State := { s with
      pmc := { k with rst := { k.rst with accepted := true }, stopped := false }
      host := { s.host with mode := mode }
      sec := { s.sec with stage := st, idk := idk, bootRevoke := s.fuses.fwRevoke, bootSvn := s.fuses.svn } }
    .next (if st = 3 then s1.startHost { st := .starting } else s1)

/-! ### The image (R453, R455) -/

def magicOk (h : Bytes) : Bool := recN h 0 4 == 0x5746474E && recN h 4 2 == 1
/-- BODYLEN, SVN, ENTRY and BODY_DIGEST of a header (Table 15.2). -/
def bodyLen (h : Bytes) : Nat := recN h 8 4
def fwSvn (h : Bytes) : Nat := recN h 12 4
def fwEntry (h : Bytes) : Nat := recN h 16 4
def bodyDigest (h : Bytes) : Bytes := sliceB h 64 64
/-- PUBKEY and SIG. -/
def fwPub (h : Bytes) : Bytes := sliceB h 128 2592
def fwSig (h : Bytes) : Bytes := sliceB h 2720 4627

/-- MAGIC, FORMAT, BODYLEN, ENTRY and the reserved bytes are right. -/
def headerOk (h : Bytes) : Bool :=
  magicOk h && decide (16 ≤ bodyLen h) && decide (bodyLen h ≤ 2097152) && bodyLen h % 16 == 0 && fwEntry h % 16 == 0
    && decide (fwEntry h < bodyLen h) && zeroAt h [(6, 2), (20, 44), (7347, 77)]

/-- The unrevoked fused key whose hash is that of PUBKEY. -/
def State.signer (s : State) (h : Bytes) : Option Nat :=
  [0, 1].find? fun k => !bit s.sec.bootRevoke k && sha3_512 (fwPub h) == Tbl.get [] s.fuses.fwKeys k

/-- The FWRES of an offer, checked in the order of R455. -/
def State.offerResult (s : State) (h : Bytes) : Nat :=
  if s.sec.fetch.isSome then 1
  else if !headerOk h then 2
  else if (s.signer h).isNone then 3
  else if fwSvn h < s.sec.bootSvn then 5
  else if !Config.mldsaVerify (fwPub h) (ascii "ngutas-fw-v1") (sha3_512 (h.take 128)) (fwSig h) then 4
  else 0

/-! ### The fetch (R454, R456) -/

/-- NEXT: the next body offset that the ROM wants. -/
def Sec.nextOff (c : Sec) : Nat := (c.fetch.map (·.body.length)).getD 0

/-- The slot holds the fetch. -/
def Sec.holds (c : Sec) (slot : Nat) : Bool := c.fetch.any fun f => f.slot == slot

/-- A fetch result and NEXT, as a response. -/
def State.fwAnswer (s : State) (res : Nat) : NcpAct := .done s 0 (leBytes 1 res ++ leBytes 4 s.sec.nextOff)

/-- A failure recorded in LAST_FAIL, and counted in FAILS where it is an offer's or a digest's (R462). -/
def State.fwFail (s : State) (res : Nat) (counted : Bool) : State :=
  let fails := if counted then satInc 16 s.sec.fails else s.sec.fails
  { s with sec := { s.sec with lastFail := res, fails := fails } }

/-- FW_OFFER (R455). -/
def execFwOffer (m : Ncp) (s : State) : Res :=
  .next (s.ncp 0x50 m .session (m.payload.length == 7424) fun st =>
    let r := st.offerResult m.payload
    if r ≠ 0 then (st.fwFail r true).fwAnswer r
    else
      let key := (st.signer m.payload).getD 0
      let s1 : State := { st with sec := { st.sec with
        stage := 5, fwKey := key, fetch := some { slot := m.slot, header := m.payload } } }
      s1.fwAnswer 0)

/-- FW_DATA (R454). -/
def execFwData (m : Ncp) (s : State) : Res :=
  let n := m.payload.length - 4
  .next (s.ncp 0x51 m .session (decide (20 ≤ m.payload.length) && decide (n ≤ 8176) && n % 16 == 0) fun st =>
    match st.sec.fetch with
    | none => (st.fwFail 8 false).fwAnswer 8
    | some f =>
      let off := recN m.payload 0 4
      if f.slot ≠ m.slot then (st.fwFail 8 false).fwAnswer 8
      else if off ≠ f.body.length then (st.fwFail 6 false).fwAnswer 6
      else if bodyLen f.header < off + n then (st.fwFail 9 false).fwAnswer 9
      else
        let s1 : State := { st with sec := { st.sec with fetch := some { f with body := f.body ++ m.payload.drop 4 } } }
        s1.fwAnswer 0)

/-- HANDOVER: the fuses are locked, every NCP slot is freed and the firmware is entered, in INIT (Table 15.1, R458). -/
def State.handover (s : State) (f : FwFetch) : State :=
  let s0 : State := { s with sec := { s.sec with fetch := none } }
  let s1 := (List.range 8).foldl (fun (st : State) a => if (st.slot a).st = 0 then st else st.freeSlot a) s0
  { s1 with sec := { s1.sec with stage := 8, locked := true, imem := f.body, header := f.header.take 128 } }

/-- FW_END: a body whose digest matches is answered OK and entered; one whose digest differs is discarded (R454,
R456). -/
def execFwEnd (m : Ncp) (s : State) : Res :=
  .next (s.ncp 0x52 m .session (m.payload.length == 0) fun st =>
    match st.sec.fetch with
    | none => (st.fwFail 8 false).fwAnswer 8
    | some f =>
      if f.slot ≠ m.slot ∨ f.body.length < bodyLen f.header then (st.fwFail 8 false).fwAnswer 8
      else if sha3_512 f.body ≠ bodyDigest f.header then
        let s1 := st.fwFail 7 true
        State.fwAnswer { s1 with sec := { s1.sec with stage := 4, fetch := none } } 7
      else
        let r : Reply := { ty := 0x52, tag := m.tag, status := 0, ctx := m.ctx
                           payload := leBytes 1 0 ++ leBytes 4 st.sec.nextOff }
        .later ((st.answer m.slot r).handover f))

/-- FW_ABORT: the fetch of the slot that holds it is released (R454); from another slot it releases nothing (log
89). DEDUCED, log 89. -/
def execFwAbort (m : Ncp) (s : State) : Res :=
  .next (s.ncp 0x53 m .session (m.payload.length == 0) fun st =>
    if st.sec.holds m.slot then
      State.fwAnswer { st with sec := { st.sec with stage := 4, fetch := none } } 0
    else st.fwAnswer 0)

/-- INIT_DONE: the firmware has brought up the part: every stack has ended training, the capability list is linked, the
tiles and engines that are enabled and not fenced start, and NCP is served in full (R452). DEDUCED, log 104. -/
def execInitDone (s : State) : Res :=
  if s.sec.stage ≠ 8 || s.aon.failed || (List.range 12).any fun k => (s.stack k).st == .training then .next s
  else
    let s1 : State := { s with sec := { s.sec with stage := 9, linked := true } }
    let tiles := (List.range 256).filter fun t => s.pmc.tileEn.getLsbD t
    let engs := (List.range 16).filter fun e => bit s.pmc.engEn e
    .next (engs.foldl State.enableEngine (tiles.foldl State.enableTile s1))

/-! ### Attestation (R459) -/

/-- The report without its signature (Table 15.5). -/
def State.report (s : State) (slot : Nat) : Bytes :=
  let f := s.fuses
  let words := (List.range 8).map fun k =>
    let a : AgentFuse := Tbl.get {} f.agents k
    (a.hash, b2n a.valid + 2 * b2n a.admin + 4 * b2n a.revoked)
  leBytes 4 0x5441474E ++ leBytes 2 1 ++ leBytes 1 0x11 ++ leBytes 1 f.lifecycle ++ leBytes 2 s.fab.devid ++ leBytes 2 0
    ++ leBytes 4 (fwSvn s.sec.header) ++ leBytes 4 f.svn ++ leBytes 1 s.sec.fwKey ++ List.replicate 11 0
    ++ sliceB (s.slot slot).transcript 0 64 ++ sha3_512 s.sec.header ++ sha3_512 (Config.romImage 0)
    ++ sha3_512 (Config.agentWords words) ++ sliceB s.sec.idk 0 2592

/-- ATTEST: the report, signed with the identity key (R459). -/
def execAttest (m : Ncp) (s : State) : Res :=
  .next (s.ncp 0x05 m .session (m.payload.length == 0) fun st =>
    let r := st.report m.slot
    let sig := Config.mldsaSign st.fuses.idkSeed (ascii "ngutas-attest-v1") (sha3_512 r)
    .done st 0 (r ++ sliceB sig 0 4627))

/-! ### Fuse programming (R465) -/

/-- SEC_FUSE_CTL written: TARGET, and PROG, which is ignored while BUSY is 1. -/
def State.fuseCtl (s : State) (target : Nat) (prog : Bool) : State :=
  let data := (List.range 8).flatMap fun i => leBytes 8 (Tbl.get (0 : W64) s.sec.fuseData i).toNat
  let run := if prog && s.sec.prog.isNone then some (target, data) else s.sec.prog
  { s with sec := { s.sec with target := target, prog := run } }

/-- SEC_FUSE_CTL written with PROG and a TARGET, from READY on. -/
def State.program (s : State) (target : Nat) : State := if s.sec.stage = 9 then s.fuseCtl target true else s

/-- PROG_AGENT_HASH: entry `k` from SEC_FUSE_DATA, setting VALID. -/
def execProgAgentHash (k : Nat) (s : State) : Res := .next (s.program (k % 8))
/-- PROG_ADMIN: ADMIN of entry `k`. -/
def execProgAdmin (k : Nat) (s : State) : Res := .next (s.program (0x10 + k % 8))
/-- PROG_REVOKED: REVOKED of entry `k`. -/
def execProgRevoked (k : Nat) (s : State) : Res := .next (s.program (0x20 + k % 8))
/-- PROG_FW_REVOKE: FW_REVOKE bit `k`. -/
def execProgFwRevoke (k : Nat) (s : State) : Res := .next (s.program (0x30 + k % 2))
/-- PROG_SVN: SVN plus one. -/
def execProgSvn (s : State) : Res := .next (s.program 0x40)

/-- An entry of the agent-key table. -/
def Fuses.agent (f : Fuses) (k : Nat) : AgentFuse := Tbl.get {} f.agents k
/-- An entry replaced. -/
def Fuses.setAgent (f : Fuses) (k : Nat) (a : AgentFuse) : Fuses := { f with agents := Tbl.set f.agents k a }

/-- What programming a target does: the fuses and ERR (Table 15.11). -/
def Fuses.programmed (f : Fuses) (target imageSvn : Nat) (data : Bytes) : Fuses × Nat :=
  let k := target % 16
  let a := f.agent k
  if target < 8 then
    if a.valid then (f, 1) else (f.setAgent k { a with hash := data, valid := true }, 0)
  else if target / 16 = 1 ∧ k < 8 then
    if a.admin then (f, 1) else (f.setAgent k { a with admin := true }, 0)
  else if target / 16 = 2 ∧ k < 8 then
    if a.revoked then (f, 1) else (f.setAgent k { a with revoked := true }, 0)
  else if target / 16 = 3 ∧ k < 2 then
    if bit f.fwRevoke k then (f, 1) else ({ f with fwRevoke := setFld f.fwRevoke k 1 1 }, 0)
  else if target = 0x40 then
    if imageSvn < f.svn + 1 then (f, 2) else if 64 ≤ f.svn then (f, 1) else ({ f with svn := f.svn + 1 }, 0)
  else (f, 3)

/-- FUSE_PROG_DONE: the programming ends, BUSY clears and ERR tells its result. -/
def execFuseProgDone (s : State) : Res :=
  match s.sec.prog with
  | none => .next s
  | some p =>
    let r := s.fuses.programmed p.1 (fwSvn s.sec.header) p.2
    .next { s with fuses := r.1, sec := { s.sec with prog := none, err := r.2 } }

end Sys2Proof.Machine
end

