-- ==== Sys2Proof/Machine/Recovery.lean ====
section
/-! DEFINITION. Recovery across devices: entry, views, proposals, the takeover, resume, restart, rebuilding and the
diagnostic replay (13_fault_tolerance R401 to R417, R425; 10_parallel_mapping R323, R331; 07_root_solver R214).
Assumption log: log 73 (DEDUCED). -/

namespace Sys2Proof.Machine

/-! ### EPOCH frames (R401, Table 13.2) -/

/-- The payload of an EPOCH frame. -/
def epochBytes (sub cause origin newEpoch attempt flags mst subject : Nat) (fset : List Nat) : Bytes :=
  leBytes 1 sub ++ leBytes 1 cause ++ leBytes 2 origin ++ leBytes 4 newEpoch ++ leBytes 1 attempt ++ leBytes 1 flags
    ++ leBytes 2 fset.length ++ leBytes 4 0 ++ leBytes 8 mst ++ leBytes 2 subject ++ List.replicate 6 0
    ++ fset.flatMap (leBytes 2)

def epSub (b : Bytes) : Nat := recN b 0 1
def epCause (b : Bytes) : Nat := recN b 1 1
def epOrigin (b : Bytes) : Nat := recN b 2 2
def epNew (b : Bytes) : Nat := recN b 4 4
def epAttempt (b : Bytes) : Nat := recN b 8 1
def epLost (b : Bytes) : Bool := bit (recN b 9 1) 0
def epMst (b : Bytes) : Nat := recN b 16 8
def epSubject (b : Bytes) : Nat := recN b 24 2
def epFailed (b : Bytes) : List Nat := memberList (b.drop 32) (recN b 10 2)

/-- What identifies a frame (R401). -/
def epochKey (job : Nat) (b : Bytes) : List Nat :=
  [job, epSub b, epNew b, epAttempt b, epOrigin b] ++ (if epSub b = 1 then [epSubject b] else [])

/-- A frame put on every UP port but one; a v1 link carries no EPOCH frame (R401, 09 R273). -/
def State.flood (s : State) (p : Nat) (f : Frame) : State :=
  ((List.range 24).filter fun q => q != p && (s.port q).isUp && (s.port q).ver != 1).foldl
    (fun (st : State) q => st.enqueue q { frame := f }) s

/-- An EPOCH frame of this device flooded for the job of a context. -/
def State.floodOwn (s : State) (c dst : Nat) (b : Bytes) : State :=
  let f : Frame := { ty := 8, vc := 0, last := true, dst := dst, src := s.fab.devid, job := s.jobTag c
                     epoch := s.jobEpoch c, payload := b }
  let s1 : State := { s with fab := { s.fab with seen := epochKey f.job b :: s.fab.seen } }
  s1.flood 24 f.seal

/-- A frame that names no device in DST: the spec gives its DST no value, and a free one stands there. -/
def State.floodAll (s : State) (c : Nat) (b : Bytes) : State :=
  let d := s.draw
  d.2.floodOwn c (d.1 % 65536) b

/-- The recovery of a context's job replaced. -/
def State.setRecov (s : State) (c : Nat) (r : Recov) : State := s.setCtx c { s.ctx c with recov := r }

/-- A RECOVERY record (17 Table 17.3), written at each change of PHASE and at each attempt. -/
def State.traceRecovery (s : State) (c newEpoch : Nat) : State :=
  let r := (s.ctx c).recov
  s.traceUnit 7 [c] 0x500 (s.ctx c).mstone
    (leBytes 1 r.phase ++ leBytes 1 r.cause ++ leBytes 1 r.attempt ++ [0] ++ leBytes 4 newEpoch)

/-! ### Entry and attempts (R402, R403, R406) -/

/-- A FAIL of this device flooded. -/
def State.floodFail (s : State) (c cause subject : Nat) : State :=
  let r := (s.ctx c).recov
  let self := s.fab.devid
  let s1 := s.setRecov c { r with fails := r.fails ++ [(r.attempt, cause, self, subject)] }
  s1.floodAll c (epochBytes 1 cause self (s.jobEpoch c + 1) r.attempt 0 0 subject [])

/-- ALIVE flooded at the start of an attempt (R403). -/
def State.floodAlive (s : State) (c : Nat) : State :=
  s.floodAll c (epochBytes 2 0 s.fab.devid (s.jobEpoch c + 1) (s.ctx c).recov.attempt 0 (s.ctx c).mstone 0 [])

/-- What AON_REC_CTL holds is in force from an attempt on (R421; DEDUCED, log 116). -/
def State.takeRecCtl (s : State) : State := { s with aon := { s.aon with recRun := s.aon.recCtl } }

/-- The device enters recovery for the job: its queues are held, and REC_ENTER counts (R402); the first attempt
begins. -/
def State.enterRecovery (s : State) (c cause : Nat) : State :=
  let x := s.ctx c
  let r : Recov := { x.recov with phase := 1, cause := cause, attempt := 0, view := none, proposal := none, accepts := []
                                  fset := [], fails := [] }
  (s.takeRecCtl.setCtx c { x with held := true, recov := r }).ev 0x0A9 0 [c]

/-- The next attempt: F is carried over, and the recovery starts again from ALIVE (R406). -/
def State.newAttempt (s : State) (c : Nat) : State :=
  let r := (s.ctx c).recov
  let y : Recov := { r with phase := 1, attempt := r.attempt + 1, view := none, proposal := none, accepts := [] }
  (((s.takeRecCtl.setRecov c y).ev 0x0AA 0 [c]).traceRecovery c (s.jobEpoch c + 1)).floodAlive c

/-- A device in recovery may enter one: its job runs, or is held. -/
def Recov.mayEnter (r : Recov) : Bool := r.phase == 0 || r.phase == 3

/-- RECOVERY_ENTER: the device enters recovery for the first cause that has been raised (R402). In a recovery, a
suspect peer is reported in a FAIL, and one of the view begins the next attempt (R406); another cause adds nothing to
the discard of the step. -/
def execRecoveryEnter (c : Nat) (s : State) : Res :=
  let x := s.ctx c
  match x.recov.raised with
  | [] => .next s
  | k :: rest =>
    let s0 := s.setRecov c { x.recov with raised := rest.filter (· != k) }
    if (s.smap c).isNone then .next s0
    else if x.recov.mayEnter then
      let s1 := (s0.enterRecovery c k.1).floodFail c k.1 (if k.1 = 1 then k.2 else s.fab.devid)
      .next ((s1.traceRecovery c (s1.jobEpoch c + 1)).floodAlive c)
    else if (x.recov.phase = 1 ∨ x.recov.phase = 2) ∧ k.1 = 1 then
      let s1 := s0.floodFail c 1 k.2
      .next (if (x.recov.view.getD []).contains k.2 then s1.newAttempt c else s1)
    else .next s0

/-! ### The failed set and the lead (R403, R404) -/

/-- The devices of group 0, each once. -/
def State.jobDevices (s : State) (c : Nat) : List Nat :=
  match s.group c 0 with
  | some g => g.members.eraseDups
  | none => [s.fab.devid]

/-- The view of an attempt: this device and the devices of group 0 whose ALIVE of the attempt has come. -/
def State.formView (s : State) (c : Nat) : List Nat :=
  let r := (s.ctx c).recov
  (s.jobDevices c).filter fun d => d == s.fab.devid || r.alive.any fun a => a.1 == r.attempt && a.2.1 == d

/-- F: the carried devices, the subjects of FAILs of cause 0x1, and the devices of group 0 missing from the view, in
ascending order. -/
def State.formF (s : State) (c : Nat) (view : List Nat) : List Nat :=
  let r := (s.ctx c).recov
  let subj := (r.fails.filter fun f => f.2.1 == 1).map (·.2.2.2)
  let gone := (s.jobDevices c).filter fun d => !view.contains d
  sortBy (fun a b => decide (a ≤ b)) (r.fset ++ subj ++ gone).eraseDups

/-- A domain, by a rank of it, is affected: it holds a device of F, or the ORIGIN of a FAIL of the attempt when F is
empty. -/
def State.affected (s : State) (c : Nat) (m : SMap) (fset : List Nat) (r : Nat) : Bool :=
  let rc := (s.ctx c).recov
  let origins := (rc.fails.filter fun f => f.1 == rc.attempt).map (·.2.2.1)
  (m.domain r).any fun k => if fset.isEmpty then origins.contains (m.devOf k) else fset.contains (m.devOf k)

/-- The coordinator of the domain of a rank: its lowest-ranked device in the view that is not in F. -/
def SMap.coordinator (m : SMap) (view fset : List Nat) (r : Nat) : Option Nat :=
  (m.domain r).find? fun k => view.contains (m.devOf k) && !fset.contains (m.devOf k)

/-- The rank of the lead: the lowest among the coordinators of the affected domains. -/
def State.leadRank (s : State) (c : Nat) (m : SMap) (view fset : List Nat) : Option Nat :=
  let cs := (List.range m.dcount).filterMap fun r =>
    if s.affected c m fset r then m.coordinator view fset r else none
  if cs.isEmpty then none else some (minOf cs)

/-- The survivor that would stand in for a device of F is not its mirror, or is not there (R404). -/
def State.noMirror (s : State) (c : Nat) (m : SMap) (fset : List Nat) (d : Nat) : Bool :=
  match m.rankOf d with
  | none => true
  | some r =>
    let l := (m.domain r).filter fun k => m.devOf k == d || !(s.ctx c).failed.contains (m.devOf k)
    let i := (indexOf? r l).getD 0
    let mirror := l[(i + 1) % l.length]?
    match nextAlive (l.map m.devOf) fset l.length (i + 1) with
    | none => true
    | some e => l.length < 2 || mirror.map m.devOf != some e

/-- A device of F owned a fragment that its stand-in does not hold (R404). -/
def State.losesFragment (s : State) (c : Nat) (m : SMap) (fset : List Nat) (d : Nat) : Bool :=
  match m.rankOf d with
  | none => true
  | some r =>
    let l := m.domain r
    let e := (nextAlive (l.map m.devOf) (fset ++ (s.ctx c).failed) l.length ((indexOf? r l).getD 0 + 1)).getD d
    let k := (m.rankOf e).getD r
    m.tens.any fun t => match s.tensor c (tenTid t) with
      | none => false
      | some x => (s.ownedNow c m x t d).any fun f => !s.rankHolds c m x t k f

/-- Two devices lie on one ring of the torus: they share their coordinates in two dimensions. -/
def oneRing (a b : Nat) : Bool :=
  decide (2 ≤ ((List.range 3).filter fun d => devCoord a d == devCoord b d).length)

/-- LOST (R404). -/
def State.lost (s : State) (c : Nat) (m : SMap) (fset : List Nat) (n : Nat) : Bool :=
  let x := s.ctx c
  let switch := x.switchStep == some n || (x.switchAt == n && n != 0)
  fset.any (fun d => s.noMirror c m fset d || s.losesFragment c m fset d)
    || fset.any (fun a => fset.any fun b => a != b && oneRing a b)
    || decide (2048 < fset.length) || (!fset.isEmpty && switch) || x.recov.attempt == 15

/-! ### Takeover (R407, R408) -/

/-- In-flight instructions of a context end at its takeover: status words that are ready are written; their signals
and flags are gone with the counters and flags that R412 clears (DEDUCED, log 80). -/
def State.endFlights (s : State) (c : Nat) : State :=
  let mine := s.flight.filter fun f => f.ctx == c
  let s1 := mine.foldl (fun (st : State) f => match f.statusAt with
    | some a => if f.work == .done && st.residentAt c f.vt then st.storeWrite (st.physD c f.vt) 6 a (leBytes 8 f.status)
        else st
    | none => st) s
  State.settleRegions { s1 with
    flight := s1.flight.filter fun f => f.ctx != c
    sigs := s1.sigs.filter fun y => y.ctx != c
    remotes := s1.remotes.filter fun r => !(r.ctx == c && r.key.head? == some 0) }

/-- The send and credit counts recorded at the last Milestone restored (10 R323). -/
def State.restoreEndpoints (s : State) (c : Nat) : State :=
  { s with fab := { s.fab with endpoints := s.fab.endpoints.mapv fun _ e =>
      if e.valid && e.ctx == c then { e with sends := e.sendsAt, credits := e.creditsAt, stalled := false } else e } }

/-- Pending roots whose home has failed are cleared and leave the install list, those among them that the member has not
taken yet (07 R214). -/
def State.dropRoots (s : State) (c : Nat) (fset : List Nat) : State :=
  let mine := s.installs.filter fun x => x.ctx == c && fset.contains x.home
  let s1 := mine.foldl (fun (st : State) x =>
    let h := st.peekD c x.addr 64
    st.ctxWrite c x.addr (putRec h 16 1 (setFld (recN h 16 1) 0 1 0))) s
  let lost (x : Control) : Bool := x.ctx == c && x.kind == ctlRoot && x.key.head? == some 1
    && fset.contains ((x.key[5]?).getD 0)
  { s1 with installs := s1.installs.filter fun x => !(x.ctx == c && fset.contains x.home)
            fab := { s1.fab with controls := s1.fab.controls.filter fun x => !lost x } }

/-- Step `n` discarded (R407 (3); 08 R244, 06 R180, 10 R323, 07 R214, 11 R358, 10 R331). -/
def State.discardStep (s : State) (c n : Nat) (fset : List Nat) : State :=
  let s1 := ((((s.endFlights c).discardUpdates c n).discardTaps c).restoreEndpoints c).dropRoots c fset
  let x := s1.ctx c
  let r := x.recov
  let y : Recov := { r with unfixed := r.unfixed.filter fun k => decide (k < n)
                            inputs := r.inputs.filter fun e => decide (e.1 < n) }
  let s2 := s1.setCtx c { x with permutes := 0, recov := y
                                 heldScales := x.heldScales.filter fun k => decide (k.step < n) }
  let s3 := s2.settlePages c
  if (s3.ctx c).bundle.step = some n then s3.beginReplacement c n else s3

/-- The takeover on COMMIT: Milestone n is completed where it is not, the epoch is entered, step n is discarded,
and the job is held with its queues reset, or, when COMMIT carries LOST, halted after these three (R407, R412, R413). -/
def State.takeover (s : State) (c : Nat) (b : Bytes) (scales : List (Nat × List (Nat × Nat))) : State :=
  let n := epMst b
  let fset := epFailed b
  let s1 := if (s.ctx c).mstone + 1 = n then s.completeMilestone c scales else s
  let s2 := s1.enterEpoch c (epNew b)
  let x := s2.ctx c
  let all := sortBy (fun a d => decide (a ≤ d)) (x.failed ++ fset).eraseDups
  let lead := match s2.smap c with
    | some m => (m.rankOf (epOrigin b)).getD 0xFFFF
    | none => 0xFFFF
  let r : Recov := { x.recov with phase := if epLost b then 4 else 3, attempt := epAttempt b, lead := lead
                                  raised := x.recov.raised.filter fun k => k.1 == 1 && !all.contains k.2
                                  fails := [], alive := [], view := none, fset := [], proposal := none, accepts := []
                                  attempts := x.recov.attempts + 1 }
  let s3 := (s2.setCtx c { x with held := true, recov := r, job := x.job.map fun j => { j with failed := all } }).discardStep
    c n fset
  if epLost b then
    (((s3.traceRecovery c (epNew b)).ev 0x0AB 0 [c]).ctxEvent c 5 (leBytes 4 (epNew b) ++ leBytes 8 n)).retryHeld
  else
    let s5 := ((s3.resetQueues c n).traceRecovery c (epNew b)).retile c
    if s5.aon.failed then s5
    else (s5.ctxEvent c 4 (leBytes 4 (epNew b) ++ leBytes 8 n ++ leBytes 2 all.length)).retryHeld

/-! ### Proposals (R404, R405) -/

/-- A COMMIT: a device named in FAILED declares itself failed; every other takes over (R405, R407). -/
def State.takeCommit (s : State) (c : Nat) (b : Bytes) (scales : List (Nat × List (Nat × Nat))) : State :=
  if (epFailed b).contains s.fab.devid then s.declareFailed else s.takeover c b scales

/-- The lead floods COMMIT once every device of group 0 that is not in F has accepted its proposal (R405). -/
def State.tryCommit (s : State) (c : Nat) (scales : List (Nat × List (Nat × Nat))) : State :=
  let r := (s.ctx c).recov
  match r.proposal with
  | none => s
  | some p =>
    let f := epFailed p.2
    if epOrigin p.2 ≠ s.fab.devid ∨ (r.phase ≠ 1 ∧ r.phase ≠ 2)
        ∨ !(s.jobDevices c).all fun d => f.contains d || r.accepts.contains d then s
    else
      let b := putRec p.2 0 1 5
      (s.floodAll c b).takeCommit c b scales

/-- The lead's own proposal: F, the highest MST, and LOST (R404). -/
def State.propose (s : State) (c : Nat) (m : SMap) (rank : Nat) (fset : List Nat) : State :=
  let r := (s.ctx c).recov
  let n := (r.alive.map (·.2.2)).foldl max (s.ctx c).mstone
  let b := epochBytes 3 0 s.fab.devid (s.jobEpoch c + 1) r.attempt (b2n (s.lost c m fset n)) n 0 (fset.take 2048)
  let mine := match r.proposal with
    | some p => decide (rank ≤ p.1)
    | none => true
  let s1 := if mine then s.setRecov c { r with proposal := some (rank, b), accepts := [s.fab.devid] } else s
  (s1.floodAll c b).tryCommit c []

/-- ALIVE_WINDOW_EXPIRE: the device forms its view and F, and the lead floods PROPOSE (R403, R404). -/
def execAliveWindowExpire (c : Nat) (s : State) : Res :=
  let r := (s.ctx c).recov
  match s.smap c with
  | none => .next s
  | some m =>
    if r.phase ≠ 1 then .next s
    else
      let view := s.formView c
      let fset := s.formF c view
      let s1 := (s.setRecov c { r with phase := 2, view := some view, fset := fset }).traceRecovery c (s.jobEpoch c + 1)
      match s1.leadRank c m view fset with
      | none => .next s1
      | some k => if m.rankOf s1.fab.devid = some k then .next (s1.propose c m k fset) else .next s1

/-- ATTEMPT_TIMEOUT: no COMMIT has come since the view was formed (R406). -/
def execAttemptTimeout (c : Nat) (s : State) : Res :=
  if (s.ctx c).recov.phase = 2 then .next (s.newAttempt c) else .next s

/-! ### Reception (R401, R402, R405) -/

/-- A FAIL: noted, and a device that is not in recovery enters it (R402). -/
def State.takeFail (s : State) (c : Nat) (f : Frame) : State :=
  let b := f.payload
  if f.epoch ≠ s.jobEpoch c then s
  else
    let fresh := (s.ctx c).recov.mayEnter
    let s1 := if fresh then s.enterRecovery c (epCause b) else s
    let r := (s1.ctx c).recov
    if r.phase ≠ 1 ∧ r.phase ≠ 2 then s1
    else
      let s2 := s1.setRecov c { r with fails := r.fails ++ [(epAttempt b, epCause b, epOrigin b, epSubject b)] }
      if fresh then (s2.traceRecovery c (s2.jobEpoch c + 1)).floodAlive c else s2

/-- A PROPOSE of this attempt: the proposal of the lowest-ranked lead heard is accepted, by a frame whose DST is the
lead; a lead that hears a lower-ranked one stands down (R405). -/
def State.takePropose (s : State) (c : Nat) (b : Bytes) : State :=
  let r := (s.ctx c).recov
  let rank := match s.smap c with
    | some m => (m.rankOf (epOrigin b)).getD 0xFFFF
    | none => 0xFFFF
  let lower := match r.proposal with
    | some p => decide (rank < p.1)
    | none => true
  if (epFailed b).contains s.fab.devid then s.declareFailed
  else if (r.phase ≠ 1 ∧ r.phase ≠ 2) ∨ epAttempt b ≠ r.attempt ∨ !lower then s
  else
    (s.setRecov c { r with proposal := some (rank, b), accepts := [] }).floodOwn c (epOrigin b)
      (epochBytes 4 0 s.fab.devid (epNew b) r.attempt 0 0 0 [])

/-- An ACCEPT of the lead's own proposal. -/
def State.takeAccept (s : State) (c : Nat) (f : Frame) (scales : List (Nat × List (Nat × Nat))) : State :=
  let r := (s.ctx c).recov
  let b := f.payload
  if f.dst ≠ s.fab.devid ∨ epAttempt b ≠ r.attempt then s
  else (s.setRecov c { r with accepts := epOrigin b :: r.accepts }).tryCommit c scales

/-- What the recovery agent does with an EPOCH frame of a job (R401). A job that is halted or failed takes none. -/
def State.epochFrame (s : State) (c : Nat) (f : Frame) (scales : List (Nat × List (Nat × Nat))) : State :=
  let b := f.payload
  let r := (s.ctx c).recov
  if r.phase = 4 ∨ r.phase = 5 then s
  else match epSub b with
    | 1 => s.takeFail c f
    | 2 => if epNew b = s.jobEpoch c + 1 then
        s.setRecov c { r with alive := r.alive ++ [(epAttempt b, epOrigin b, epMst b)] } else s
    | 3 => if epNew b = s.jobEpoch c + 1 then s.takePropose c b else s
    | 4 => if epNew b = s.jobEpoch c + 1 then s.takeAccept c f scales else s
    | 5 => if epNew b = s.jobEpoch c + 1 then s.takeCommit c b scales else s
    | _ => s

/-- EPOCH_RX: an EPOCH frame not seen before is flooded onwards and handed to the recovery agent of its job (R401).
`scales` serves the Milestone that a takeover may complete, as in MILESTONE_COMPLETE. -/
def execEpochRx (p : Nat) (f : Frame) (scales : List (Nat × List (Nat × Nat))) (s : State) : Res :=
  if !ofType f 8 then .next s
  else
    let r := s.linkRx p f
    let x := r.1.port p
    if !r.2 then .next r.1
    else if !frameOk x f then .next (r.1.dropFrame p f)
    else
      let key := epochKey f.job f.payload
      let s1 := r.1.freeFrame p f
      if s1.fab.seen.contains key then .next s1
      else
        let s2 := State.flood { s1 with fab := { s1.fab with seen := key :: s1.fab.seen } } p f
        match s2.ctxOfJob f.job with
        | none => .next s2
        | some c => .next ((s2.checkE2e [c] p f).epochFrame c f scales)

/-! ### Held jobs (R412 to R414) -/

/-- A held job whose discarded step was a Switchback step takes the map at FAB_SWITCH_ADDRc, which carries the new
epoch: the old map again, or the new one with a fresh Switchback step (10 R331; log 81). -/
def State.reswitch (s : State) (c : Nat) : State :=
  let x := s.ctx c
  if x.switchStep ≠ some x.mstone then s
  else
    let a := x.switchAddr.toNat
    let code := s.checkMap c a (s.jobEpoch c) fun _ => false
    if code ≠ 0 then s.setCtx c { x with smapCode := code }
    else
      let s1 := s.installMap c a
      let y := s1.ctx c
      let fresh := match s1.smap c with
        | some m => m.switch
        | none => false
      let s2 := s1.setCtx c { y with switchStep := if fresh then some x.mstone else none, permutes := 0 }
      if fresh && s2.permutesDue c = 0 then s2.switchWritten c x.mstone else s2

/-- RESUME: the held queues of a job, or of a context without one, start at their PCs (R412, R399). It is ignored
while nothing is held, and in a halted job (R413). -/
def execResume (c : Nat) (s : State) : Res :=
  let x := s.ctx c
  if !x.on || !x.held || !(s.fencedOf c).isEmpty then .next s
  else if x.job.isSome then
    if x.recov.phase ≠ 3 then .next s
    else
      let s0 := s.reswitch c
      let y := s0.ctx c
      if y.smapCode ≠ 0 ∧ y.switchStep = some y.mstone then .next s0
      else
        let s1 := s0.setCtx c { y with held := false, recov := { y.recov with phase := 0 } }
        .next (((s1.traceRecovery c (s1.jobEpoch c)).startQueues c 15 true).retryHeld)
  else .next ((s.setCtx c { x with held := false }).startQueues c 15 true)

/-- RESTART: a context that waits with JOIN = 1 installs the map at SMAP, which carries the epoch after its own, and
holds the job with step number MSTART; a refused map leaves it waiting (R414). -/
def execRestart (c : Nat) (s : State) : Res :=
  let x := s.ctx c
  match x.job with
  | none => .next s
  | some j =>
    if !x.on || !x.join || j.map.isSome then .next s
    else
      let code := s.checkMap c x.smap (j.epoch + 1) fun _ => false
      if code ≠ 0 then .next (s.setCtx c { x with smapCode := code })
      else
        let s1 := s.installMap c x.smap
        let y := s1.ctx c
        let s2 := s1.setCtx c { y with held := true, recov := { y.recov with phase := 3 } }
        .next (((s2.resetQueues c j.mstone).retile c).retryHeld)

/-- REPLAY: a replay-only recovery with cause HOST is raised, while PHASE is 0 (R425). -/
def execReplay (c : Nat) (s : State) : Res :=
  let x := s.ctx c
  if !x.on || x.recov.phase != 0 then .next s else .next (s.raise c 6 s.fab.devid)

/-! ### Rebuilding mirrors (R410) -/

/-- One owed copy sent: the CURRENT master and working copies of a fragment. -/
def State.sendCopy (s : State) (c : Nat) (q : Nat × Nat × Nat) : State :=
  match s.tensor c q.2.1 with
  | none => s
  | some x => match s.localOrd c x q.2.2 with
    | none => s
    | some o =>
      let k := x.cur (s.ctx c).mstone
      let data := s.peekD c (x.maddr k + 16384 * o) 16384 ++ s.peekD c (x.waddr k + x.wbytes * o) x.wbytes
      (s.meetCodes c [(x.maddr k + 16384 * o, 16384), (x.waddr k + x.wbytes * o, x.wbytes)]).sendFrame
                  { ty := 3, vc := 3, dst := q.1, job := s.jobTag c, epoch := s.jobEpoch c, last := true
                    msg := some (.mirror 1 [x.tid, q.2.2] data) }

/-- MIRROR_REBUILD: an owner copies the fragments chosen at the last Milestone to their mirror (R410). -/
def execMirrorRebuild (c : Nat) (s : State) : Res :=
  let x := s.ctx c
  match x.job with
  | none => .next s
  | some j =>
    let s1 := s.setCtx c { x with job := some { j with copies := [] } }
    .next (j.copies.foldl (fun (st : State) q => st.sendCopy c q) s1)

/-! ### The diagnostic replay (R417) -/

/-- DIAGNOSTIC_REPLAY: a device that is about to arrive under a diagnostic forms WDIGEST and raises cause 0x7. -/
def execDiagnosticReplay (c : Nat) (s : State) : Res :=
  let x := s.ctx c
  if s.mayArrive c && x.diagArmed && x.recov.diagDigest.isNone then
    let r := x.recov
    .next (((s.meetCodes c (s.writtenReads c)).setRecov c { r with diagDigest := some (s.writtenDigest c) }).raise c 7
      s.fab.devid)
  else .next s

end Sys2Proof.Machine
end

