-- ==== Sys2Proof/Machine/Host.lean ====
section
/-! DEFINITION. The host port: its link and addresses, LLDP, agents and their requests (14_host_port R429 to R442,
R446 to R450). The requests of contexts, configuration and firmware stand with their chapters.
Assumption log: log 90 (DEDUCED). -/

namespace Sys2Proof.Machine

/-! ### Link, addresses and discovery (R429 to R432) -/

/-- The mode codes that auto-negotiation may resolve to (R429). -/
def anModes : List Nat := [1, 2, 4, 5]

/-- HOST_LINK_UP: the link comes up in a mode, the resolved one under AN; the start ends, and PORT becomes LISTEN
(R429, 15 Table 15.1). DEDUCED, log 100. -/
def execHostLinkUp (speed : Nat) (s : State) : Res :=
  let h := s.host
  let mode := if h.runMode = 0 then speed else h.runMode
  if !s.clocked || h.en.st == .off || !h.pll || h.link || (h.runMode == 0 && !anModes.contains speed) then .next s
  else
    .next { s with
      host := { h with link := true, speed := mode, en := h.en.started }
      sec := { s.sec with stage := if s.sec.stage = 3 then 4 else s.sec.stage } }

/-- HOST_LINK_DOWN: the link is lost; sessions and QPs persist (R450). -/
def execHostLinkDown (s : State) : Res := .next { s with host := { s.host with link := false, speed := 0 } }

/-- The link-local address: fe80::/64 with the modified EUI-64 identifier of the MAC address (R431). -/
def Fuses.linkLocal (f : Fuses) : Nat :=
  let m := f.mac % 2 ^ 48
  0xFE80 * 2 ^ 112 + ((m / 2 ^ 24) ^^^ 0x020000) * 2 ^ 40 + 0xFFFE * 2 ^ 24 + m % 2 ^ 24

/-- HOST_IP_LO_WRITE: the static address is applied, after duplicate address detection (R431, R448).
DEDUCED, log 100. -/
def execHostIpLoWrite (v : W64) (s : State) : Res :=
  let a := s.host.ipHi.toNat * 2 ^ 64 + v.toNat
  .next { s with host := { s.host with ipLo := v, addr := none, dadFail := false,
                                       tentative := if a = 0 then none else some a } }

/-- DUPLICATE_ADDRESS_DETECTION_END: the tentative address is taken, or found to be a duplicate (R431). -/
def execDuplicateAddressDetectionEnd (dup : Bool) (s : State) : Res :=
  match s.host.tentative with
  | none => .next s
  | some a => .next { s with host := { s.host with tentative := none, dadFail := dup, addr := if dup then none else some a } }

/-- The address is one of the part's. -/
def State.ownsAddr (s : State) (a : Nat) : Bool := a == s.fuses.linkLocal || s.host.addr == some a

/-- NEIGHBOUR_SOLICITATION: one for an address of the part is answered (R431). -/
def execNeighbourSolicitation (a : Nat) (s : State) : Res :=
  .next (if s.host.link && s.ownsAddr a then s.emit (.advert a) else s)

/-- ECHO_REQUEST: an ICMPv6 echo request to an address of the part is answered (R431). -/
def execEchoRequest (a : Nat) (data : Bytes) (s : State) : Res :=
  .next (if s.host.link && s.ownsAddr a then s.emit (.echoReply a data) else s)

/-- PFC_FRAME: transmission on a priority is paused, or resumed by a pause of 0, which lets the waiting RoCEv2 packets
go; the port heeds its one priority (R430). A pause that runs out comes as a pause of 0. DESIGN CHOICE, log 78. -/
def execPfcFrame (prio quanta : Nat) (s : State) : Res :=
  let p := s.host.runPfc
  .next (if s.host.link && bit p 3 && fld p 0 3 == prio then
    if quanta = 0 then
      let s1 : State := { s with host := { s.host with paused := false, heldTx := [] } }
      s.host.heldTx.foldl (fun st x => st.emit (.rdma x)) s1
    else { s with host := { s.host with paused := true } }
  else s)

/-- One TLV of IEEE 802.1AB: a type of 7 bits, a length of 9 bits and the contents. -/
def tlv (ty : Nat) (data : Bytes) : Bytes := beBytes 2 (ty * 512 + data.length) ++ data

/-- The LLDPDU (Table 14.2). The interface that the management address TLV names has no rule: its numbering subtype
and number are free (log 91). -/
def State.lldpdu (s : State) : Bytes :=
  let mac := beBytes 6 s.fuses.mac
  let free := (List.range 5).map fun i => Config.freeByte s.free i
  let slots := ((List.range 8).filter fun a => (s.slot a).st == 0).length
  tlv 1 (leBytes 1 4 ++ mac) ++ tlv 2 (leBytes 1 3 ++ mac) ++ tlv 3 (beBytes 2 120) ++ tlv 5 (ascii "CWN-S1")
    ++ tlv 8 (leBytes 1 17 ++ leBytes 1 2 ++ beBytes 16 s.fuses.linkLocal ++ free ++ leBytes 1 0)
    ++ tlv 127 (beBytes 3 0xDA5C17 ++ leBytes 1 1 ++ leBytes 2 s.fab.devid ++ leBytes 1 0x11
      ++ leBytes 1 (b2n (s.sec.stage == 9)) ++ leBytes 1 slots)
    ++ tlv 0 []

/-- LLDP_SEND: an LLDPDU, every 30 s or after a change of the device TLV, while the link is up, not in INIT (R432, 15
R452). -/
def execLldpSend (s : State) : Res :=
  .next (if s.ncpServed then State.emit { s with free := s.free + 1 } (.lldp s.lldpdu) else s)

/-! ### Attaching and detaching (R437, R438) -/

/-- The payload of the response to an accepted ATTACH. -/
def attachBody (slot session : Nat) (cipher nonce : Bytes) : Bytes :=
  leBytes 1 1 ++ leBytes 1 slot ++ leBytes 4 session ++ cipher ++ nonce

/-- The response to an ATTACH carries a tag of zeros (R434). -/
def State.attachReply (s : State) (m : Ncp) (slot session status : Nat) (payload : Bytes) : State :=
  s.emit (.reply m.src slot session { ty := 1, tag := 0, status := status, ctx := 0, payload := payload }
    (List.replicate 32 0))

/-- The header of an ATTACH is right: slot 0xFF, session 0, tag 0, a tag of zeros (Table 14.3, R434). -/
def attachOk (m : Ncp) : Bool :=
  m.ver == 1 && m.flags == 0 && m.slot == 0xFF && m.session == 0 && m.tag == 0 && m.status == 0 && m.ctx == 0
    && m.mac == List.replicate 32 0 && m.payload.length == 4194

/-- ATTACH takes the lowest free slot and makes it pending (R437). The session id, the nonce and the secret are the
device's own random values. -/
def State.attach (s : State) (m : Ncp) (a : Nat) : State :=
  let d := s.draw
  let session := d.1 % 2 ^ 32
  let n := d.2.freeBytes 32
  let enc := sliceB m.payload 2594 1568
  let k := n.2.free
  let body := attachBody a session (sliceB (Config.mlkemCipher enc k) 0 1568) n.1
  let x := sha3_512 (m.payload ++ body)
  let y : AgentSlot := { st := 1, session := session, transcript := x, agentKey := sliceB m.payload 2 2592, src := m.src
                         key := (sha3_512 (Config.mlkemSecret enc k ++ x)).take 32 }
  ((State.setSlot { n.2 with free := k + 1 } a y)).attachReply m a session 0 body

/-- ATTACH (R436, R437). -/
def execAttach (m : Ncp) (s : State) : Res :=
  if !s.ncpServed then .next s
  else
    let s0 := s.wakeDeep
    if !attachOk m then .next (s0.attachReply m 0xFF 0 4 [])
    else if 1 < recN m.payload 0 1 ∨ recN m.payload 1 1 < 1 then .next (s0.attachReply m 0xFF 0 5 [])
    else match (List.range 8).find? fun a => (s0.slot a).st == 0 with
    | none => .next (s0.attachReply m 0xFF 0 6 [])
    | some a => .next (s0.attach m a)

/-- The entry of the agent-key table that accepts a key: VALID, not REVOKED and of its hash (15 R460). -/
def Fuses.accepts (f : Fuses) (key : Bytes) : Option AgentFuse :=
  ((List.range 8).map f.agent).find? fun a => a.valid && !a.revoked && a.hash == sha3_512 key

/-- A message that was authenticated, outside the window of tags: AUTH (R435, R437). -/
def State.auth (s : State) (m : Ncp) : State :=
  let x := s.slot m.slot
  let say (st : State) (status : Nat) : State := st.answer m.slot { ty := 2, tag := 0, status := status, ctx := m.ctx, payload := [] }
  if s.romServes then say s 0x0A
  else if m.ver ≠ 1 ∨ m.flags ≠ 0 ∨ m.status ≠ 0 ∨ 64 ≤ m.ctx ∨ m.tag ≠ 0 ∨ m.payload.length ≠ 4627 then say s 4
  else if x.st ≠ 1 then say s 3
  else
    let ok := Config.mldsaVerify x.agentKey (ascii "ngutas-agent-v1") x.transcript m.payload
    match s.fuses.accepts x.agentKey with
    | some f => if ok then say (s.setSlot m.slot { x with st := 2, admin := f.admin }) 0
                else (say s 7).freeSlot m.slot
    | none => (say s 7).freeSlot m.slot

/-- AUTH (R437). -/
def execAuth (m : Ncp) (s : State) : Res :=
  if !s.ncpServed then .next s
  else if !s.authentic 2 m then .next s.authDiscard
  else .next (s.wakeDeep.auth m)

/-- DETACH: the slot is freed once it is answered (R438). -/
def execDetach (m : Ncp) (s : State) : Res :=
  .next (s.ncp 0x03 m .session (m.payload.length == 0) fun st =>
    .later ((st.answer m.slot { ty := 3, tag := m.tag, status := 0, ctx := m.ctx, payload := [] }).freeSlot m.slot))

/-- KEEPALIVE: shows that the agent is there (R438). -/
def execKeepalive (m : Ncp) (s : State) : Res :=
  .next (s.ncp 0x04 m .attached (m.payload.length == 0) fun st => .done st 0 [])

/-- AGENT_TIMEOUT: a slot that is not free has been silent, or pending, for 2^AGT_EXP slow cycles and is freed (R437,
R438). -/
def execAgentTimeout (a : Nat) (s : State) : Res :=
  .next (if a < 8 ∧ (s.slot a).st ≠ 0 then s.freeSlot a else s)

/-! ### Contexts, doorbells and watches (R438, R440, R441) -/

/-- CTX_CLAIM: an unowned context gets an owner, which receives its held events in order; one that another slot owns
is not claimed (log 94). -/
def execCtxClaim (m : Ncp) (s : State) : Res :=
  .next (s.ncp 0x23 m .adminCtx (m.payload.length == 0) fun st =>
    let x := st.ctx m.ctx
    if x.owner.isSome && x.owner != some m.slot then .done st 3 []
    else
      let mine := st.host.unowned.filter fun e => e.2.1 == m.ctx
      let s1 := st.setCtx m.ctx { x with owner := some m.slot }
      let s2 : State := { s1 with host := { s1.host with unowned := s1.host.unowned.filter fun e => e.2.1 != m.ctx } }
      .done (mine.foldl (fun (q : State) e => q.slotEvent m.slot e.1 m.ctx e.2.2) s2) 0 [])

/-- START: each marked queue that is idle starts on every tile of the context (R440). -/
def execStart (m : Ncp) (s : State) : Res :=
  .next (s.ncp 0x24 m .owner (m.payload.length == 1) fun st =>
    let mask := recN m.payload 0 1
    if 16 ≤ mask then .done st 4 [] else .done (st.startQueues m.ctx mask false) 0 [])

/-- A doorbell applied to a virtual tile whose context is resident on its tile, or held (R441). -/
def State.ring (s : State) (c v sig n : Nat) : State × Nat :=
  let x := s.ctx c
  let t := s.physD c v
  if s.residentAt c v then
    let s1 := s.wakeTile t
    let passed := decide (sigMax < (s1.tc c v).sig sig + n)
    (s1.applySig { ctx := c, srcVt := 0, srcQ := 4, dstVt := v, sig := sig, amount := n }, if passed then 0x0D else 0)
  else (s.setCtx c { x with doorbells := x.doorbells ++ [(v, sig, n)] }, 0)

/-- DOORBELL: a signal counter of a virtual tile grows (R441). -/
def execDoorbell (m : Ncp) (s : State) : Res :=
  .next (s.ncp 0x25 m .owner (m.payload.length == 4) fun st =>
    let v := recN m.payload 0 1
    let sig := recN m.payload 1 1
    let n := recN m.payload 2 2
    if 32 ≤ sig ∨ n = 0 then .done st 4 []
    else if (st.ctx m.ctx).map.length ≤ v then .done st 9 []
    else
      let r := st.ring m.ctx v sig n
      .done r.1 r.2 [])

/-- WATCH: a watch is armed, and tested at once where its context is resident, or disarmed by a COUNT of 0 (R441). -/
def execWatch (m : Ncp) (s : State) : Res :=
  .next (s.ncp 0x26 m .owner (m.payload.length == 6) fun st =>
    let i := recN m.payload 0 1
    let v := recN m.payload 1 1
    let sig := recN m.payload 2 1
    let fl := recN m.payload 3 1
    let n := recN m.payload 4 2
    let x := st.ctx m.ctx
    if 16 ≤ i ∨ 32 ≤ sig ∨ 2 ≤ fl then .done st 4 []
    else if x.map.length ≤ v then .done st 9 []
    else
      let w : Watch := { armed := n != 0, slot := m.slot, vt := v, sig := sig, repeats := fl == 1, count := n }
      let s1 := st.setCtx m.ctx { x with watches := Tbl.set x.watches i w }
      .done (s1.testWatches m.ctx) 0 [])

/-! ### Events (R442) -/

/-- EVENT_ACK: events up to a number are acknowledged. -/
def execEventAck (m : Ncp) (s : State) : Res :=
  .next (s.ncp 0x41 m .attached (m.payload.length == 4) fun st =>
    let n := recN m.payload 0 4
    let x := st.slot m.slot
    .done (st.setSlot m.slot { x with events := x.events.filter fun e => decide (n < e.num) }) 0 [])

/-- EVENT_RESEND: every event of a slot that is not acknowledged is sent again with its number. -/
def execEventResend (a : Nat) (s : State) : Res :=
  let l := (s.slot a).events
  if !s.ncpServed || l.isEmpty then .next s
  else
    let s1 := l.foldl (fun (st : State) e => st.emit (.event a e.num e.code e.ctx e.lost e.payload)) s
    .next (s1.ev 0x0AF 0 [] l.length)

end Sys2Proof.Machine
end

