-- ==== Sys2Proof/Machine/Roce.lean ====
section
/-! DEFINITION. RoCEv2: queue pairs, host regions, HBM opened to agents, packets and retransmission
(14_host_port R443 to R445).
Assumption log: log 90 (DEDUCED), log 98 (PRESUMED), log 99 (DEDUCED). -/

namespace Sys2Proof.Machine

/-- The first of `n` numbers from a free one on, modulo `bound`, that is not in use: which one the part hands out has no
rule. -/
def pickUnused (used : Nat → Bool) (start bound n : Nat) : Nat :=
  (((List.range n).map fun i => (start + i) % bound).find? fun k => !used k).getD (start % bound)

/-! ### Queue pairs and regions (R443, R444) -/

/-- QP_OPEN: a queue pair of the part, with its number and its starting PSN. -/
def execQpOpen (m : Ncp) (s : State) : Res :=
  .next (s.ncp 0x30 m .attached (m.payload.length == 25) fun st =>
    let mtu := recN m.payload 24 1
    if mtu < 3 ∨ 5 < mtu then .done st 4 []
    else if 512 ≤ st.host.qps.length then .done st 0x0C []
    else
      let d := st.draw
      let e := d.2.draw
      let n := pickUnused (fun k => (e.2.qp k).isSome) d.1 (2 ^ 24) 513
      let psn := e.1 % 2 ^ 24
      let q : Qp := { slot := m.slot, peerQpn := recN m.payload 0 4 % 2 ^ 24, gid := recN m.payload 8 16, mtu := mtu
                      txPsn := psn, rxPsn := recN m.payload 4 4 % 2 ^ 24 }
      .done (e.2.setQp n q) 0 (leBytes 4 n ++ leBytes 4 psn))

/-- QP_CLOSE, by the opener. -/
def execQpClose (m : Ncp) (s : State) : Res :=
  .next (s.ncp 0x31 m .attached (m.payload.length == 4) fun st =>
    let n := recN m.payload 0 4
    match st.qp n with
    | none => .done st 4 []
    | some q => if q.slot = m.slot then .done (st.closeQp n) 0 [] else .done st 3 [])

/-- REGION_ADD: a host region under a handle, over a queue pair of the slot. -/
def execRegionAdd (m : Ncp) (s : State) : Res :=
  .next (s.ncp 0x32 m .attached (m.payload.length == 25) fun st =>
    let n := recN m.payload 0 4
    let acc := recN m.payload 24 1
    match st.qp n with
    | none => .done st 4 []
    | some q =>
      if 4 ≤ acc then .done st 4 []
      else if q.slot ≠ m.slot then .done st 3 []
      else if 1024 ≤ st.host.regions.length then .done st 0x0C []
      else
        let d := st.draw
        let h := pickUnused (fun k => (Tbl.find st.host.regions (k + 1)).isSome) d.1 65535 1025 + 1
        let r : Region := { slot := m.slot, qpn := n, rkey := recN m.payload 4 4, base := recN m.payload 8 8
                            len := recN m.payload 16 8, access := acc }
        let s1 : State := { d.2 with host := { d.2.host with regions := Tbl.set d.2.host.regions h r } }
        .done s1 0 (leBytes 2 h))

/-- REGION_DEL, by the adder or ADMIN: the region goes once no descriptor in flight names it (R444). -/
def execRegionDel (m : Ncp) (s : State) : Res :=
  .next (s.ncp 0x33 m .attached (m.payload.length == 2) fun st =>
    let h := recN m.payload 0 2
    match st.region h with
    | none => .done st 4 []
    | some r =>
      if r.slot ≠ m.slot ∧ !(st.slot m.slot).admin then .done st 3 []
      else
        let host : HostPort := { st.host with regions := Tbl.set st.host.regions h { r with removing := true } }
        .done (State.settleRegions { st with host := host }) 0 [])

/-! ### HBM opened to agents (R445) -/

/-- An admitted context has a segment that overlaps device chunks. -/
def State.segsMeet (s : State) (base len : Nat) : Bool :=
  (s.ctxs.keys.filter s.isAdmitted).any fun c => (segList (s.ctx c).segs).any (chunksMeet (base, len))

/-- HBM_MAP: an rkey for a context's addresses, or for a staging window of device chunks, which is closed while a
segment overlaps it. -/
def execHbmMap (m : Ncp) (s : State) : Res :=
  .next (s.ncp 0x34 m .attached (m.payload.length == 17) fun st =>
    let kind := recN m.payload 0 1
    let base := recN m.payload 1 8
    let len := recN m.payload 9 8
    if 2 ≤ kind then .done st 4 []
    else if kind = 0 ∧ !st.isAdmitted m.ctx then .done st 9 []
    else if kind = 0 ∧ (st.ctx m.ctx).owner ≠ some m.slot then .done st 3 []
    else if kind = 1 ∧ !(st.slot m.slot).admin then .done st 3 []
    else
      let d := st.draw
      let k := pickUnused (fun j => (Tbl.find st.host.maps j).isSome) d.1 (2 ^ 32) (st.host.maps.length + 1)
      let w : HbmMap := { slot := m.slot, staging := kind == 1, ctx := m.ctx, base := base, len := len
                          isOpen := kind == 0 || !st.segsMeet base len }
      let s1 : State := { d.2 with host := { d.2.host with maps := Tbl.set d.2.host.maps k w } }
      .done s1 0 (leBytes 4 k))

/-- The device address that an agent's operation of `n` bytes reaches under an rkey, none when it ends in a remote
access error. The remote address of a staging window is a device address (log 93). -/
def State.rdmaAddr (s : State) (slot rkey a n : Nat) (write : Bool) : Option Nat :=
  match Tbl.find s.host.maps rkey with
  | none => none
  | some w =>
    if w.slot ≠ slot ∨ !w.isOpen then none
    else if w.staging then
      if 2048 * w.base ≤ a ∧ a + n ≤ 2048 * (w.base + w.len) ∧ a + n ≤ s.hbm.capacity then some a else none
    else if w.base ≤ a ∧ a + n ≤ w.base + w.len then s.xlate w.ctx a n write
    else none

/-! ### Packets (R443, R445) -/

/-- PSN `a` comes before `b`, modulo 2^24. -/
def psnBefore (a b : Nat) : Bool :=
  let d := (b + 2 ^ 24 - a % 2 ^ 24) % 2 ^ 24
  decide (0 < d) && decide (d < 2 ^ 23)

/-- A packet answered to the other end of a queue pair. -/
def State.rdmaAnswer (s : State) (q : Qp) (op : RdmaOp) (psn : Nat) (data : Bytes) : State :=
  s.rdmaEmit { op := op, qpn := q.peerQpn, psn := psn, len := data.length, data := data }

/-- The packets that the responses of a request take. -/
def rdmaPackets (p : Rdma) (mtu : Nat) : Nat := if p.op = .read then max 1 (ceilDiv p.len mtu) else 1

/-- The responses of a read, one access a packet, until one fails. -/
def State.rdmaReads (q : Qp) (p : Rdma) (mtu : Nat) : Nat → Nat → State → State
  | 0, _, s => s
  | n + 1, i, s =>
    let len := min mtu (p.len - i * mtu)
    match s.rdmaAddr q.slot p.rkey (p.addr + i * mtu) len false with
    | none => s.rdmaAnswer q .nakAccess ((p.psn + i) % 2 ^ 24) []
    | some a =>
      let rd := s.hbmRead a len
      State.rdmaReads q p mtu n (i + 1) (rd.s.rdmaAnswer q .response ((p.psn + i) % 2 ^ 24) rd.bytes)

/-- A request of an agent served. A repeated write is acknowledged and not performed again. -/
def State.rdmaServe (s : State) (q : Qp) (p : Rdma) (again : Bool) : State :=
  if p.op = .read then State.rdmaReads q p (mtuBytes q.mtu) (rdmaPackets p (mtuBytes q.mtu)) 0 s
  else if again then s.rdmaAnswer q .ack p.psn []
  else match s.rdmaAddr q.slot p.rkey p.addr p.data.length true with
    | none => s.rdmaAnswer q .nakAccess p.psn []
    | some a => (s.dataWrite a p.data).rdmaAnswer q .ack p.psn []

/-- The requests of the part that an answer with PSN `psn` ends: the one it answers, and writes before it. -/
def endsRequest (op : RdmaOp) (psn : Nat) (r : RdmaSent) : Bool :=
  if r.pkt.psn = psn then !(op == .ack && r.pkt.op == .read) else r.pkt.op == .write && psnBefore r.pkt.psn psn

/-- An answer to the part's requests: a response, an acknowledgement or a remote access error. -/
def State.rdmaAnswered (s : State) (n : Nat) (q : Qp) (p : Rdma) : State :=
  let done := q.sent.filter (endsRequest p.op p.psn)
  let s1 := done.foldl (fun (st : State) r =>
    if r.pkt.psn = p.psn then st.answerRemote r.tag (p.op != .nakAccess) p.data else st.answerRemote r.tag true []) s
  s1.setQp n { q with sent := q.sent.filter fun r => !endsRequest p.op p.psn r }

/-- RDMA_PACKET_RX: a RoCEv2 packet addressed to the part. A marked one is answered with a congestion notification;
one of those halves the rate; requests are served in the order of their PSNs (R443, R445). It ends deep sleep (16
R475). -/
def execRdmaPacketRx (p : Rdma) (s : State) : Res :=
  if !s.host.link || s.sec.stage ≠ 9 then .next s
  else
    let s0 := s.wakeDeep
    match s0.qp p.qpn with
    | none => .next s0
    | some q =>
      let s1 := if p.ecn then s0.rdmaAnswer q .cnp 0 [] else s0
      match p.op with
      | .cnp => .next ((s1.setQp p.qpn { q with rate := q.rate / 2 }).ev 0x0B3 0 [])
      | .response => .next (s1.rdmaAnswered p.qpn q p)
      | .ack => .next (s1.rdmaAnswered p.qpn q p)
      | .nakAccess => .next (s1.rdmaAnswered p.qpn q p)
      | .write =>
        if p.psn = q.rxPsn then
          .next ((s1.setQp p.qpn { q with rxPsn := (q.rxPsn + 1) % 2 ^ 24 }).rdmaServe q p false)
        else if psnBefore p.psn q.rxPsn then .next (s1.rdmaServe q p true)
        else .next s1
      | .read =>
        if p.psn = q.rxPsn then
          let k := rdmaPackets p (mtuBytes q.mtu)
          .next ((s1.setQp p.qpn { q with rxPsn := (q.rxPsn + k) % 2 ^ 24 }).rdmaServe q p false)
        else if psnBefore p.psn q.rxPsn then .next (s1.rdmaServe q p true)
        else .next s1

/-- ROCE_RETRANSMIT_TIMEOUT: the requests of a queue pair that are not answered are sent again, or, after 7 retries,
end in a transport error (R444). -/
def execRoceRetransmitTimeout (n : Nat) (s : State) : Res :=
  match s.qp n with
  | none => .next s
  | some q =>
    if q.sent.isEmpty || !s.host.link then .next s
    else if q.sent.any fun r => decide (7 ≤ r.retries) then
      .next ((q.sent.foldl (fun (st : State) r => st.answerRemote r.tag false []) s).setQp n { q with sent := [] })
    else
      let s1 := q.sent.foldl (fun (st : State) r => st.rdmaEmit r.pkt) s
      let up (r : RdmaSent) : RdmaSent := { r with retries := r.retries + 1 }
      .next ((s1.setQp n { q with sent := q.sent.map up }).ev 0x0B2 0 [] q.sent.length)

/-- ROCE_RATE_RECOVERY: the rate of a queue pair recovers by 1/16 of the line rate (R443). -/
def execRoceRateRecovery (n : Nat) (s : State) : Res :=
  match s.qp n with
  | none => .next s
  | some q => .next (s.setQp n { q with rate := min 65536 (q.rate + 4096) })

end Sys2Proof.Machine
end

