-- ==== Sys2Proof/Machine/SmBus.lean ====
section
/-! DEFINITION. The SMBus target (16_power_clocks R485; 18_test_calibration R518).
Assumption log: log 86 (DEDUCED). -/

namespace Sys2Proof.Machine

/-- One byte of the packet error code: CRC-8 with polynomial x⁸ + x² + x + 1, as SMBus 3.1 defines it. -/
def crc8Byte (c b : Byte) : Byte :=
  (List.range 8).foldl (fun (x : Byte) _ => if x.getLsbD 7 then (x <<< 1) ^^^ 0x07 else x <<< 1) (c ^^^ b)

/-- The packet error code of a transfer. -/
def pecOf (bs : Bytes) : Byte := bs.foldl crc8Byte 0

/-- The address byte of the target, with the read bit (R485). -/
def Pmc.smbByte (p : Pmc) (read : Bool) : Byte := BitVec.ofNat 8 (2 * (0x58 + p.smbAddr) + b2n read)

/-- The target answers: VDD_AON is up and power-on has completed. -/
def Pmc.answers (p : Pmc) : Bool := p.aon && p.powered

/-- A read answered with its data and a packet error code. -/
def State.smbRead (s : State) (code : Byte) (data : Bytes) : State :=
  if !s.pmc.answers then s
  else s.emit (.smbus (data ++ [pecOf ([s.pmc.smbByte false, code, s.pmc.smbByte true] ++ data)]))

/-- The packet error code of a write checks. -/
def Pmc.pecOk (p : Pmc) (code : Byte) (data : Bytes) (pec : Byte) : Bool :=
  p.answers && pec == pecOf ([p.smbByte false, code] ++ data)

/-- A block as it is read: its count and its bytes. -/
def smbBlock (data : Bytes) : Bytes := leBytes 1 data.length ++ data

/-- MAX_TEMP: the hottest of sensors 0–19. -/
def execMaxTemp (s : State) : Res :=
  let r := (List.range 20).map fun i => sext 16 (Tbl.get 0 s.pmc.temps i)
  .next (s.smbRead 0x01 (leBytes 2 (wrapInt 16 (hottest r).1)))

/-- TEMPS: sensors 0–19, then stacks 0–11. -/
def execTemps (s : State) : Res :=
  let r := (List.range 20).flatMap fun i => leBytes 2 (Tbl.get 0 s.pmc.temps i)
  let k := (List.range 12).flatMap fun i => leBytes 1 (s.stack i).temp
  .next (s.smbRead 0x02 (smbBlock (r ++ k)))

/-- POWER: the 10 ms average in W. -/
def execPower (s : State) : Res := .next (s.smbRead 0x03 (leBytes 2 s.pmc.pwr10ms))

/-- The cause bits BY_THR, BY_THERM and BY_POWER (Table 16.11). -/
def Pmc.causes (p : Pmc) : Nat :=
  b2n (p.throttled && p.sets p.thrPoint) + 2 * b2n (p.sets p.thermCap) + 4 * b2n (p.sets p.pwrCap)

/-- STATUS: STAGE, point, causes, THROTTLE_N, TRIP and deep sleep. -/
def execStatus (s : State) : Res :=
  let k := s.pmc
  .next (s.smbRead 0x04 (smbBlock
    (leBytes 1 s.sec.stage ++ leBytes 1 k.point ++ leBytes 1 k.causes ++ leBytes 1 (b2n k.thr.accepted)
      ++ leBytes 1 (b2n k.trip) ++ leBytes 1 (b2n (k.deepState == 2)) ++ leBytes 2 0)))

/-- BOARD_LIMIT read. -/
def execBoardLimitRead (s : State) : Res := .next (s.smbRead 0x05 (leBytes 2 s.pmc.boardLimit))

/-- BOARD_LIMIT written; a write whose packet error code does not check is ignored. -/
def execBoardLimitWrite (v : Nat) (pec : Byte) (s : State) : Res :=
  if s.pmc.pecOk 0x05 (leBytes 2 v) pec then .next { s with pmc := { s.pmc with boardLimit := v % 65536 } } else .next s

/-- ECHO written: 1 to 32 bytes are stored (18 R518). -/
def execEchoWrite (data : Bytes) (pec : Byte) (s : State) : Res :=
  if 1 ≤ data.length ∧ data.length ≤ 32 ∧ s.pmc.pecOk 0x06 (smbBlock data) pec then
    .next { s with pmc := { s.pmc with echo := data } }
  else .next s

/-- ECHO read: the bytes last stored and their count (18 R518). -/
def execEchoRead (s : State) : Res := .next (s.smbRead 0x06 (smbBlock s.pmc.echo))

/-- STEP: the stepping, A1 (00 R2). -/
def execStep (s : State) : Res := .next (s.smbRead 0x07 (leBytes 1 0x11))

end Sys2Proof.Machine
end

