-- ==== Sys2Proof/Machine/Test.lean ====
section
/-! DEFINITION. Loop-backs, live calibration and the test access port (18_test_calibration R513 to R530).
Assumption log: log 103 (DEDUCED). -/

namespace Sys2Proof.Machine

/-! ### Loop-backs of ports (R514, R526) -/

/-- TST_PORT_LBn written: DEPTH, DUR_EXP, and RUN, which takes the port through STOPPING to OFF first. A RUN during a run
is ignored. Number 24 is the host port. -/
def State.writePortLb (s : State) (n : Nat) (v : Nat) : State :=
  let l : LoopBack := { s.lb n with depth := fld v 58 2, dur := fld v 53 5 }
  if 25 ≤ n then s
  else if !bit v 63 || l.run || s.sec.stage != 9 then s.setLb n l
  else
    let en := if n = 24 then s.host.en else (s.port n).en
    let s1 := s.setLb n { l with run := true, done := false, want := en.wants, waits := en.st != .off, runDepth := l.depth }
    if n = 24 then { s1 with host := { s1.host with en := s1.host.en.drop } } else s1.dropPort n

/-- PORT_LOOPBACK_RUN: TST_PORT_LBn written with RUN (R514). -/
def execPortLoopbackRun (n : Nat) (v : W64) (s : State) : Res :=
  if s.clocked then .next (s.writePortLb n (setFld v.toNat 63 1 1)) else .next s

/-- PORT_LOOPBACK_END: the run ends with the errors it found, none at depth 3, and the port restarts as its EN
requests (R513, R514). -/
def execPortLoopbackEnd (n errors : Nat) (s : State) : Res :=
  let l := s.lb n
  if !l.run || l.waits then .next s
  else
    let e := if l.runDepth = 3 then 0 else min errors (2 ^ 32 - 1)
    let s1 := s.setLb n { l with run := false, done := true, errors := e, want := false }
    if !l.want then .next s1
    else if n = 24 then .next (s1.startHost { st := .starting })
    else .next (s1.setPort n (s1.freshPort n { st := .starting }))

/-! ### Loop-backs of stacks and of the mesh (R516, R517, R527) -/

/-- The loop-back registers of a stack. -/
def State.hbmLb (s : State) (k : Nat) : LoopBack := Tbl.get { depth := 1 } s.tst.hbms k
/-- Those registers replaced. -/
def State.setHbmLb (s : State) (k : Nat) (x : LoopBack) : State :=
  { s with tst := { s.tst with hbms := Tbl.set s.tst.hbms k x } }

/-- TST_HBM_LBs written: DEPTH, and RUN, which is refused on a usable or lost stack. Depths 1 and 2 hold the stack in
self-refresh. -/
def State.writeHbmLb (s : State) (k : Nat) (v : Nat) : State :=
  let l : LoopBack := { s.hbmLb k with depth := fld v 59 2 }
  let x := s.stack k
  if 12 ≤ k then s
  else if !bit v 63 || l.run then s.setHbmLb k l
  else if bit s.hbm.layout.toNat (25 + k) || x.st == .lost then s.setHbmLb k { l with refused := true }
  else
    let s1 := s.setHbmLb k { l with run := true, done := false, refused := false, runDepth := l.depth }
    if l.depth ≠ 3 ∧ x.st = .active then s1.setStack k { x with st := .selfRefresh } else s1

/-- HBM_LOOPBACK_RUN: TST_HBM_LBs written with RUN (R516). -/
def execHbmLoopbackRun (k : Nat) (v : W64) (s : State) : Res :=
  if s.clocked then .next (s.writeHbmLb k (setFld v.toNat 63 1 1)) else .next s

/-- The contents of a stack that the layout leaves out are no longer what was written: free values in place of every byte
that was (R516). DESIGN CHOICE, log 113. -/
def State.unknownStack (s : State) (k : Nat) : State :=
  let mine := s.hbm.aside.filter fun x => physStack x.1 == k
  let d := s.freeBytes mine.length
  let aside := (mine.zip d.1).foldl (fun m x => memWrite m x.1.1 x.2) s.hbm.aside
  let ecc := s.hbm.asideEcc.filter fun x => physStack x.1 != k
  { d.2 with hbm := { d.2.hbm with aside := aside, asideEcc := ecc } }

/-- HBM_LOOPBACK_END: the run ends; after a DRAM loop-back the stack is trained again (R516); in deep sleep a stack
stays in self-refresh (16 R475). -/
def execHbmLoopbackEnd (k errors : Nat) (s : State) : Res :=
  let l := s.hbmLb k
  if !l.run then .next s
  else
    let x := s.stack k
    let s1 := s.setHbmLb k { l with run := false, done := true, errors := min errors (2 ^ 32 - 1) }
    let st := if l.runDepth = 3 then StackSt.training else if x.st = .selfRefresh ∧ s.pmc.deepState ≠ 2 then .active else x.st
    let s2 := if l.runDepth = 3 then s1.unknownStack k else s1
    .next (s2.setStack k { x with st := st })

/-- A tile that a mesh loop-back may use: ON, unfenced, and in no admitted context's map (R517). -/
def State.loopTile (s : State) (t : Nat) : Bool :=
  (s.tile t).en.st == .on && !s.aon.fence.getLsbD t
    && !(s.ctxs.keys.filter s.isAdmitted).any fun c => (s.ctx c).map.contains t

/-- TST_MESH_LB written: SRC, DST, and RUN, which is refused for a tile that may not be used. -/
def State.writeMeshLb (s : State) (v : Nat) : State :=
  let l : LoopBack := { s.tst.mesh with src := fld v 40 8, dst := fld v 32 8 }
  let m : LoopBack :=
    if !bit v 63 || l.run then l
    else if s.loopTile l.src && s.loopTile l.dst then { l with run := true, done := false, refused := false }
    else { l with refused := true }
  { s with tst := { s.tst with mesh := m } }

/-- MESH_LOOPBACK_RUN: TST_MESH_LB written with RUN (R517). -/
def execMeshLoopbackRun (v : W64) (s : State) : Res :=
  if s.clocked then .next (s.writeMeshLb (setFld v.toNat 63 1 1)) else .next s

/-- MESH_LOOPBACK_END: the run ends; its errors are counted here only (R517). -/
def execMeshLoopbackEnd (corr errors : Nat) (s : State) : Res :=
  let l := s.tst.mesh
  if !l.run then .next s
  else .next { s with tst := { s.tst with mesh := { l with
    run := false, done := true, corr := min corr 0xFFFF, errors := min errors 0xFFFF } } }

/-! ### Live calibration (R519 to R523) -/

/-- A FREEZE bit of TST_CAL_CTL (Table 18.6): 0 HBM, 1 SerDes, 2 droop, 3 thermal. -/
def Tst.frozen (t : Tst) (i : Nat) : Bool := bit t.calCtl.toNat i

/-- HBM_READ_EYE_STEP: the read delay of a DQ byte of a pseudo-channel moves by 1/64 UI, and the stack's smallest margin
and its pseudo-channel are as now observed (R519, R529). -/
def execHbmReadEyeStep (k pc byte : Nat) (up : Bool) (margin at_ : Nat) (s : State) : Res :=
  if s.tst.frozen 0 || 12 ≤ k || (s.stack k).st != .active then .next s
  else
    let i := 1024 * k + 32 * (pc % 32) + byte % 32
    let d := Tbl.get (0 : Int) s.tst.delays i
    let e : Eye := Tbl.get {} s.tst.eyes k
    .next { s with tst := { s.tst with
      delays := Tbl.set s.tst.delays i (if up then d + 1 else d - 1)
      eyes := Tbl.set s.tst.eyes k { steps := satInc 16 e.steps, margin := margin % 256, pc := at_ % 32 } } }

/-- The port is ON, or in loop-back; number 24 is the host port. -/
def State.adapts (s : State) (n : Nat) : Bool :=
  (s.lb n).run || (if n = 24 then s.host.en.st == .on else decide (n < 24) && (s.port n).en.st == .on)

/-- SERDES_ADAPT_STEP: the receive settings of a lane change at a codeword boundary, and its eye and convergence are as
now observed (R519, R529). -/
def execSerdesAdaptStep (n lane setting eye : Nat) (conv : Bool) (s : State) : Res :=
  if s.tst.frozen 1 || 4 ≤ lane || !s.adapts n then .next s
  else
    let v := (Tbl.get (0 : W64) s.tst.sd n).toNat
    let w := setFld (setFld v (16 * lane + 15) 1 (b2n conv)) (16 * lane) 8 eye
    .next { s with tst := { s.tst with
      sd := Tbl.set s.tst.sd n (BitVec.ofNat 64 w), adapt := Tbl.set s.tst.adapt (4 * n + lane) setting } }

/-- A droop sensor. -/
def State.droop (s : State) (g : Nat) : Droop := Tbl.get {} s.tst.droop g
/-- A droop sensor replaced. -/
def State.setDroop (s : State) (g : Nat) (x : Droop) : State :=
  { s with tst := { s.tst with droop := Tbl.set s.tst.droop g x } }

/-- A qualifying window of a group: every array is at level 0, or its tile is not in RUN (Table 18.2). -/
def State.calmGroup (s : State) (g : Nat) : Bool :=
  (List.range 256).all fun t => groupOf t != g || !(s.tile t).runs || (s.tile t).level == 0

/-- DROOP_THRESHOLD_STEP: the threshold moves one code step toward the code of 40 mV below the voltage sensed in a
qualifying window, or is re-based to it after a change of operating point (R519). -/
def execDroopThresholdStep (g code : Nat) (rebase : Bool) (s : State) : Res :=
  if s.tst.frozen 2 || 16 ≤ g || !s.calmGroup g then .next s
  else
    let x := s.droop g
    let c := code % 256
    let n := if rebase then c else if x.thresh < c then x.thresh + 1 else if c < x.thresh then x.thresh - 1 else c
    .next (s.setDroop g { x with thresh := n })

/-- DROOP_EVENT: the sensor of a group reads below its threshold and the group's core cycle is lengthened (R521). -/
def execDroopEvent (g : Nat) (s : State) : Res :=
  if 16 ≤ g then .next s
  else .next (s.setDroop g { s.droop g with events := satInc 16 (s.droop g).events, long := true })

/-- DROOP_END: the reading has stayed above the threshold for 32 core cycles (R521). -/
def execDroopEnd (g : Nat) (s : State) : Res :=
  if 16 ≤ g then .next s else .next (s.setDroop g { s.droop g with long := false })

/-- THERMAL_OFFSET_STEP: a sensor's offset moves by 1/8 °C toward its difference from the reference, in 1/8 °C, within
±4 °C; a difference beyond that sets FAULT (R519, R522). -/
def execThermalOffsetStep (k : Nat) (diff : Int) (s : State) : Res :=
  if s.tst.frozen 3 || 20 ≤ k then .next s
  else
    let x : Therm := Tbl.get {} s.tst.therm k
    let aim := max (-32) (min 32 diff)
    let n := if x.offset < aim then x.offset + 1 else if aim < x.offset then x.offset - 1 else x.offset
    let y : Therm := { fault := decide (32 < diff) || decide (diff < -32), offset := n }
    .next { s with tst := { s.tst with therm := Tbl.set s.tst.therm k y } }

/-- CAL_FREEZE_WRITE: TST_CAL_CTL (R523, R528). -/
def execCalFreezeWrite (v : W32) (s : State) : Res := .next { s with tst := { s.tst with calCtl := v &&& 0xF } }

/-! ### The test access port (R524, R525) -/

/-- An instruction selected. -/
def State.selectIr (s : State) (code : Nat) : State := { s with tst := { s.tst with ir := code } }

/-- The test access port is powered. -/
def State.tapOn (s : State) : Bool := s.pmc.aon && s.pmc.powered

/-- BYPASS, with its code or one that acts alike: a 1-bit register, which captures 0. -/
def State.bypass (s : State) (code : Nat) : State := (s.selectIr code).emit (.jtag 1 0)

/-- The codes that have an instruction of their own (Table 18.3). -/
def jtagCodes : List Nat := [0x01, 0x02, 0x03, 0x04, 0x05, 0x06, 0x07, 0x10, 0x20, 0x21, 0x22]

/-- BYPASS, by its code 0xFF or any code without an instruction of its own. -/
def execBypass (code : Nat) (s : State) : Res :=
  if !s.tapOn || jtagCodes.contains (code % 256) then .next s else .next (s.bypass (code % 256))

/-- IDCODE. -/
def execIdcode (s : State) : Res :=
  if s.tapOn then .next ((s.selectIr 0x01).emit (.jtag 32 0x1C351553)) else .next s

/-- What a chain of a length without a rule shifts out: free values. -/
def State.shiftFree (s : State) : State :=
  let d := s.draw
  let e := d.2.draw
  e.2.emit (.jtag d.1 (e.1 % 2 ^ d.1))

/-- SAMPLE/PRELOAD: captures the lands, without effect on the part; the order of the boundary register has no rule. -/
def execSamplePreload (s : State) : Res :=
  if s.tapOn then .next (s.selectIr 0x02).shiftFree else .next s

/-- An instruction that holds the part as under an accepted RESET_N assertion while it is selected (Table 18.3). -/
def State.hold (s : State) (code : Nat) : State :=
  if jtagHolds s.tst.ir then s.selectIr code
  else
    let s1 := s.chipReset.selectIr code
    { s1 with pmc := { s1.pmc with rst := { s1.pmc.rst with accepted := false } } }

/-- EXTEST. -/
def execExtest (s : State) : Res := if s.tapOn then .next (s.hold 0x03).shiftFree else .next s
/-- CLAMP: the bypass register is selected, as the standard says. -/
def execClamp (s : State) : Res := if s.tapOn then .next ((s.hold 0x04).emit (.jtag 1 0)) else .next s
/-- HIGHZ: the bypass register is selected, as the standard says. -/
def execHighz (s : State) : Res := if s.tapOn then .next ((s.hold 0x05).emit (.jtag 1 0)) else .next s
/-- EXTEST_PULSE. -/
def execExtestPulse (s : State) : Res := if s.tapOn then .next (s.hold 0x06).shiftFree else .next s
/-- EXTEST_TRAIN. -/
def execExtestTrain (s : State) : Res := if s.tapOn then .next (s.hold 0x07).shiftFree else .next s

/-- MBIST: one pass bit per memory instance, on a BLANK part; else BYPASS (R525). -/
def execMbist (s : State) : Res :=
  if !s.tapOn then .next s
  else if s.fuses.lifecycle = 0 then .next (s.selectIr 0x20).shiftFree else .next (s.bypass 0x20)
/-- SCAN, on a BLANK part; else BYPASS. -/
def execScan (s : State) : Res :=
  if !s.tapOn then .next s
  else if s.fuses.lifecycle = 0 then .next (s.selectIr 0x21).shiftFree else .next (s.bypass 0x21)

/-- Bits set in a fuse field of `n` bytes: fuses only change from 0 to 1 (15 R460). -/
def fuseBytes (n : Nat) (old new : Bytes) : Bytes :=
  (List.range n).map fun i => (old[i]?).getD 0 ||| (new[i]?).getD 0

/-- A field programmed at manufacture; its parity follows (15 Table 15.6). DEDUCED, log 107. -/
def Fuses.blow (f : Fuses) (w : FuseWrite) : Fuses :=
  match w with
  | .lifecycle v => { f with lifecycle := f.lifecycle ||| (v % 4) }
  | .secret b => { f with secret := fuseBytes 32 f.secret b }
  | .helper b => { f with helper := fuseBytes 512 f.helper b }
  | .idkHash b => { f with idkHash := fuseBytes 64 f.idkHash b }
  | .fwKey k b => { f with fwKeys := Tbl.set f.fwKeys (k % 2) (fuseBytes 64 (Tbl.get [] f.fwKeys (k % 2)) b) }
  | .mac v => { f with mac := f.mac ||| (v % 2 ^ 48) }

/-- FUSE_PROG, on a BLANK part; else BYPASS. -/
def execFuseProg (w : FuseWrite) (s : State) : Res :=
  if !s.tapOn then .next s
  else if s.fuses.lifecycle = 0 then
    let s1 := s.selectIr 0x22
    .next { s1 with fuses := s1.fuses.blow w }
  else .next (s.bypass 0x22)

/-- TRST_N: the TAP controller is reset, which selects IDCODE, and nothing else. -/
def execTrstN (s : State) : Res := .next (s.selectIr 0x01)

end Sys2Proof.Machine
end

