-- ==== Sys2Proof/Machine/Regs.lean ====
section
/-! DEFINITION. The registers: their addresses, what each reads as, and the fields that a read clears
(19_config_space R531 to R541, and the registers of every chapter).
Assumption log: log 95 (DEDUCED). -/

namespace Sys2Proof.Machine

/-! ### The register index (R540) -/

/-- The registers of stepping A1 (R540, Table 19.5). -/
inductive RegName where
  | aonCap | aonDiagAt | aonFence | aonRecCmd | aonRecCtl | aonRecStat | aonSrecData | aonSrecSel | aonWdog
  | cntCsel | cntCsnap | cntCtl | cntCval | cntSnapM | cntTrcBase | cntTrcCtl | cntTrcPtr | cntTrcSize
  | cntTrcStat | cntTsel | cntTsnap | cntTval | ctxAdmit | ctxClient | ctxCtl | ctxStat | ctxSwitchLog
  | ctxUse | fabCtl | fabEpoch | fabFlowStat | fabId | fabLog | fabPipeq | fabPortCred | fabPortCtl
  | fabPortStat | fabSmapStat | fabSwitchAddr | fabSwitchAt | hbmBundleAddr | hbmBundleAt | hbmBundleStat
  | hbmCtl | hbmEccLog | hbmLayout | hbmLend | hbmLendJob | hbmStackStat | hbmWcmd | hostAgent | hostCtl
  | hostIpHi | hostIpLo | hostMac | hostStat | pmcBoardStat | pmcDvfsCtl | pmcDvfsStat | pmcEngEn
  | pmcEngStat | pmcLimitCtl | pmcLimitStat | pmcSleepCtl | pmcSleepReq | pmcTemp | pmcTileEn | pmcTilePend
  | pmcTileStat | secBootStat | secFuseCtl | secFuseData | secFuseStat | secFwDigest | solvCtl | solvInstall
  | solvLog | solvScratchBase | solvScratchSize | solvStat | solvTable | tapCtl | tapFoldLog | tapSlot
  | tapStat | tileErrStatus | tileExcLog | tileFaultCnt | tileQflags | tileQresume | tileQseq | tileQstat
  | tileResidueCtl | tileResidueLog | tileShapeCtl | tileShapeStat | tileSig | tileStoreCtl | tileStoreEccLog
  | tileStoreLive | tileStoreLiveBytes | tileVid | tstCalCtl | tstDroop | tstHbmEye | tstHbmLb | tstMeshLb
  | tstPortLb | tstSdStat | tstTherm | uoaArrive | uoaDigestCtl | uoaDigestStat | uoaEntry | uoaErrLog
  | uoaMstone | uoaStat | uoaWaysideStat
deriving DecidableEq, Repr

/-- A row of the register index: a register, the address of instance 0, the distance between instances, their number
and the width in bytes. -/
structure RegRow where
  name : RegName
  base : Nat
  stride : Nat
  count : Nat
  bytes : Nat
deriving DecidableEq, Repr

/-- The registers of the device's blocks, part 0. -/
def deviceRegs0 : List RegRow :=
  [⟨.aonCap, 0x0, 0x8, 27, 8⟩,
   ⟨.aonDiagAt, 0x18500, 0x8, 64, 8⟩,
   ⟨.aonFence, 0x18010, 0x8, 4, 8⟩,
   ⟨.aonRecCmd, 0x18300, 0x8, 64, 4⟩,
   ⟨.aonRecCtl, 0x18000, 0x4, 1, 4⟩,
   ⟨.aonRecStat, 0x18100, 0x8, 64, 8⟩,
   ⟨.aonSrecData, 0x18800, 0x8, 32, 8⟩,
   ⟨.aonSrecSel, 0x18700, 0x4, 1, 4⟩,
   ⟨.aonWdog, 0x18008, 0x4, 1, 4⟩,
   ⟨.cntCsel, 0x60100, 0x8, 16, 8⟩,
   ⟨.cntCsnap, 0x60300, 0x8, 16, 8⟩,
   ⟨.cntCtl, 0x60000, 0x4, 1, 4⟩,
   ⟨.cntCval, 0x60200, 0x8, 16, 8⟩,
   ⟨.cntSnapM, 0x60008, 0x8, 1, 8⟩,
   ⟨.cntTrcBase, 0x60408, 0x8, 1, 8⟩,
   ⟨.cntTrcCtl, 0x60400, 0x8, 1, 8⟩,
   ⟨.cntTrcPtr, 0x60418, 0x8, 1, 8⟩,
   ⟨.cntTrcSize, 0x60410, 0x4, 1, 4⟩,
   ⟨.cntTrcStat, 0x60420, 0x8, 1, 8⟩,
   ⟨.ctxAdmit, 0x50008, 0x8, 1, 8⟩]

/-- The registers of the device's blocks, part 1. -/
def deviceRegs1 : List RegRow :=
  [⟨.ctxClient, 0x51000, 0x8, 256, 8⟩,
   ⟨.ctxCtl, 0x50000, 0x4, 1, 4⟩,
   ⟨.ctxStat, 0x50100, 0x8, 64, 8⟩,
   ⟨.ctxSwitchLog, 0x50010, 0x8, 1, 8⟩,
   ⟨.ctxUse, 0x50300, 0x8, 64, 8⟩,
   ⟨.fabCtl, 0x90008, 0x4, 1, 4⟩,
   ⟨.fabEpoch, 0x90100, 0x4, 64, 4⟩,
   ⟨.fabFlowStat, 0x90010, 0x8, 1, 8⟩,
   ⟨.fabId, 0x90000, 0x4, 1, 4⟩,
   ⟨.fabLog, 0x90018, 0x8, 1, 8⟩,
   ⟨.fabPipeq, 0x92C00, 0x8, 64, 8⟩,
   ⟨.fabPortCred, 0x91010, 0x20, 24, 8⟩,
   ⟨.fabPortCtl, 0x91000, 0x20, 24, 4⟩,
   ⟨.fabPortStat, 0x91008, 0x20, 24, 8⟩,
   ⟨.fabSmapStat, 0x92000, 0x8, 64, 8⟩,
   ⟨.fabSwitchAddr, 0x92400, 0x8, 64, 8⟩,
   ⟨.fabSwitchAt, 0x92800, 0x8, 64, 8⟩,
   ⟨.hbmBundleAddr, 0x81000, 0x8, 64, 8⟩,
   ⟨.hbmBundleAt, 0x81400, 0x8, 64, 8⟩,
   ⟨.hbmBundleStat, 0x81800, 0x8, 64, 8⟩]

/-- The registers of the device's blocks, part 2. -/
def deviceRegs2 : List RegRow :=
  [⟨.hbmCtl, 0x80000, 0x4, 1, 4⟩,
   ⟨.hbmEccLog, 0x80010, 0x8, 1, 8⟩,
   ⟨.hbmLayout, 0x80008, 0x8, 1, 8⟩,
   ⟨.hbmLend, 0x80200, 0x8, 16, 8⟩,
   ⟨.hbmLendJob, 0x80280, 0x4, 16, 4⟩,
   ⟨.hbmStackStat, 0x80100, 0x8, 12, 8⟩,
   ⟨.hbmWcmd, 0x80400, 0x4, 64, 4⟩,
   ⟨.hostAgent, 0x40100, 0x8, 8, 8⟩,
   ⟨.hostCtl, 0x40000, 0x8, 1, 8⟩,
   ⟨.hostIpHi, 0x40018, 0x8, 1, 8⟩,
   ⟨.hostIpLo, 0x40020, 0x8, 1, 8⟩,
   ⟨.hostMac, 0x40010, 0x8, 1, 8⟩,
   ⟨.hostStat, 0x40008, 0x8, 1, 8⟩,
   ⟨.pmcBoardStat, 0x30010, 0x8, 1, 8⟩,
   ⟨.pmcDvfsCtl, 0x30000, 0x4, 1, 4⟩,
   ⟨.pmcDvfsStat, 0x30008, 0x8, 1, 8⟩,
   ⟨.pmcEngEn, 0x301C0, 0x4, 1, 4⟩,
   ⟨.pmcEngStat, 0x301C8, 0x8, 1, 8⟩,
   ⟨.pmcLimitCtl, 0x30200, 0x8, 1, 8⟩,
   ⟨.pmcLimitStat, 0x30208, 0x8, 1, 8⟩]

/-- The registers of the device's blocks, part 3. -/
def deviceRegs3 : List RegRow :=
  [⟨.pmcSleepCtl, 0x30018, 0x4, 1, 4⟩,
   ⟨.pmcSleepReq, 0x3001C, 0x4, 1, 4⟩,
   ⟨.pmcTemp, 0x30240, 0x4, 20, 4⟩,
   ⟨.pmcTileEn, 0x30100, 0x8, 4, 8⟩,
   ⟨.pmcTilePend, 0x30120, 0x8, 4, 8⟩,
   ⟨.pmcTileStat, 0x30140, 0x8, 16, 8⟩,
   ⟨.secBootStat, 0x20000, 0x8, 1, 8⟩,
   ⟨.secFuseCtl, 0x200A0, 0x4, 1, 4⟩,
   ⟨.secFuseData, 0x20060, 0x8, 8, 8⟩,
   ⟨.secFuseStat, 0x20050, 0x8, 1, 8⟩,
   ⟨.secFwDigest, 0x20010, 0x8, 8, 8⟩,
   ⟨.solvInstall, 0x500000, 0x4, 1, 4⟩,
   ⟨.tapFoldLog, 0x300000, 0x8, 1, 8⟩,
   ⟨.tstCalCtl, 0x70200, 0x4, 1, 4⟩,
   ⟨.tstDroop, 0x70480, 0x8, 16, 8⟩,
   ⟨.tstHbmEye, 0x70400, 0x8, 12, 8⟩,
   ⟨.tstHbmLb, 0x70100, 0x8, 12, 8⟩,
   ⟨.tstMeshLb, 0x70180, 0x8, 1, 8⟩,
   ⟨.tstPortLb, 0x70000, 0x8, 25, 8⟩,
   ⟨.tstSdStat, 0x70300, 0x8, 25, 8⟩]

/-- The registers of the device's blocks, part 4. -/
def deviceRegs4 : List RegRow :=
  [⟨.tstTherm, 0x70500, 0x4, 20, 4⟩,
   ⟨.uoaArrive, 0xA0200, 0x4, 64, 4⟩,
   ⟨.uoaDigestCtl, 0xA0400, 0x4, 1, 4⟩,
   ⟨.uoaDigestStat, 0xA0408, 0x8, 1, 8⟩,
   ⟨.uoaMstone, 0xA0000, 0x8, 64, 8⟩,
   ⟨.uoaWaysideStat, 0xA0410, 0x8, 1, 8⟩]

/-- The registers of the device's blocks. -/
def deviceRegs : List RegRow := deviceRegs0 ++ deviceRegs1 ++ deviceRegs2 ++ deviceRegs3 ++ deviceRegs4

/-- The registers of a tile's four blocks, from T, part 0. -/
def tileRegs0 : List RegRow :=
  [⟨.cntTsel, 0x3000, 0x8, 8, 4⟩,
   ⟨.cntTsnap, 0x3080, 0x8, 8, 8⟩,
   ⟨.cntTval, 0x3040, 0x8, 8, 8⟩,
   ⟨.tapCtl, 0x1000, 0x4, 1, 4⟩,
   ⟨.tapSlot, 0x1040, 0x8, 16, 8⟩,
   ⟨.tapStat, 0x1008, 0x8, 1, 8⟩,
   ⟨.tileErrStatus, 0x400, 0x4, 1, 4⟩,
   ⟨.tileExcLog, 0x148, 0x8, 1, 8⟩,
   ⟨.tileFaultCnt, 0x408, 0x4, 1, 4⟩,
   ⟨.tileQflags, 0x140, 0x4, 1, 4⟩,
   ⟨.tileQresume, 0x150, 0x4, 1, 4⟩,
   ⟨.tileQseq, 0x120, 0x8, 4, 8⟩,
   ⟨.tileQstat, 0x100, 0x8, 4, 8⟩,
   ⟨.tileResidueCtl, 0x210, 0x4, 1, 4⟩,
   ⟨.tileResidueLog, 0x218, 0x8, 1, 8⟩,
   ⟨.tileShapeCtl, 0x200, 0x4, 1, 4⟩,
   ⟨.tileShapeStat, 0x208, 0x8, 1, 8⟩,
   ⟨.tileSig, 0x180, 0x4, 32, 4⟩,
   ⟨.tileStoreCtl, 0x300, 0x4, 1, 4⟩,
   ⟨.tileStoreEccLog, 0x308, 0x8, 1, 8⟩]

/-- The registers of a tile's four blocks, from T, part 1. -/
def tileRegs1 : List RegRow :=
  [⟨.tileStoreLive, 0x310, 0x8, 4, 8⟩,
   ⟨.tileStoreLiveBytes, 0x330, 0x4, 1, 4⟩,
   ⟨.tileVid, 0x158, 0x4, 1, 4⟩,
   ⟨.uoaEntry, 0x2100, 0x8, 32, 8⟩,
   ⟨.uoaErrLog, 0x2008, 0x8, 1, 8⟩,
   ⟨.uoaStat, 0x2000, 0x8, 1, 8⟩]

/-- The registers of a tile's four blocks, from T. -/
def tileRegs : List RegRow := tileRegs0 ++ tileRegs1

/-- The registers of an engine's block, from E, part 0. -/
def engineRegs0 : List RegRow :=
  [⟨.solvCtl, 0x0, 0x4, 1, 4⟩,
   ⟨.solvLog, 0x20, 0x8, 1, 8⟩,
   ⟨.solvScratchBase, 0x10, 0x8, 1, 8⟩,
   ⟨.solvScratchSize, 0x18, 0x4, 1, 4⟩,
   ⟨.solvStat, 0x8, 0x8, 1, 8⟩,
   ⟨.solvTable, 0x10000, 0x8, 4096, 8⟩]

/-- The registers of an engine's block, from E. -/
def engineRegs : List RegRow := engineRegs0

/-! ### Addresses (R531, R532) -/

/-- The register of a list that holds an address: its name, its instance, and the offset within it. -/
def regIn (rows : List RegRow) (a : Nat) : Option (RegName × Nat × Nat × Nat) :=
  (rows.find? fun r => decide (r.base ≤ a) && decide ((a - r.base) / r.stride < r.count)
      && decide ((a - r.base) % r.stride < r.bytes)).map fun r =>
    (r.name, (a - r.base) / r.stride, (a - r.base) % r.stride, r.bytes)

/-- A register: its name, the tile or engine of its block (0 for a device block), its number there, and its width in
bytes. -/
structure Reg where
  name : RegName
  unit : Nat := 0
  idx : Nat
  bytes : Nat
  /-- Its block is a tile's. -/
  ofTile : Bool := false
deriving DecidableEq, Repr

/-- The register that holds a configuration address, and the offset of the address in it; none where R15 applies. -/
def regAt (a : Nat) : Option (Reg × Nat) :=
  if 0x01000000 ≤ a ∧ a < 0x01400000 then
    (regIn tileRegs (a % 0x4000)).map fun r => (⟨r.1, (a - 0x01000000) / 0x4000, r.2.1, r.2.2.2, true⟩, r.2.2.1)
  else if 0x00600000 ≤ a ∧ a < 0x00800000 then
    (regIn engineRegs (a % 0x20000)).map fun r => (⟨r.1, (a - 0x00600000) / 0x20000, r.2.1, r.2.2.2, false⟩, r.2.2.1)
  else (regIn deviceRegs a).map fun r => (⟨r.1, 0, r.2.1, r.2.2.2, false⟩, r.2.2.1)

/-! ### The capability list (R535 to R539) -/

/-- A row of Table 19.1 as a word of BLOCKS: base, stride in 4 KiB units, count. -/
def blockRows : List (Nat × Nat × Nat) :=
  [(0x00000000, 0, 1), (0x00010000, 0, 1), (0x00020000, 0, 1), (0x00030000, 0, 1), (0x00040000, 0, 1),
   (0x00050000, 0, 1), (0x00060000, 0, 1), (0x00070000, 0, 1), (0x00080000, 0, 1), (0x00090000, 0, 1),
   (0x000A0000, 0, 1), (0x00200000, 0, 1), (0x00400000, 0, 1), (0x00600000, 0x20, 16), (0x01000000, 4, 256),
   (0x01001000, 4, 256), (0x01002000, 4, 256), (0x01003000, 4, 256)]

/-- Word `i` of the capability list, its NEXT fields as at READY. -/
def capWord (f : Fuses) (i : Nat) : Nat :=
  if i = 0 then 0x0000001803010001
  else if i = 1 then 0xDA5C17 * 2 ^ 40 + 0xC351 * 2 ^ 24 + 0x11
  else if i = 2 then recN f.idkHash 0 8
  else if i = 3 then 0x000000B013010002
  else if i < 22 then
    let r := (blockRows[i - 4]?).getD (0, 0, 0)
    (i - 4) * 2 ^ 56 + r.2.2 * 2 ^ 47 + r.2.1 * 2 ^ 26 + r.1
  else if i = 22 then 0x000000C803010003
  else if i = 23 then
    256 * 2 ^ 55 + 16 * 2 ^ 50 + 12 * 2 ^ 46 + 24 * 2 ^ 40 + 64 * 2 ^ 33 + 256 * 2 ^ 24 + 0x7FFF
  else if i = 24 then
    4096 * 2 ^ 51 + 1024 * 2 ^ 40 + 8192 * 2 ^ 26 + 8 * 2 ^ 22 + 512 * 2 ^ 12 + 1024 * 2
  else if i = 25 then 0x0000000002010004
  else 0x020A010101010000

/-- A capability word as it reads now: before the entries are linked only IDENT is there, with NEXT 0 (R536). -/
def State.capVal (s : State) (i : Nat) : Nat :=
  if s.sec.linked then capWord s.fuses i
  else if i = 0 then 0x0000000003010001 else if i < 3 then capWord s.fuses i else 0

/-! ### What registers read as -/

/-- AON_REC_STATc (13 Table 13.12). -/
def State.recStat (s : State) (c : Nat) : Nat :=
  let r := (s.ctx c).recov
  let nfail := (s.ctx c).failed.length
  let un := match s.smap c with
    | none => 0
    | some m => match m.rankOf s.fab.devid with
      | none => 0
      | some k =>
        let l := s.survivors c m k
        let owned := (s.jobTensors c).flatMap fun x => match m.tensorEntry x.tid with
          | some t => if tenMirror t && !x.replica && !m.replica then s.ownedNow c m x t s.fab.devid else []
          | none => []
        if l.length < 2 then owned.length
        else if (s.ctx c).failed.isEmpty then 0
        else (((mirrorPairs l).filter fun p => p.1 == k).map fun p => (s.unmirroredOf c m p.1 p.2).length).foldl (· + ·) 0
  r.phase * 2 ^ 61 + r.cause % 16 * 2 ^ 57 + r.attempt % 256 * 2 ^ 45 + min nfail 2048 * 2 ^ 32 + r.lead % 65536 * 2 ^ 16
    + min un 0xFFFF

/-- FAB_SMAP_STATc (10 Table 10.12). -/
def State.smapStat (s : State) (c : Nat) : Nat :=
  let ups := (List.range 3).map fun d => (s.upPorts (2 * d)).length + (s.upPorts (2 * d + 1)).length
  let dense := if ups.all (· == 0) then 3 else argMax ups
  let place := match s.smap c with
    | none => (0, 0, 0xFFFF, 0xFFFF)
    | some m => match m.rankOf s.fab.devid with
      | none => (0, 0, 0xFFFF, 0xFFFF)
      | some r => (b2n (decide (m.dcount ≤ r)), b2n ((m.domain r).length == 1), (m.mirrorOf r).getD 0xFFFF, r)
  (s.ctx c).smapCode * 2 ^ 56 + dense * 2 ^ 54 + place.1 * 2 ^ 53 + place.2.1 * 2 ^ 52 + place.2.2.1 * 2 ^ 32
    + place.2.2.2 * 2 ^ 16

/-- CTX_STATc (12 Table 12.7). -/
def State.ctxStat (s : State) (c : Nat) : Nat :=
  let x := s.ctx c
  let here (t : Nat) : Bool := (s.tile t).resident == some c
  let res := if x.kind = 0 then !x.map.isEmpty && x.map.all fun t => here t || (s.tile t).lentFrom == some c
    else x.map.any here
  let eval := x.kind == 2 && s.evalPending x.parent && s.nextEval x.parent == some c
  let sw := s.switchPending c || eval || (s.lentTiles c).any s.reclaimable
  x.en.st.code * 2 ^ 62 + x.kind % 4 * 2 ^ 60 + b2n x.classW * 2 ^ 59 + b2n x.pin * 2 ^ 58 + b2n (s.idle c) * 2 ^ 57
    + b2n res * 2 ^ 56 + b2n sw * 2 ^ 55 + (s.lentTiles c).length * 2 ^ 46 + x.client * 2 ^ 32

/-- FAB_PORTn_STAT (09 Table 9.17); ON while a loop-back runs (18 R514). -/
def State.portStat (s : State) (n : Nat) : Nat :=
  let x := s.port n
  s.portState n * 2 ^ 62 + b2n x.en.pendOn * 2 ^ 61 + b2n x.up * 2 ^ 60 + b2n x.lost * 2 ^ 59 + x.ver * 2 ^ 56 + x.dir * 2 ^ 53
    + min x.missed 8 * 2 ^ 49 + x.peer * 2 ^ 32 + x.retries * 2 ^ 16

/-- HOST_STAT (14 Table 14.9). -/
def State.hostStat (s : State) : Nat :=
  let h := s.host
  let l := s.lb 24
  let st := if l.run && !l.waits then 2 else h.en.st.code
  let n := ((List.range 8).filter fun a => (s.slot a).st == 2).length
  st * 2 ^ 62 + b2n h.link * 2 ^ 61 + h.speed * 2 ^ 58 + b2n s.romServes * 2 ^ 57 + b2n h.dadFail * 2 ^ 56 + n * 2 ^ 52
    + h.fcsErr * 2 ^ 32 + h.dup * 2 ^ 16 + h.authFail

/-- PMC_TILE_STATg (16 Table 16.15). -/
def State.tileStat (s : State) (g : Nat) : Nat :=
  let ts := (List.range 256).filter fun t => groupOf t == g
  let nib (t : Nat) : Nat :=
    let x := s.tile t
    4 * x.en.st.code + (if x.en.st = .on then (match x.sub with
      | .run => 0
      | .clockStopped => 1
      | .retained => 2) else 3)
  (ts.reverse.map nib).foldl (fun a n => 16 * a + n) 0

/-- TILE_QSTATq of the resident context (05 Table 5.15). -/
def Queue.stat (q : Queue) : Nat :=
  let st := match q.st with
    | .idle => 0
    | .running => 1
    | .waiting => 2
    | .halted => 3
  let sig := match q.st, q.waits with
    | .waiting, .signal n _ => n
    | _, _ => 0
  st * 2 ^ 62 + q.exc % 16 * 2 ^ 58 + sig % 32 * 2 ^ 53 + fld q.pc 4 44 * 2 ^ 4

/-- The resident queue of a tile. -/
def State.resQueue (s : State) (t q : Nat) : Queue :=
  match s.residentOf t with
  | some p => s.queue p.1 p.2 q
  | none => {}

/-- The resident context's state on a tile. -/
def State.resTc (s : State) (t : Nat) : TileCtx :=
  match s.residentOf t with
  | some p => s.tc p.1 p.2
  | none => {}

/-- SOLV_STAT (07 Table 7.10). -/
def State.solvStat (s : State) (e : Nat) : Nat :=
  let x := s.engine e
  let q := min x.queue.length 512
  match x.run with
  | none => q * 2 ^ 36
  | some r =>
    let st := if r.outcome.isSome then 3 else if r.n ≤ 512 then 1 else 2
    st * 2 ^ 62 + r.post.entry % 512 * 2 ^ 53 + min r.k 64 * 2 ^ 46 + q * 2 ^ 36 + x.items * 2 ^ 29

/-- STATE of UOA_ENTRYn (08 Table 8.11). -/
def EntrySt.code : EntrySt → Nat
  | .free => 0
  | .accumulating => 1
  | .commitHold => 2
  | .paramWait => 3
  | .fetchStall => 4
  | .suspectHeld => 5
  | .applying => 6
  | .fixedWait => 7

/-- UOA_STAT (08 Table 8.9). -/
def Uoa.stat (u : Uoa) : Nat :=
  let l := (u.entries.map fun e => e.2.st.code).filter (· != 0)
  let held := (l.filter fun k => k == 2 || k == 3 || k == 4).length
  b2n (!u.waiting.isEmpty && u.freeSlot.isNone) * 2 ^ 37 + b2n (l.contains 5) * 2 ^ 36 + held * 2 ^ 30 + l.length * 2 ^ 24

/-- Pages with a COUNT above 0 (08 Table 8.16). -/
def State.pendingPages (s : State) : Nat :=
  (s.jobCtxs.map fun c => ((s.jobTensors c).map fun x =>
    let n := x.pages (s.heldFrags c x).length
    ((List.range n).filter fun p => logCount (s.logHead c x p) != 0).length).foldl (· + ·) 0).foldl (· + ·) 0

/-- A counter's COUNT with its OVF, and its snapshot (17 Table 17.6). -/
def Counter.val (c : Counter) : Nat := b2n c.ovf * 2 ^ 63 + c.count
def Counter.snapVal (c : Counter) : Nat := b2n c.snapOvf * 2 ^ 63 + c.snap

/-- The counters of a tile and of the device. -/
def State.tileCounter (s : State) (t n : Nat) : Counter := Tbl.get {} (s.tile t).counters n
def State.chipCounter (s : State) (n : Nat) : Counter := Tbl.get {} s.cnt.chip n

/-- RUN, DONE and REFUSED of a loop-back register. -/
def LoopBack.head (l : LoopBack) : Nat := b2n l.run * 2 ^ 63 + b2n l.done * 2 ^ 62

/-- The bits of `n` Booleans, bit 0 first. -/
def bitsOf (n : Nat) (f : Nat → Bool) : Nat :=
  ((List.range n).map fun i => b2n (f i) * 2 ^ i).foldl (· + ·) 0

/-- The free value that the access being served has drawn (`State.beforeAccess`). -/
def State.accessFree (s : State) : Nat := Config.freeNat (s.free - 1)

/-- Sealed pages of the tile are being read out: sub-tiles of its resident context have been sent and their engine has
not summed them (06 R173, R184). When the read-out of a page ends is a matter of cycles, so the bit is then free
(DESIGN CHOICE, log 61). -/
def State.sealing (s : State) (t : Nat) : Bool :=
  match s.residentOf t with
  | none => false
  | some p => (s.engines.any fun g => g.2.subtiles.any fun y => y.ctx == p.1 && y.vt == p.2)
      && bit s.accessFree 0

/-- What a register of a tile's blocks reads as. -/
def State.tileVal (s : State) (n : RegName) (t i : Nat) : Nat :=
  let x := s.tile t
  let tc := s.resTc t
  match n with
  | .cntTsel => (s.tileCounter t i).sel.toNat
  | .cntTsnap => (s.tileCounter t i).snapVal
  | .cntTval => (s.tileCounter t i).val
  | .tapCtl => x.tapCtl.toNat
  | .tapStat =>
    x.tapSealed % 2 ^ 32 * 2 ^ 32 + min tc.latchUse latchSize * 2 ^ 16 + b2n (s.sealing t) * 2 + b2n (!tc.latch.isEmpty)
  | .tapSlot =>
    let y := tc.slot i
    b2n y.bound * 2 ^ 63 + y.side % 2 * 2 ^ 62 + b2n y.suspect * 2 ^ 61 + y.fid % 2 ^ 24 * 2 ^ 32 + min y.samples (2 ^ 32 - 1)
  | .tileErrStatus => x.errStatus.toNat
  | .tileExcLog => x.excLog.toNat
  | .tileFaultCnt => x.faultCnt
  | .tileQflags => ((List.range 4).map fun q => (s.resQueue t q).flags.toNat * 256 ^ q).foldl (· + ·) 0
  | .tileQseq => (s.resQueue t i).num % 2 ^ 64
  | .tileQstat => (s.resQueue t i).stat
  | .tileResidueCtl => x.residueCtl.toNat
  | .tileResidueLog => x.residueLog.toNat
  | .tileShapeCtl => (x.shapePend.getD x.shapeCtl).toNat
  | .tileShapeStat =>
    x.dummy % 2 ^ 32 * 2 ^ 32 + min x.gap 0xFFFF * 2 ^ 16 + b2n x.filling * 512 + b2n x.ramping * 256 + x.level
  | .tileSig => tc.sig i
  | .tileStoreCtl => x.storeCtl.toNat
  | .tileStoreEccLog => x.eccLog.toNat
  | .tileStoreLive => fld tc.live.toNat (64 * i) 64
  | .tileStoreLiveBytes => 16384 * popcount 256 tc.live.toNat
  | .tileVid =>
    (match s.residentOf t with
    | some p => (s.ctx p.1).map.length * 256 + p.2
    | none => 0)
  | .uoaEntry =>
    let e := (s.uoa t).entry i
    e.st.code * 2 ^ 61 + b2n e.suspect * 2 ^ 60 + e.tid % 2 ^ 24 * 2 ^ 32 + e.recv % 2 ^ 32
  | .uoaErrLog => (s.uoa t).errLog.toNat
  | .uoaStat => (s.uoa t).stat
  | _ => 0

/-- What a register of an engine's block reads as. -/
def State.engineVal (s : State) (n : RegName) (e i : Nat) : Nat :=
  let x := s.engine e
  match n with
  | .solvCtl => x.ctl.toNat
  | .solvLog => x.log.toNat
  | .solvScratchBase => x.scratchBase.toNat
  | .solvScratchSize => x.scratchSize.toNat
  | .solvStat => s.solvStat e
  | .solvTable => recN (Tbl.get [] x.table (i / 8)) (8 * (i % 8)) 8
  | _ => 0

/-- What a register of AON_, SEC_ or PMC_ reads as. -/
def State.mgmtVal (s : State) (n : RegName) (i : Nat) : Nat :=
  let k := s.pmc
  match n with
  | .aonCap => s.capVal i
  | .aonDiagAt => (s.ctx i).recov.diagAt
  | .aonFence => fld s.aon.fence.toNat (64 * i) 64
  | .aonRecCtl => s.aon.recCtl.toNat
  | .aonRecStat => s.recStat i
  | .aonSrecData =>
    let sel := s.aon.srecSel.toNat
    recN (((s.ctx (fld sel 8 6)).recov.records[fld sel 0 6]?).getD []) (8 * i) 8
  | .aonSrecSel => s.aon.srecSel.toNat
  | .aonWdog => s.aon.wdExp % 32 * 256 + b2n s.aon.expired * 4 + b2n s.aon.wdEn * 2
  | .secBootStat => s.sec.stage * 2 ^ 60 + s.sec.lastFail * 2 ^ 56 + s.sec.fails * 2 ^ 32 + s.sec.fwKey % 2
  | .secFuseCtl => b2n s.sec.prog.isSome * 2 ^ 30 + s.sec.err % 4 * 2 ^ 28 + s.sec.target % 256
  | .secFuseData => (Tbl.get (0 : W64) s.sec.fuseData i).toNat
  | .secFuseStat =>
    let f := s.fuses
    f.lifecycle % 4 * 2 ^ 62 + f.svn % 128 * 2 ^ 55 + f.fwRevoke % 4 * 2 ^ 53 + bitsOf 8 (fun j => (f.agent j).revoked) * 2 ^ 16
      + bitsOf 8 (fun j => (f.agent j).admin) * 2 ^ 8 + bitsOf 8 fun j => (f.agent j).valid
  | .secFwDigest => if s.sec.header.isEmpty then 0 else recN (sha3_512 s.sec.header) (8 * i) 8
  | .pmcBoardStat =>
    let time := if k.throttled then s.accessFree else k.thrTime
    b2n k.throttled * 2 ^ 63 + time % 2 ^ 31 * 2 ^ 32 + k.thrGlitch * 2 ^ 16 + k.rstGlitch
  | .pmcDvfsCtl => k.dvfsCtl.toNat
  | .pmcDvfsStat =>
    k.changes * 2 ^ 48 + b2n k.raising.isSome * 2 ^ 11 + k.causes * 2 ^ 8 + k.pwrCap * 2 ^ 6 + k.thermCap * 2 ^ 4 + k.point
  | .pmcEngEn => k.engEn
  | .pmcEngStat => ((List.range 16).map fun e =>
      (4 * (s.engine e).en.st.code + 2 * b2n (s.engine e).en.pendOn) * 16 ^ e).foldl (· + ·) 0
  | .pmcLimitCtl => k.limitCtl.toNat
  | .pmcLimitStat => b2n k.trip * 2 ^ 63 + k.pwr1s * 2 ^ 32 + k.pwr10ms * 2 ^ 16 + k.hot * 2 ^ 8 + k.tmax
  | .pmcSleepCtl => k.sleepCtl.toNat + k.deepState
  | .pmcSleepReq => b2n k.deep * 2 ^ 31
  | .pmcTemp => Tbl.get 0 k.temps i
  | .pmcTileEn => fld k.tileEn.toNat (64 * i) 64
  | .pmcTilePend => bitsOf 64 fun j => (s.tile (64 * i + j)).en.pendOn
  | .pmcTileStat => s.tileStat i
  | _ => 0

/-- What a register of HOST_, CTX_, CNT_ or TST_ reads as. -/
def State.hostVal (s : State) (n : RegName) (i : Nat) : Nat :=
  let h := s.host
  let b := s.ctxBlk
  match n with
  | .hostAgent =>
    let a := s.slot i
    a.st * 2 ^ 62 + b2n a.admin * 2 ^ 61 + a.events.length * 2 ^ 48 + a.dropped * 2 ^ 32 + a.session % 2 ^ 32
  | .hostCtl => h.ctl.toNat + h.mode * 2 + b2n h.want
  | .hostIpHi => h.ipHi.toNat
  | .hostIpLo => h.ipLo.toNat
  | .hostMac => s.fuses.mac % 2 ^ 48
  | .hostStat => s.hostStat
  | .ctxAdmit =>
    let free := ((List.range 64).filter fun c => !s.isAdmitted c).length
    b.evicted * 2 ^ 48 + b.refused * 2 ^ 32 + b.hits * 2 ^ 16 + free
  | .ctxClient => (s.client i).admitted * 2 ^ 40 + (s.client i).completed * 2 ^ 20 + (s.client i).refused
  | .ctxCtl => b.ctl.toNat
  | .ctxStat => s.ctxStat i
  | .ctxSwitchLog => b.log.toNat
  | .ctxUse => (s.ctx i).stamp
  | .cntCsel => (s.chipCounter i).sel.toNat
  | .cntCsnap => (s.chipCounter i).snapVal
  | .cntCtl => s.cnt.ctl.toNat
  | .cntCval => (s.chipCounter i).val
  | .cntSnapM => s.cnt.snapM
  | .cntTrcBase => s.cnt.trcBase.toNat
  | .cntTrcCtl => s.cnt.trcCtl.toNat
  | .cntTrcPtr => s.cnt.tail * 2 ^ 32 + s.cnt.head
  | .cntTrcSize => s.cnt.trcSize.toNat
  | .cntTrcStat => b2n s.cnt.lost * 2 ^ 63 + s.cnt.drops
  | .tstCalCtl => s.tst.calCtl.toNat
  | .tstDroop => (s.droop i).events * 2 ^ 48 + (s.droop i).thresh * 2 ^ 32
  | .tstHbmEye =>
    let e : Eye := Tbl.get {} s.tst.eyes i
    e.steps * 2 ^ 16 + e.margin * 2 ^ 8 + e.pc
  | .tstHbmLb =>
    let l := s.hbmLb i
    l.head + b2n l.refused * 2 ^ 61 + l.depth * 2 ^ 59 + l.errors
  | .tstMeshLb =>
    let l := s.tst.mesh
    l.head + b2n l.refused * 2 ^ 61 + l.src * 2 ^ 40 + l.dst * 2 ^ 32 + l.corr * 2 ^ 16 + l.errors
  | .tstPortLb =>
    let l := s.lb i
    l.head + l.depth * 2 ^ 58 + l.dur * 2 ^ 53 + l.errors
  | .tstSdStat => (Tbl.get (0 : W64) s.tst.sd i).toNat
  | .tstTherm =>
    let x : Therm := Tbl.get {} s.tst.therm i
    b2n x.fault * 2 ^ 31 + wrapInt 16 x.offset
  | _ => 0

/-- What a register of HBM_, FAB_ or of the device's UOA_, TAP_ and SOLV_ blocks reads as. -/
def State.dataVal (s : State) (n : RegName) (i : Nat) : Nat :=
  let f := s.fab
  match n with
  | .hbmBundleAddr => (s.ctx i).bundleAddr.toNat
  | .hbmBundleAt => (s.ctx i).bundleAt
  | .hbmBundleStat =>
    let b := (s.ctx i).bundle
    b.st * 2 ^ 61 + b.code * 2 ^ 56 + b.live % 65536 * 2 ^ 32 + b.chunk % 2 ^ 32
  | .hbmCtl => s.hbm.ctl.toNat
  | .hbmEccLog => s.hbm.eccLog.toNat
  | .hbmLayout => s.hbm.layout.toNat
  | .hbmLend => s.lend i
  | .hbmLendJob => Tbl.get 0 s.hbm.lendJob i
  | .hbmStackStat =>
    let x := s.stack i
    let st := match x.st with
      | .training => 0
      | .active => 1
      | .selfRefresh => 2
      | .lost => 3
    st * 2 ^ 62 + x.cause * 2 ^ 59 + x.temp * 2 ^ 48 + x.odecc * 2 ^ 32 + x.ce * 2 ^ 16 + x.ue
  | .hbmWcmd => (s.ctx i).wHead * 256 + (s.ctx i).wTail
  | .fabCtl => f.ctl.toNat
  | .fabEpoch => s.jobEpoch i
  | .fabFlowStat =>
    let used := (f.colls.filter fun k => k.entry.isSome).length + f.streams.length
    let mgmt := f.colls.any fun k => k.entry.isNone && k.begun
    b2n mgmt * 2 ^ 63 + f.refused * 2 ^ 32 + f.streams.length * 2 ^ 16 + used
  | .fabId => f.id.toNat
  | .fabLog => f.log.toNat
  | .fabPipeq =>
    let e := s.endpoint i
    b2n e.valid * 2 ^ 63 + b2n e.receiver * 2 ^ 62 + b2n e.stalled * 2 ^ 61 + e.ctx % 64 * 2 ^ 55 + e.qidx % 65536 * 2 ^ 32
      + min e.occ 0xFFFF * 2 ^ 16 + min e.high 0xFFFF
  | .fabPortCred => ((List.range 4).map fun v => min ((s.port i).credits v) 0xFFFF * 65536 ^ v).foldl (· + ·) 0
  | .fabPortCtl =>
    let l := s.lb i
    (s.port i).ctl.toNat + b2n (if l.run then l.want else (s.port i).en.wants)
  | .fabPortStat => s.portStat i
  | .fabSmapStat => s.smapStat i
  | .fabSwitchAddr => (s.ctx i).switchAddr.toNat
  | .fabSwitchAt => (s.ctx i).switchAt
  | .uoaArrive => s.arriveBits i
  | .uoaDigestCtl => s.uoaDev.digestCtl.toNat
  | .uoaDigestStat =>
    let busy := s.jobCtxs.any fun c => s.digestDue c && ((s.ctx c).job.bind (·.digest)) != some (s.ctx c).mstone
    let sync := s.jobCtxs.any fun c => (s.ctx c).job.any (·.resync)
    b2n busy * 2 ^ 63 + b2n sync * 2 ^ 62 + s.uoaDev.mismatch * 2 ^ 32 + s.uoaDev.lastM % 2 ^ 32
  | .uoaMstone => (s.ctx i).mstone
  | .uoaWaysideStat =>
    b2n (!s.uoaDev.stalls.isEmpty) * 2 ^ 63 + s.uoaDev.forced * 2 ^ 16 + min s.pendingPages 0xFFFF
  | .tapFoldLog => s.foldLog.toNat
  | .solvInstall => min s.installs.length 8192
  | _ => 0

/-- The block of a register, by which what it reads as is found. -/
inductive RegBlock where
  | tile | engine | mgmt | host | data
deriving DecidableEq, Repr

/-- The blocks of the device's registers. -/
def RegName.block : RegName → RegBlock
  | .aonCap | .aonDiagAt | .aonFence | .aonRecCmd | .aonRecCtl | .aonRecStat | .aonSrecData | .aonSrecSel | .aonWdog
  | .pmcBoardStat | .pmcDvfsCtl | .pmcDvfsStat | .pmcEngEn | .pmcEngStat | .pmcLimitCtl | .pmcLimitStat | .pmcSleepCtl
  | .pmcSleepReq | .pmcTemp | .pmcTileEn | .pmcTilePend | .pmcTileStat | .secBootStat | .secFuseCtl | .secFuseData
  | .secFuseStat | .secFwDigest => .mgmt
  | .hostAgent | .hostCtl | .hostIpHi | .hostIpLo | .hostMac | .hostStat | .ctxAdmit | .ctxClient | .ctxCtl | .ctxStat
  | .ctxSwitchLog | .ctxUse | .cntCsel | .cntCsnap | .cntCtl | .cntCval | .cntSnapM | .cntTrcBase | .cntTrcCtl
  | .cntTrcPtr | .cntTrcSize | .cntTrcStat | .tstCalCtl | .tstDroop | .tstHbmEye | .tstHbmLb | .tstMeshLb | .tstPortLb
  | .tstSdStat | .tstTherm => .host
  | .solvCtl | .solvLog | .solvScratchBase | .solvScratchSize | .solvStat | .solvTable => .engine
  | .hbmBundleAddr | .hbmBundleAt | .hbmBundleStat | .hbmCtl | .hbmEccLog | .hbmLayout | .hbmLend | .hbmLendJob
  | .hbmStackStat | .hbmWcmd | .fabCtl | .fabEpoch | .fabFlowStat | .fabId | .fabLog | .fabPipeq | .fabPortCred
  | .fabPortCtl | .fabPortStat | .fabSmapStat | .fabSwitchAddr | .fabSwitchAt | .uoaArrive | .uoaDigestCtl
  | .uoaDigestStat | .uoaMstone | .uoaWaysideStat | .tapFoldLog | .solvInstall => .data
  | .cntTsel | .cntTsnap | .cntTval | .tapCtl | .tapSlot | .tapStat | .tileErrStatus | .tileExcLog | .tileFaultCnt
  | .tileQflags | .tileQresume | .tileQseq | .tileQstat | .tileResidueCtl | .tileResidueLog | .tileShapeCtl
  | .tileShapeStat | .tileSig | .tileStoreCtl | .tileStoreEccLog | .tileStoreLive | .tileStoreLiveBytes | .tileVid
  | .uoaEntry | .uoaErrLog | .uoaStat => .tile

/-- What a register reads as. -/
def State.regVal (s : State) (r : Reg) : Nat :=
  match r.name.block with
  | .tile => if (s.tile r.unit).answers then s.tileVal r.name r.unit r.idx else 0
  | .engine => s.engineVal r.name r.unit r.idx
  | .mgmt => s.mgmtVal r.name r.idx
  | .host => s.hostVal r.name r.idx
  | .data => s.dataVal r.name r.idx

/-! ### Fields that a read clears (00 Table 0.3) -/

/-- The RC fields of a register: lowest bit and width. -/
def RegName.clears : RegName → List (Nat × Nat)
  | .uoaDigestStat => [(32, 16)]
  | .uoaWaysideStat => [(16, 16)]
  | .fabFlowStat => [(32, 16)]
  | .fabPortStat => [(16, 16)]
  | .fabPipeq => [(0, 16)]
  | .hbmStackStat => [(32, 16), (16, 16), (0, 16)]
  | .ctxAdmit => [(48, 16), (32, 16), (16, 16)]
  | .ctxClient => [(40, 20), (20, 20), (0, 20)]
  | .hostStat => [(32, 16), (16, 16), (0, 16)]
  | .hostAgent => [(32, 16)]
  | .pmcDvfsStat => [(48, 16)]
  | .pmcBoardStat => [(16, 16), (0, 16)]
  | .tstHbmEye => [(16, 16)]
  | .tstDroop => [(48, 16)]
  | .cntTrcStat => [(0, 32)]
  | _ => []

/-- One RC field of a register cleared, by its lowest bit. -/
def State.clearField (s : State) (r : Reg) (lo : Nat) : State :=
  let i := r.idx
  match r.name with
  | .uoaDigestStat => { s with uoaDev := { s.uoaDev with mismatch := 0 } }
  | .uoaWaysideStat => { s with uoaDev := { s.uoaDev with forced := 0 } }
  | .fabFlowStat => { s with fab := { s.fab with refused := 0 } }
  | .fabPortStat => s.setPort i { s.port i with retries := 0 }
  | .fabPipeq => s.setEndpoint i { s.endpoint i with high := 0 }
  | .hbmStackStat =>
    let x := s.stack i
    s.setStack i { x with odecc := if lo = 32 then 0 else x.odecc, ce := if lo = 16 then 0 else x.ce
                          ue := if lo = 0 then 0 else x.ue }
  | .ctxAdmit =>
    let b := s.ctxBlk
    { s with ctxBlk := { b with evicted := if lo = 48 then 0 else b.evicted, refused := if lo = 32 then 0 else b.refused
                                hits := if lo = 16 then 0 else b.hits } }
  | .ctxClient =>
    let k := s.client i
    s.setClient i { admitted := if lo = 40 then 0 else k.admitted, completed := if lo = 20 then 0 else k.completed
                    refused := if lo = 0 then 0 else k.refused }
  | .hostStat =>
    let h := s.host
    { s with host := { h with fcsErr := if lo = 32 then 0 else h.fcsErr, dup := if lo = 16 then 0 else h.dup
                              authFail := if lo = 0 then 0 else h.authFail } }
  | .hostAgent => s.setSlot i { s.slot i with dropped := 0 }
  | .pmcDvfsStat => { s with pmc := { s.pmc with changes := 0 } }
  | .pmcBoardStat =>
    let k := s.pmc
    { s with pmc := { k with thrGlitch := if lo = 16 then 0 else k.thrGlitch
                             rstGlitch := if lo = 0 then 0 else k.rstGlitch } }
  | .tstHbmEye =>
    let e : Eye := Tbl.get {} s.tst.eyes i
    { s with tst := { s.tst with eyes := Tbl.set s.tst.eyes i { e with steps := 0 } } }
  | .tstDroop => s.setDroop i { s.droop i with events := 0 }
  | .cntTrcStat => { s with cnt := { s.cnt with drops := 0 } }
  | _ => s

/-- The RC fields that lie wholly within the bits `lo` to `lo + w - 1`, cleared (14 R439). -/
def State.clearRead (s : State) (r : Reg) (lo w : Nat) : State :=
  (r.name.clears.filter fun f => decide (lo ≤ f.1) && decide (f.1 + f.2 ≤ lo + w)).foldl
    (fun (st : State) f => st.clearField r f.1) s

/-- What an access to a register needs first: a tile is started or awake (R533), timed counts and the states of the
update-on-arrival entries are brought up to date. -/
def State.beforeAccess (s : State) (r : Reg) : State :=
  if r.ofTile then
    let s1 := s.tileAccess r.unit
    match r.name with
    | .cntTsel | .cntTval => s1.settleTile r.unit
    | .tapStat => { s1 with free := s1.free + 1 }
    | .uoaEntry | .uoaStat | .uoaErrLog =>
      (s1.uoa r.unit).entries.keys.foldl (fun (st : State) k => st.settleEntry r.unit k) s1
    | _ => s1
  else
    match r.name with
    | .cntCsel | .cntCval => s.settleChip
    | .pmcBoardStat => { s with free := s.free + 1 }
    | _ => s

end Sys2Proof.Machine
end

