-- ==== Sys2Proof/Machine/CfgSpace.lean ====
section
/-! DEFINITION. Accesses to configuration space: what a write of a register does by the access codes of its fields
(00_scope R13 to R15), CFG_READ and CFG_WRITE over NCP (14_host_port R439) and over JTAG (18_test_calibration
R524).
Assumption log: log 97 (DEDUCED). -/

namespace Sys2Proof.Machine

/-- The state that a meaning leaves, and the state before where it leaves none. -/
def stateOr (s : State) (r : Res) : State :=
  match r with
  | .next t => t
  | .fault _ => s
  | .refused _ => s

/-- A write of `w` bits of a register from bit `lo` up: the value that a register of RW fields takes, and the bits
written as 1. -/
structure RegWrite where
  lo : Nat
  w : Nat
  /-- The register with the written bits replaced. -/
  merged : Nat
  /-- The bits written as 1, in place. -/
  ones : Nat
deriving DecidableEq, Repr

/-- The write reaches bit `k`. -/
def RegWrite.covers (x : RegWrite) (k : Nat) : Bool := decide (x.lo ≤ k) && decide (k < x.lo + x.w)
/-- Bit `k` is written as 1. -/
def RegWrite.sets (x : RegWrite) (k : Nat) : Bool := bit x.ones k
/-- The fields of `mask` as written, 32 and 64 bits wide. -/
def RegWrite.w32 (x : RegWrite) (mask : W32) : W32 := BitVec.ofNat 32 x.merged &&& mask
def RegWrite.w64 (x : RegWrite) (mask : W64) : W64 := BitVec.ofNat 64 x.merged &&& mask
/-- The bits that are written, `n` of them from bit 0, at which `p` says whether a 1 is wanted. -/
def RegWrite.bits (x : RegWrite) (n : Nat) (one : Bool) : List Nat :=
  (List.range n).filter fun k => x.covers k && bit x.merged k == one

/-- A log whose VALID bit (bit 63) is cleared by writing it as 1. -/
def clearValid (x : RegWrite) (log : W64) : W64 := if x.sets 63 then log &&& 0x7FFFFFFFFFFFFFFF else log

/-- A counter's COUNT replaced by a write, and OVF cleared by a 1 (17 Table 17.6). -/
def Counter.written (c : Counter) (x : RegWrite) : Counter :=
  { c with count := x.merged % 2 ^ 48, ovf := c.ovf && !x.sets 63 }

/-! ### The registers of a tile -/

/-- A write of a register of a tile's blocks, the tile being ON, STARTING or STOPPING. -/
def State.writeTile (s : State) (n : RegName) (t i : Nat) (x : RegWrite) : State :=
  let y := s.tile t
  match n with
  | .cntTsel =>
    let c := { s.tileCounter t i with sel := x.w64 0xFFC001FF }
    s.setTile t { y with counters := Tbl.set y.counters i c }
  | .cntTval => s.setTile t { y with counters := Tbl.set y.counters i ((s.tileCounter t i).written x) }
  | .tapCtl => stateOr s (execTapCtlWrite t (x.w32 1) s)
  | .tileErrStatus => s.setTile t { y with errStatus := y.errStatus &&& ~~~(BitVec.ofNat 32 x.ones &&& 0x3F) }
  | .tileExcLog => s.setTile t { y with excLog := clearValid x y.excLog }
  | .tileQflags =>
    (match s.residentOf t with
    | none => s
    | some p => (List.range 4).foldl (fun (st : State) q =>
        let z := st.queue p.1 p.2 q
        st.setQueue p.1 p.2 q { z with flags := z.flags &&& ~~~(BitVec.ofNat _ (fld x.ones (8 * q) 8)) }) s)
  | .tileQresume => stateOr s (execTileQresumeWrite t (BitVec.ofNat 32 x.ones) s)
  | .tileQstat => stateOr s (execTileQstatPcWrite t i (BitVec.ofNat 64 x.merged) s)
  | .tileResidueCtl => s.setTile t { y with residueCtl := x.w32 0xF1 }
  | .tileShapeCtl => stateOr s (execTileShapeCtlWrite t (x.w32 0xF30) s)
  | .tileStoreCtl => s.setTile t { y with storeCtl := x.w32 0x10F }
  | .tileStoreLive => stateOr s (execTileStoreLiveWrite t i (BitVec.ofNat 64 x.merged) s)
  | .uoaErrLog => s.setUoa t { s.uoa t with errLog := clearValid x (s.uoa t).errLog }
  | _ => s

/-! ### The registers of an engine -/

/-- A write of a register of an engine's block. The scratch registers are ignored while a product of a large
refresh runs (07 R216, R217). -/
def State.writeEngine (s : State) (n : RegName) (e : Nat) (x : RegWrite) : State :=
  let y : Engine := s.engine e
  let busy := y.run.any fun r => r.outcome.isNone && decide (512 < r.n)
  let put (z : Engine) : State := { s with engines := Tbl.set s.engines e z }
  match n with
  | .solvCtl => put { y with ctl := x.w32 0x007F7F01 }
  | .solvLog => put { y with log := clearValid x y.log }
  | .solvScratchBase => if busy then s else put { y with scratchBase := x.w64 0xFFFFFFFFFFFFF000 }
  | .solvScratchSize => if busy then s else put { y with scratchSize := x.w32 0xFFFFFFFF }
  | _ => s

/-! ### AON_, SEC_ and PMC_ -/

/-- The command bits of AON_REC_CMDc, in ascending order (13 Table 13.13). -/
def State.recCmd (s : State) (c : Nat) (x : RegWrite) : State :=
  let s1 := if x.sets 0 then stateOr s (execReplay c s) else s
  let s2 := if x.sets 1 then stateOr s1 (execResume c s1) else s1
  if x.sets 2 then stateOr s2 (execRestart c s2) else s2

/-- AON_WDOG written: WD_EXP, EN set by a 1, and PET (13 Table 13.10). -/
def State.wdogWrite (s : State) (x : RegWrite) : State :=
  let s1 : State := { s with aon := { s.aon with wdExp := fld x.merged 8 5 } }
  let s2 := if x.sets 1 then stateOr s1 (execWatchdogEnable s1) else s1
  if x.sets 0 then stateOr s2 (execPet s2) else s2

/-- PMC_SLEEP_REQ written: DEEP asks for deep sleep, and 0 takes the request back before entry (16 Table 16.13). -/
def State.sleepReq (s : State) (x : RegWrite) : State :=
  let k := s.pmc
  if !x.covers 31 then s
  else if x.sets 31 then
    { s with pmc := { k with deep := true, deepState := if k.deepState = 0 then 1 else k.deepState } }
  else { s with pmc := { k with deep := false, deepState := if k.deepState = 1 then 0 else k.deepState } }

/-- A write of a register of AON_, SEC_ or PMC_. AON_DIAG_ATc set to another step drops the first digest of the old
one (13 R417). -/
def State.writeMgmt (s : State) (n : RegName) (i : Nat) (x : RegWrite) : State :=
  let k := s.pmc
  match n with
  | .aonRecCtl => { s with aon := { s.aon with recCtl := x.w32 0x07FFFFFF } }
  | .aonWdog => s.wdogWrite x
  | .aonFence => stateOr s (execAonFenceWrite i (BitVec.ofNat 64 x.ones) s)
  | .aonRecCmd => s.recCmd i x
  | .aonDiagAt =>
    let c := s.ctx i
    let first := if x.merged = c.recov.diagAt then c.recov.diagDigest else none
    s.setCtx i { c with recov := { c.recov with diagAt := x.merged, diagDigest := first } }
  | .aonSrecSel => { s with aon := { s.aon with srecSel := x.w32 0x3F3F } }
  | .secFuseData => { s with sec := { s.sec with fuseData := Tbl.set s.sec.fuseData i (BitVec.ofNat 64 x.merged) } }
  | .secFuseCtl => s.fuseCtl (fld x.merged 0 8) (x.sets 31)
  | .pmcDvfsCtl => { s with pmc := { k with dvfsCtl := x.w32 0xFFFF0033 } }
  | .pmcSleepCtl => { s with pmc := { k with sleepCtl := x.w32 0x001F0F00 } }
  | .pmcSleepReq => s.sleepReq x
  | .pmcTileEn =>
    let s1 := (x.bits 64 true).foldl (fun (st : State) j => st.enableTile (64 * i + j)) s
    (x.bits 64 false).foldl (fun (st : State) j => st.disableTile (64 * i + j)) s1
  | .pmcEngEn =>
    let s1 := (x.bits 16 true).foldl (fun (st : State) e => st.enableEngine e) s
    (x.bits 16 false).foldl (fun (st : State) e => st.disableEngine e) s1
  | .pmcLimitCtl => { s with pmc := { k with limitCtl := x.w64 0xFFFFFFFF000000FF } }
  | _ => s

/-! ### HOST_, CTX_, CNT_ and TST_ -/

/-- HOST_CTL written: EN enables or disables the port; MODE keeps its value when its code is reserved (14 R446). -/
def State.hostCtlWrite (s : State) (x : RegWrite) : State :=
  let mode := fld x.merged 1 3
  let s1 : State := { s with host := { s.host with
    ctl := x.w64 0xFFFF000007FE0F00, mode := if mode = 7 then s.host.mode else mode } }
  if !x.covers 0 then s1 else if bit x.merged 0 then s1.enableHost else s1.disableHost

/-- CNT_CTL written (17 Table 17.7). -/
def State.cntCtlWrite (s : State) (x : RegWrite) : State :=
  let ctl := (s.cnt.ctl &&& ~~~0xBF000000#32) ||| x.w32 0xBF000000
  let s1 : State := { s with cnt := { s.cnt with ctl := ctl } }
  if x.sets 30 then stateOr s1 (execSnapNow s1) else s1

/-- A loop-back's RUN as written, for a register whose other fields are merged. -/
def RegWrite.run (x : RegWrite) : Nat := setFld x.merged 63 1 (b2n (x.sets 63))

/-- A write of a register of HOST_, CTX_, CNT_ or TST_. -/
def State.writeHost (s : State) (n : RegName) (i : Nat) (x : RegWrite) : State :=
  let tracing := bit s.cnt.trcCtl.toNat 63
  match n with
  | .hostCtl => s.hostCtlWrite x
  | .hostIpHi => { s with host := { s.host with ipHi := BitVec.ofNat 64 x.merged } }
  | .hostIpLo => stateOr s (execHostIpLoWrite (BitVec.ofNat 64 x.merged) s)
  | .ctxCtl => { s with ctxBlk := { s.ctxBlk with ctl := x.w32 0x00FFFFFF } }
  | .cntCsel =>
    { s with cnt := { s.cnt with chip := Tbl.set s.cnt.chip i { s.chipCounter i with sel := x.w64 0xFFFFE000000001FF } } }
  | .cntCval => { s with cnt := { s.cnt with chip := Tbl.set s.cnt.chip i ((s.chipCounter i).written x) } }
  | .cntCtl => s.cntCtlWrite x
  | .cntTrcCtl => s.writeTrcCtl (BitVec.ofNat 64 x.merged)
  | .cntTrcBase => if tracing then s else { s with cnt := { s.cnt with trcBase := x.w64 0xFFFFFFFFFFFFF000 } }
  | .cntTrcSize => if tracing then s else { s with cnt := { s.cnt with trcSize := x.w32 0xFFFFF } }
  | .cntTrcPtr => { s with cnt := { s.cnt with tail := fld x.merged 32 32 } }
  | .cntTrcStat => { s with cnt := { s.cnt with lost := s.cnt.lost && !x.sets 63 } }
  | .tstPortLb => s.writePortLb i x.run
  | .tstHbmLb => s.writeHbmLb i x.run
  | .tstMeshLb => s.writeMeshLb x.run
  | .tstCalCtl => stateOr s (execCalFreezeWrite (x.w32 0xF) s)
  | _ => s

/-! ### HBM_, FAB_ and the device blocks of UOA_, TAP_ and SOLV_ -/

/-- FAB_PORTn_CTL written (09 Table 9.16). -/
def State.portCtlWrite (s : State) (p : Nat) (x : RegWrite) : State :=
  let s1 := s.setPort p { s.port p with ctl := x.w32 0xF0 }
  if !x.covers 0 then s1 else if bit x.merged 0 then s1.enablePort p else s1.disablePort p

/-- The command bits of HBM_BUNDLE_STATc (11 Table 11.15). -/
def State.bundleCmd (s : State) (c : Nat) (x : RegWrite) : State :=
  let s1 := if x.sets 54 then stateOr s (execAbort c s) else s
  if x.sets 55 then stateOr s1 (execRetry c s1) else s1

/-- A write of a register of HBM_, FAB_ or of the device's UOA_, TAP_ and SOLV_ blocks. -/
def State.writeData (s : State) (n : RegName) (i : Nat) (x : RegWrite) : State :=
  let h := s.hbm
  let f := s.fab
  let c := s.ctx i
  match n with
  | .hbmBundleAddr => s.setCtx i { c with bundleAddr := x.w64 0xFFFFFFFFFFFFFFC0 }
  | .hbmBundleAt => stateOr s (execHbmBundleAtWrite i x.merged s)
  | .hbmBundleStat => s.bundleCmd i x
  | .hbmCtl => { s with hbm := { h with ctl := x.w32 0xFFFF011F } }
  | .hbmEccLog => { s with hbm := { h with eccLog := clearValid x h.eccLog } }
  | .hbmLayout => stateOr s (execHbmLayoutWrite (BitVec.ofNat 64 x.merged) s)
  | .hbmLend => { s with hbm := { h with lend := Tbl.set h.lend i (x.w64 0x80FFFFFFFFFFFFFF) } }
  | .hbmLendJob => { s with hbm := { h with lendJob := Tbl.set h.lendJob i (x.merged % 65536) } }
  | .hbmWcmd => s.setCtx i { c with wTail := x.merged % 256 }
  | .fabCtl => { s with fab := { f with ctl := x.w32 0xFFFF0001 } }
  | .fabId => stateOr s (execFabIdWrite (BitVec.ofNat 32 x.merged) s)
  | .fabLog => { s with fab := { f with log := clearValid x f.log } }
  | .fabPortCtl => s.portCtlWrite i x
  | .fabSwitchAddr => s.setCtx i { c with switchAddr := x.w64 0xFFFFFFFFFFFFFFC0 }
  | .fabSwitchAt => stateOr s (execFabSwitchAtWrite i x.merged s)
  | .uoaDigestCtl => { s with uoaDev := { s.uoaDev with digestCtl := x.w32 0xFFFF } }
  | .tapFoldLog => { s with foldLog := clearValid x s.foldLog }
  | _ => s

/-! ### Reads and writes (00 R13 to R15, 19 R533) -/

/-- `w` bits of a register written with `v`, from bit `lo` up (00 Table 0.3). A tile that is OFF ignores it. -/
def State.writePart (s0 : State) (r : Reg) (lo w v : Nat) : State :=
  let s := s0.beforeAccess r
  let x : RegWrite := ⟨lo, w, setFld (s.regVal r) lo w v, (v % 2 ^ w) * 2 ^ lo⟩
  match r.name.block with
  | .tile => if (s.tile r.unit).answers then s.writeTile r.name r.unit r.idx x else s
  | .engine => s.writeEngine r.name r.unit x
  | .mgmt => s.writeMgmt r.name r.idx x
  | .host => s.writeHost r.name r.idx x
  | .data => s.writeData r.name r.idx x

/-- `w` bits of a register read, from bit `lo` up, with the RC fields that this clears. -/
def State.readPart (s0 : State) (r : Reg) (lo w : Nat) : Nat × State :=
  let s := s0.beforeAccess r
  (fld (s.regVal r) lo w, s.clearRead r lo w)

/-- The register that holds an address now; a capability word that is not linked is none (19 R536). -/
def State.regOf (s : State) (a : Nat) : Option (Reg × Nat) :=
  (regAt a).filter fun p => !(p.1.name == .aonCap && decide (3 ≤ p.1.idx) && !s.sec.linked)

/-- A part of an access: the register, none where the address holds none, the lowest bit and the number of bits there,
and the place of those bits in the access. -/
structure AccPart where
  reg : Option Reg
  lo : Nat
  w : Nat
  pos : Nat
deriving DecidableEq, Repr

/-- The parts of an access of `width` bytes at an aligned address, in ascending address (14 R439). -/
def State.accParts (s : State) (a width : Nat) : List AccPart :=
  let upper : List AccPart :=
    if width = 4 then []
    else match s.regOf (a + 4) with
      | some p => if p.1.bytes = 4 then [⟨some p.1, 0, 32, 32⟩] else [⟨none, 0, 32, 32⟩]
      | none => [⟨none, 0, 32, 32⟩]
  match s.regOf a with
  | some p => if p.1.bytes = 8 then [⟨some p.1, 8 * p.2, 8 * width, 0⟩] else ⟨some p.1, 0, 32, 0⟩ :: upper
  | none => ⟨none, 0, 32, 0⟩ :: upper

/-- A counter register that a slot without ADMIN may not read (17 R503). -/
def State.counterHidden (s : State) (slot : Nat) (r : Reg) : Bool :=
  let own (c : Nat) : Bool := (s.ctx c).owner == some slot
  let open_ (user ctxf : Bool) (c : Nat) : Bool := user && ctxf && own c
  if (s.slot slot).admin then false
  else match r.name with
    | .cntTval | .cntTsnap =>
      let n := (s.tileCounter r.unit r.idx).sel.toNat
      !open_ (bit n 28) (bit n 29) (fld n 22 6)
    | .cntCval | .cntCsnap =>
      let n := (s.chipCounter r.idx).sel.toNat
      !open_ (bit n 60) (bit n 61) (fld n 54 6)
    | _ => false

/-- What an access has found so far: the state, the value read, whether a register was denied, and whether an address
held none. -/
structure Acc where
  s : State
  val : Nat := 0
  denied : Bool := false
  missing : Bool := false
deriving DecidableEq, Repr

/-- One part of a read; `hidden` says which registers the reader may not see. -/
def Acc.read (hidden : State → Reg → Bool) (x : Acc) (p : AccPart) : Acc :=
  match p.reg with
  | none => { x with missing := true }
  | some r =>
    if hidden x.s r then { x with denied := true }
    else
      let d := x.s.readPart r p.lo p.w
      { x with s := d.2, val := x.val + d.1 * 2 ^ p.pos }

/-- A read of `width` bytes at an aligned address. -/
def State.cfgRead (s : State) (hidden : State → Reg → Bool) (a width : Nat) : Acc :=
  (s.accParts a width).foldl (Acc.read hidden) ⟨s, 0, false, false⟩

/-- One part of a write of the value `v`. -/
def Acc.write (v : Nat) (x : Acc) (p : AccPart) : Acc :=
  match p.reg with
  | none => { x with missing := true }
  | some r => { x with s := x.s.writePart r p.lo p.w (fld v p.pos p.w) }

/-- A write of `width` bytes at an aligned address. -/
def State.cfgWrite (s : State) (a width v : Nat) : Acc :=
  (s.accParts a width).foldl (Acc.write v) ⟨s, 0, false, false⟩

/-! ### Requests (14 R439, Tables 14.4 and 14.5) -/

/-- ADDR, COUNT and WIDTH of a request. -/
def ncpAddr (m : Ncp) : Nat := recN m.payload 0 4
def ncpCount (m : Ncp) : Nat := recN m.payload 4 1
def ncpWidth (m : Ncp) : Nat := recN m.payload 5 1

/-- COUNT and WIDTH are in range. -/
def cfgForm (m : Ncp) : Bool :=
  decide (1 ≤ ncpCount m) && decide (ncpCount m ≤ 64) && (ncpWidth m == 4 || ncpWidth m == 8)

/-- An access is misaligned or passes the window. -/
def cfgMisaligned (m : Ncp) : Bool :=
  decide (ncpAddr m % ncpWidth m ≠ 0) || decide (2 ^ 26 < ncpAddr m + ncpCount m * ncpWidth m)

/-- The status of an access: NO_PERM before NO_REG (log 96). -/
def Acc.status (denied missing : Bool) : Nat := if denied then 3 else if missing then 1 else 0

/-- The reads of a request in ascending address, with their values as bytes. -/
def State.cfgReads (s : State) (slot : Nat) (m : Ncp) : Acc × Bytes :=
  (List.range (ncpCount m)).foldl (fun (st : Acc × Bytes) i =>
    let r := st.1.s.cfgRead (fun z g => z.counterHidden slot g) (ncpAddr m + i * ncpWidth m) (ncpWidth m)
    (⟨r.s, 0, st.1.denied || r.denied, st.1.missing || r.missing⟩, st.2 ++ leBytes (ncpWidth m) r.val)) (⟨s, 0, false, false⟩, [])

/-- CFG_READ. -/
def execCfgRead (m : Ncp) (s : State) : Res :=
  .next (s.ncp 0x10 m .attached (m.payload.length == 6 && cfgForm m) fun st =>
    if cfgMisaligned m then .done st 2 []
    else
      let r := st.cfgReads m.slot m
      .done r.1.s (Acc.status r.1.denied r.1.missing) r.2)

/-- CFG_WRITE. -/
def execCfgWrite (m : Ncp) (s : State) : Res :=
  .next (s.ncp 0x11 m .admin (cfgForm m && m.payload.length == 6 + ncpCount m * ncpWidth m) fun st =>
    if cfgMisaligned m then .done st 2 []
    else
      let r := (List.range (ncpCount m)).foldl (fun (x : Acc) i =>
        let y := x.s.cfgWrite (ncpAddr m + i * ncpWidth m) (ncpWidth m) (recN m.payload (6 + i * ncpWidth m) (ncpWidth m))
        ⟨y.s, 0, false, x.missing || y.missing⟩) (⟨st, 0, false, false⟩ : Acc)
      .done r.s (Acc.status false r.missing) [])

/-! ### JTAG and the management core -/

/-- JTAG_CFG_READ: 64 bits as an 8-byte CFG_READ would read them, without the limits of an agent slot. What a
misaligned address gives has no rule: a free value (log 61). -/
def execJtagCfgRead (addr : Nat) (s : State) : Res :=
  if !s.tapOn then .next s
  else
    let a := addr % 2 ^ 26
    let s1 := s.selectIr 0x10
    if a % 8 ≠ 0 then
      let d := s1.draw
      .next (d.2.emit (.jtag 64 (d.1 % 2 ^ 64)))
    else
      let r := s1.cfgRead (fun _ _ => false) a 8
      .next (r.s.emit (.jtag 64 r.val))

/-- REGISTER_WRITE: a register written with 8 or 4 bytes, each field by its access code (R13); at an address that
holds no register nothing happens (R15). -/
def execRegisterWrite (addr : Nat) (wide : Bool) (v : W64) (s : State) : Res :=
  let width := if wide then 8 else 4
  if !s.clocked || addr % width != 0 || decide (2 ^ 26 < addr + width) then .next s
  else .next (s.cfgWrite addr width v.toNat).s

end Sys2Proof.Machine
end

