-- ==== Sys2Proof/Machine/Sfu.lean ====
section
/-! DEFINITION. The special-function unit (04_tile_store_vector R116, Table 4.3). Where the table
states a value it is given; where it states only a bound, the result is the free value `Config.sfu`
if that value meets the bound, and otherwise the rounded approximation below, which meets it. -/

namespace Sys2Proof.Machine

/-- Fraction bits of the fixed-point approximations. -/
def fxP : Nat := 120

/-- `ln 2` in units of `2^-120`. -/
def fxLn2 : Nat := 921350637599661305226344307672478454

/-- `log2 e` in units of `2^-120`. -/
def fxLog2e : Nat := 1917670637729674084946755258930051709

/-- The terms of the exponential series from `term` on, `t` and `term` in units of `2^-120`. -/
def expSeries (t : Nat) : Nat → Nat → Nat → Nat
  | 0, _, _ => 0
  | n + 1, k, term => term + expSeries t n (k + 1) (term * t / 2 ^ fxP / k)

/-- `2^x` for `x = i · 2^-120`: a mantissa in units of `2^-120` and an exponent. -/
def fxExp2 (i : Int) : Nat × Int :=
  let n := i / ((2 ^ fxP : Nat) : Int)
  let f := (i % ((2 ^ fxP : Nat) : Int)).toNat
  (expSeries (f * fxLn2 / 2 ^ fxP) 40 1 (2 ^ fxP), n)

/-- A finite value in units of `2^-120`, truncated. -/
def toFx (s : Bool) (m : Nat) (e : Int) : Int :=
  let k := e + fxP
  let a : Nat := if 0 ≤ k then m * 2 ^ k.toNat else m / 2 ^ (-k).toNat
  if s then -(a : Int) else (a : Int)

/-- `n` bits of the base-2 logarithm of `z · 2^-200` in [1, 2). -/
def log2Bits : Nat → Nat → Nat → Nat
  | 0, _, acc => acc
  | n + 1, z, acc =>
    let y := z * z / 2 ^ 200
    if 2 ^ 201 ≤ y then log2Bits n (y / 2) (2 * acc + 1) else log2Bits n y (2 * acc)

/-- The base-2 logarithm of `m · 2^e` in units of `2^-80`. -/
def fxLog2 (m : Nat) (e : Int) : Int :=
  let b := Nat.log2 m
  ((b : Int) + e) * ((2 ^ 80 : Nat) : Int) + (log2Bits 80 (m * 2 ^ 200 / 2 ^ b) 0 : Nat)

/-- The magnitude `|a - b|` of two dyadic values compared with a third: `|a - b| ≤ c`. -/
def distLe (sa : Bool) (ma : Nat) (ea : Int) (sb : Bool) (mb : Nat) (eb : Int) (mc : Nat) (ec : Int) :
    Bool :=
  let d := exactAdd sa ma ea (!sb) mb eb
  magCmp d.2.1 d.2.2 mc ec != .gt

/-- A finite FP32 encoding lies within `k` ulp of a dyadic value, an ulp being measured at that value,
and within `2^-149` of it in the subnormal range (R116). -/
def withinUlp (k : Nat) (r : W32) (s : Bool) (m : Nat) (e : Int) : Bool :=
  match decF32 r with
  | .fin sr mr er =>
    if m = 0 || floorLog2 m e < -126 then distLe sr mr er s m e 1 (-149)
    else distLe sr mr er s m e k (floorLog2 m e - 23)
  | _ => false

/-- The result chosen for an operand: the free value when it meets the bound, else the rounded
approximation. DESIGN CHOICE, log 8. -/
def sfuPick (fn : Nat) (x : W32) (ok : W32 → Bool) (s : Bool) (m : Nat) (e : Int) : FRes :=
  let r := Config.sfu fn x
  if ok r then ⟨r, flNone⟩ else roundF32 s m e

/-- exp2 (Table 4.3): no result is negative, and one below the subnormal range is +0 or a subnormal (Table 4.9). -/
def sfuExp2 (x : W32) : FRes :=
  match nanResult [x] with
  | some r => r
  | none =>
    match decF32 x with
    | .inf s => ⟨if s then zero32 false else inf32 false, flNone⟩
    | .nan _ _ _ => invalidRes
    | .fin s m e =>
      if m = 0 then ⟨one32, flNone⟩
      else if !s && 7 ≤ floorLog2 m e then ⟨inf32 false, flOverflow⟩
      else if s && 8 ≤ floorLog2 m e then
        sfuPick 0 x (fun r => !signOf r && withinUlp 2 r false 0 0) false 0 0
      else
        let y := fxExp2 (toFx s m e)
        sfuPick 0 x (fun r => !signOf r && withinUlp 2 r false y.1 (y.2 - fxP)) false y.1 (y.2 - fxP)

/-- log2 (Table 4.3): within [0.5, 2] the bound is absolute. -/
def sfuLog2 (x : W32) : FRes :=
  match nanResult [x] with
  | some r => r
  | none =>
    match decF32 x with
    | .inf s => if s then invalidRes else ⟨inf32 false, flNone⟩
    | .nan _ _ _ => invalidRes
    | .fin s m e =>
      if m = 0 then ⟨inf32 true, flDivZero⟩
      else if s then invalidRes
      else if x == one32 then ⟨zero32 false, flNone⟩
      else
        let y := fxLog2 m e
        let sy := decide (y < 0)
        let near := magCmp m e 1 (-1) != .lt && magCmp m e 2 0 != .gt
        let ok (r : W32) : Bool :=
          if near then match decF32 r with
            | .fin sr mr er => distLe sr mr er sy y.natAbs (-80) 1 (-22)
            | _ => false
          else withinUlp 2 r sy y.natAbs (-80)
        sfuPick 1 x ok sy y.natAbs (-80)

/-- reciprocal (Table 4.3); a quotient beyond the largest finite value overflows. -/
def sfuRcp (x : W32) : FRes :=
  match nanResult [x] with
  | some r => r
  | none =>
    match decF32 x with
    | .inf s => ⟨zero32 s, flNone⟩
    | .nan _ _ _ => invalidRes
    | .fin s m e =>
      if m = 0 then ⟨inf32 s, flDivZero⟩
      else
        let y := divMag 1 m
        let exact := roundF32 s y.1 (y.2 - e)
        if isInf32 exact.v then exact
        else sfuPick 2 x (fun r => withinUlp 1 r s y.1 (y.2 - e)) s y.1 (y.2 - e)

/-- reciprocal square root (Table 4.3). -/
def sfuRsq (x : W32) : FRes :=
  match nanResult [x] with
  | some r => r
  | none =>
    match decF32 x with
    | .inf s => if s then invalidRes else ⟨zero32 false, flNone⟩
    | .nan _ _ _ => invalidRes
    | .fin s m e =>
      if m = 0 then ⟨inf32 s, flDivZero⟩
      else if s then invalidRes
      else
        let m2 := if e % 2 = 0 then m else 2 * m
        let e2 := if e % 2 = 0 then e else e - 1
        let y := isqrt (2 ^ 400 / m2)
        sfuPick 3 x (fun r => withinUlp 1 r false y (-200 - e2 / 2)) false y (-200 - e2 / 2)

/-- tanh (Table 4.3): the operand itself below 2^-12. -/
def sfuTanh (x : W32) : FRes :=
  match nanResult [x] with
  | some r => r
  | none =>
    match decF32 x with
    | .inf s => ⟨if s then neg32 one32 else one32, flNone⟩
    | .nan _ _ _ => invalidRes
    | .fin s m e =>
      if m = 0 || decide (floorLog2 m e < -12) then ⟨x, flNone⟩
      else
        let a := if 5 ≤ floorLog2 m e then 32 * 2 ^ fxP else (toFx false m e).natAbs
        let y := fxExp2 ((2 * a * fxLog2e / 2 ^ fxP : Nat) : Int)
        let big := y.1 * 2 ^ y.2.toNat
        let q := (big - 2 ^ fxP) * 2 ^ fxP / (big + 2 ^ fxP)
        sfuPick 4 x (fun r => withinUlp 2 r s q (-fxP)) s q (-fxP)

end Sys2Proof.Machine
end

