-- ==== Sys2Proof/Machine/Vector.lean ====
section
/-! DEFINITION. The vector unit (04_tile_store_vector R112 to R116, R118, R119; 05_instruction_set
R146, R147, R557).
Assumption log: log 14 (DESIGN CHOICE), log 15 (DEDUCED). -/

namespace Sys2Proof.Machine

/-- The fields of a vector payload (Table 5.7). -/
structure VPay where
  vd : Nat
  va : Nat
  vb : Nat
  vc : Nat
  mreg : Nat
  men : Bool
  fmt : Nat
  rnd : Nat
  ord : Nat
  sat : Bool
  addr : Nat
  idx : Nat
  tidx : Nat
  eidx : Nat
  sub : Nat
deriving DecidableEq, Repr

/-- A vector payload. -/
def vpay (p : Nat) : VPay :=
  ⟨fld p 83 5, fld p 78 5, fld p 73 5, fld p 68 5, fld p 65 3, bit p 64, fld p 60 4, fld p 58 2,
    fld p 46 12, bit p 45, fld p 23 22, fld p 19 4, fld p 15 4, fld p 11 4, fld p 0 11⟩

/-- The bits of a mask register, lane 0 first. -/
def maskBits (m : BitVec 256) : List Bool := (List.range 256).map fun l => m.getLsbD l

/-- A mask register of these lane bits. -/
def bitsMask (l : List Bool) : BitVec 256 :=
  BitVec.ofNat 256 (l.foldr (fun b n => b2n b + 2 * n) 0)

/-- A mask register. -/
def TileCtx.mask (tc : TileCtx) (n : Nat) : BitVec 256 := Tbl.get 0 tc.masks n

/-- The lanes that an instruction works on (R113): all, or those of MK when MEN = 1. -/
def TileCtx.lanesOn (tc : TileCtx) (p : VPay) : List Bool :=
  if p.men then maskBits (tc.mask p.mreg) else List.replicate 256 true

/-- Results put into the lanes that are on; the other lanes keep their old value and raise nothing. -/
def mergeLanes : List Bool → List W32 → List FRes → List W32 × ExFlags
  | on :: ons, o :: os, r :: rs =>
    let t := mergeLanes ons os rs
    if on then (r.v :: t.1, r.fl ||| t.2) else (o :: t.1, t.2)
  | _, os, _ => (os, flNone)

/-- A function of three sources applied lane by lane. -/
def mapLanes (f : W32 → W32 → W32 → FRes) : List W32 → List W32 → List W32 → List FRes
  | a :: as, b :: bs, c :: cs => f a b c :: mapLanes f as bs cs
  | _, _, _ => []

/-- The reserved field values of a vector payload that hold for every opcode (R146): RND 0b10 and
0b11, and the sub-codes outside `subs`. -/
def vpayOk (p : VPay) (subOk : Nat → Bool) : Bool := decide (p.rnd < 2) && subOk p.sub

/-- A lane-wise instruction that writes VD. -/
def bodyLane (f : W32 → W32 → W32 → FRes) (e : Env) (s : State) : Act :=
  let p := vpay e.pl
  let tc := s.tc e.c e.v
  let r := mergeLanes (tc.lanesOn p) (tc.vreg p.vd)
    (mapLanes f (tc.vreg p.va) (tc.vreg p.vb) (tc.vreg p.vc))
  Act.when (!vpayOk p (· == 0)) xInvalid <|
  .go (s.setTc e.c e.v (tc.setVreg p.vd r.1)) (fun g => { g with flags := r.2 }) Queue.advance

/-- An exact integer or bit result. -/
def noFlag (v : W32) : FRes := ⟨v, flNone⟩

/-- VADD (Table 5.8). -/
def execVadd (i : Issue) (s : State) : Res :=
  .next (s.issue 2 0x00 i (bodyLane fun a b _ => fadd a b))
/-- VSUB (Table 5.8). -/
def execVsub (i : Issue) (s : State) : Res :=
  .next (s.issue 2 0x01 i (bodyLane fun a b _ => fsub a b))
/-- VMUL (Table 5.8). -/
def execVmul (i : Issue) (s : State) : Res :=
  .next (s.issue 2 0x02 i (bodyLane fun a b _ => fmul a b))
/-- VFMA: one rounding (Table 5.8). -/
def execVfma (i : Issue) (s : State) : Res := .next (s.issue 2 0x03 i (bodyLane ffma))
/-- VMIN (R40). -/
def execVmin (i : Issue) (s : State) : Res :=
  .next (s.issue 2 0x04 i (bodyLane fun a b _ => fminimum a b))
/-- VMAX (R40). -/
def execVmax (i : Issue) (s : State) : Res :=
  .next (s.issue 2 0x05 i (bodyLane fun a b _ => fmaximum a b))
/-- VIADD: INT32 addition modulo 2^32 (Table 5.8). -/
def execViadd (i : Issue) (s : State) : Res :=
  .next (s.issue 2 0x09 i (bodyLane fun a b _ => noFlag (a + b)))
/-- VEXP2 (Table 4.3). -/
def execVexp2 (i : Issue) (s : State) : Res :=
  .next (s.issue 2 0x10 i (bodyLane fun a _ _ => sfuExp2 a))
/-- VLOG2 (Table 4.3). -/
def execVlog2 (i : Issue) (s : State) : Res :=
  .next (s.issue 2 0x11 i (bodyLane fun a _ _ => sfuLog2 a))
/-- VRCP (Table 4.3). -/
def execVrcp (i : Issue) (s : State) : Res :=
  .next (s.issue 2 0x12 i (bodyLane fun a _ _ => sfuRcp a))
/-- VRSQ (Table 4.3). -/
def execVrsq (i : Issue) (s : State) : Res :=
  .next (s.issue 2 0x13 i (bodyLane fun a _ _ => sfuRsq a))
/-- VTANH (Table 4.3). -/
def execVtanh (i : Issue) (s : State) : Res :=
  .next (s.issue 2 0x14 i (bodyLane fun a _ _ => sfuTanh a))

/-- An INT32 relation: EQ, NE, LT, LE, GT, GE. -/
def irel (r : Nat) (a b : W32) : Bool :=
  match r with
  | 0 => a == b
  | 1 => a != b
  | 2 => a.slt b
  | 3 => a.sle b
  | 4 => b.slt a
  | _ => b.sle a

/-- The lane bits of a comparison, and the flags of the lanes that are on (R40). -/
def cmpLanes (int : Bool) (r : Nat) :
    List Bool → List Bool → List W32 → List W32 → List Bool × ExFlags
  | on :: ons, o :: os, a :: as, b :: bs =>
    let t := cmpLanes int r ons os as bs
    if on then ((if int then irel r a b else frel r a b) :: t.1,
      (if int then flNone else frelFlags a b) ||| t.2)
    else (o :: t.1, t.2)
  | _, os, _, _ => (os, flNone)

/-- A position outside 0 to 2^24 − 1 in a lane that is on (R120). -/
def badPosition : List Bool → List W32 → Bool
  | on :: ons, x :: xs => (on && decide (2 ^ 24 ≤ x.toNat)) || badPosition ons xs
  | _, _ => false

/-- An INT32 comparison of an attention operation that names a position out of range (R120). No field of VCMP says that
it compares positions for attention: which words do is a free value (DESIGN CHOICE, log 50). -/
def badAttention (w : Nat) (p : VPay) (on : List Bool) (a b : List W32) : Bool :=
  bit p.sub 3 && Config.attention w && (badPosition on a || badPosition on b)

/-- VCMP (Table 5.8, R40, R120, R146). -/
def bodyVcmp (e : Env) (s : State) : Act :=
  let p := vpay e.pl
  let tc := s.tc e.c e.v
  let md := p.vd % 8
  let r := cmpLanes (bit p.sub 3) (fld p.sub 0 3) (tc.lanesOn p) (maskBits (tc.mask md))
    (tc.vreg p.va) (tc.vreg p.vb)
  Act.when (!vpayOk p (fun n => decide (fld n 0 3 < 6) && fld n 4 7 == 0) || decide (8 ≤ p.vd)
    || badAttention e.w p (tc.lanesOn p) (tc.vreg p.va) (tc.vreg p.vb)) xInvalid <|
  .go (s.setTc e.c e.v { tc with masks := Tbl.set tc.masks md (bitsMask r.1) })
    (fun g => { g with flags := r.2 }) Queue.advance

/-- VCMP. -/
def execVcmp (i : Issue) (s : State) : Res := .next (s.issue 2 0x06 i bodyVcmp)

/-- VA where the mask bit is 1, VB elsewhere. -/
def selLanes : List Bool → List W32 → List W32 → List FRes
  | m :: ms, a :: as, b :: bs => noFlag (if m then a else b) :: selLanes ms as bs
  | _, _, _ => []

/-- VSEL (Table 5.8). -/
def bodyVsel (e : Env) (s : State) : Act :=
  let p := vpay e.pl
  let tc := s.tc e.c e.v
  let r := mergeLanes (tc.lanesOn p) (tc.vreg p.vd)
    (selLanes (maskBits (tc.mask p.mreg)) (tc.vreg p.va) (tc.vreg p.vb))
  Act.when (!vpayOk p (· == 0)) xInvalid <|
  .go (s.setTc e.c e.v (tc.setVreg p.vd r.1)) id Queue.advance

/-- VSEL. -/
def execVsel (i : Issue) (s : State) : Res := .next (s.issue 2 0x07 i bodyVsel)

/-- VLOGIC: AND, OR, XOR, AND-NOT (Table 5.8). -/
def bodyVlogic (e : Env) (s : State) : Act :=
  let p := vpay e.pl
  let tc := s.tc e.c e.v
  let f (a b : W32) : W32 := match p.sub with
    | 0 => a &&& b
    | 1 => a ||| b
    | 2 => a ^^^ b
    | _ => a &&& ~~~b
  let r := mergeLanes (tc.lanesOn p) (tc.vreg p.vd)
    (mapLanes (fun a b _ => noFlag (f a b)) (tc.vreg p.va) (tc.vreg p.vb) (tc.vreg p.vc))
  Act.when (!vpayOk p (fun n => decide (n < 4))) xInvalid <|
  .go (s.setTc e.c e.v (tc.setVreg p.vd r.1)) id Queue.advance

/-- VLOGIC. -/
def execVlogic (i : Issue) (s : State) : Res := .next (s.issue 2 0x0A i bodyVlogic)

/-! ### Conversions (R557, R113) -/

/-- The bits that lane `l` draws at site 6 (R57, R146). -/
def Env.lane6 (e : Env) (s : State) (p : VPay) (l : Nat) : W64 :=
  srBits (srKey (s.ctx e.c).jobSeed (e.qu.ireg p.tidx).toNat e.qu.step)
    ((e.qu.ireg p.eidx).toNat * 256 + l) 6 p.ord

/-- The rounding of lane `l`. -/
def Env.round6 (e : Env) (s : State) (p : VPay) (sr : Bool) (l : Nat) : Rounding :=
  if sr then .stochastic (e.lane6 s p l) else .nearest

/-- A value in an element format as a lane holds it after a load (R113): raw for FP32 and INT32,
zero-extended for UINT8, exactly converted to FP32 otherwise. -/
def laneOf (fmt n : Nat) : W32 :=
  if fmt = 0x0 ∨ fmt = 0x9 ∨ fmt = 0xD then BitVec.ofNat 32 n else elemToF32 fmt n

/-- One lane of VCVT (R557). E8M0, for which no conversion is stated, gives the free value `fr`
(DESIGN CHOICE, log 21). -/
def cvtLane (fmt : Nat) (sat fromInt : Bool) (rd : Rounding) (fr : W32) (a : W32) : FRes :=
  let x := if fromInt then intToF32 (sext 32 a.toNat) else a
  if fmt = 0 then noFlag x
  else match convTo fmt sat rd (decF32 x) with
    | some r => ⟨laneOf fmt r.bits, r.fl⟩
    | none => ⟨fr, flNone⟩

/-- VCVT over the lanes, lane numbers from `l`. -/
def cvtLanes (f : Nat → W32 → FRes) : Nat → List W32 → List FRes
  | _, [] => []
  | l, a :: as => f l a :: cvtLanes f (l + 1) as

/-- VCVT (R557, R146). -/
def bodyVcvt (e : Env) (s : State) : Act :=
  let p := vpay e.pl
  let tc := s.tc e.c e.v
  let f (l : Nat) (a : W32) : FRes :=
    cvtLane p.fmt p.sat (bit p.sub 0) (e.round6 s p (p.rnd == 1) l) (Config.freeW32 (s.free + l)) a
  let r := mergeLanes (tc.lanesOn p) (tc.vreg p.vd) (cvtLanes f 0 (tc.vreg p.va))
  Act.when (!vpayOk p (fun n => decide (n < 2)) || p.fmt == 0xF) xInvalid <|
    let s1 : State := { s with free := s.free + 256 }
    .go (s1.setTc e.c e.v (tc.setVreg p.vd r.1)) (fun g => { g with flags := r.2 }) Queue.advance

/-- VCVT. -/
def execVcvt (i : Issue) (s : State) : Res := .next (s.issue 2 0x08 i bodyVcvt)

/-! ### Reduction (R114) -/

/-- One level of the tree: adjacent values combined. -/
def pairUp (f : W32 → W32 → FRes) : List W32 → List W32 × ExFlags
  | a :: b :: t =>
    let r := f a b
    let u := pairUp f t
    (r.v :: u.1, r.fl ||| u.2)
  | l => (l, flNone)

/-- The levels of the tree. -/
def treeRed (f : W32 → W32 → FRes) : Nat → List W32 → List W32 × ExFlags
  | 0, l => (l, flNone)
  | n + 1, l =>
    let r := pairUp f l
    let u := treeRed f n r.1
    (u.1, r.2 ||| u.2)

/-- The lanes that enter a reduction: masked-off lanes as −0. -/
def redLanes : List Bool → List W32 → List W32
  | on :: ons, a :: as => (if on then a else zero32 true) :: redLanes ons as
  | _, _ => []

/-- VRED: sum, minimum or maximum into lane 0 of VD (R114). -/
def bodyVred (e : Env) (s : State) : Act :=
  let p := vpay e.pl
  let tc := s.tc e.c e.v
  let f := match p.sub with
    | 0 => fadd
    | 1 => fminimum
    | _ => fmaximum
  let r := treeRed f 8 (redLanes (tc.lanesOn p) (tc.vreg p.va))
  Act.when (!vpayOk p (fun n => decide (n < 3))) xInvalid <|
  .go (s.setTc e.c e.v (tc.setVreg p.vd ((tc.vreg p.vd).set 0 ((r.1[0]?).getD 0))))
    (fun g => { g with flags := r.2 }) Queue.advance

/-- VRED. -/
def execVred (i : Issue) (s : State) : Res := .next (s.issue 2 0x18 i bodyVred)

/-! ### Loads and stores (R113, R118) -/

/-- The bit address of each lane's element: contiguous from the base, or offset by VB (R113, R146). -/
def laneBits (w base : Nat) (gather : Bool) (vb : List W32) : List Int :=
  if gather then vb.map fun o =>
    let off := sext 32 o.toNat
    if w < 8 then 8 * (base : Int) + off * w else 8 * ((base : Int) + off)
  else (List.range 256).map fun l => 8 * (base : Int) + (l * w : Nat)

/-- A lane's element lies within the tile store. -/
def bitsIn (w : Nat) (b : Int) : Bool :=
  decide (0 ≤ b) && decide (b + (w : Int) ≤ ((8 * storeSize : Nat) : Int))

/-- The largest number of distinct lines that lanes name in any one bank (R112). -/
def bankMax (ls : List Int) : Nat :=
  let lines := (ls.map fun b => (b / 512 % (65536 : Int)).toNat).eraseDups
  ((List.range 32).map fun k => (lines.filter fun n => n % 32 == k).length).foldl max 0

/-- A lane that is on touches the 8-byte word `n` of the store with its element of `w` bits. -/
def lanesTouch (w : Nat) (on : List Bool) (ls : List Int) (n : Nat) : Bool :=
  (on.zip ls).any fun x => x.1 && decide (x.2.toNat < 64 * n + 64) && decide (64 * n < x.2.toNat + w)

/-- The lanes that are on cover every bit of the 8-byte word `n` together. -/
def lanesCover (w : Nat) (on : List Bool) (ls : List Int) (n : Nat) : Bool :=
  (List.range 64).all fun k => (on.zip ls).any fun x =>
    x.1 && decide (x.2.toNat ≤ 64 * n + k) && decide (64 * n + k < x.2.toNat + w)

/-- The elements of the lanes that are on. Each bad word that they touch is met once, whatever number of
lanes lies in it (R106; DEDUCED, log 108). -/
def readLanes (t w : Nat) (s : State) (on : List Bool) (ls : List Int) : State × List (Option Nat) × Bool :=
  let x := s.tile t
  let bad := x.ecc.filter fun e => lanesTouch w on ls e.1
  let s1 := bad.foldl (fun st e => match e.2 with
    | .single => st.storeCe t e.1
    | .uncorrectable => st.storeUe t false 4 e.1) s
  (s1, (on.zip ls).map (fun l =>
      if l.1 then
        let a := l.2.toNat
        some (fld (leNat (memReadBytes x.store (a / 8) ((a % 8 + w + 7) / 8))) (a % 8) w)
      else none),
    bad.any fun e => e.2 == .uncorrectable)

/-- Lane values loaded. -/
def loadLanes (fmt : Nat) : List W32 → List (Option Nat) → List W32
  | _ :: os, some n :: ns => laneOf fmt n :: loadLanes fmt os ns
  | o :: os, none :: ns => o :: loadLanes fmt os ns
  | os, [] => os
  | [], _ => []

/-- VLD and VGATH (R113). -/
def bodyLoad (gather : Bool) (e : Env) (s : State) : Act :=
  let p := vpay e.pl
  let tc := s.tc e.c e.v
  let w := fmtWidth p.fmt
  let on := tc.lanesOn p
  let ls := laneBits w (p.addr + (e.qu.ireg p.idx).toNat) gather (tc.vreg p.vb)
  Act.when (!vpayOk p (· == 0) || p.fmt == 0xF) xInvalid <|
  Act.when ((on.zip ls).any fun x => x.1 && !bitsIn w x.2) xAccess <|
    let s0 := if gather then s.evTile 0x00D e.t (bankMax ls) else s
    let r := readLanes e.t w s0 on ls
    let tc1 := r.1.tc e.c e.v
    .go (r.1.setTc e.c e.v (tc1.setVreg p.vd (loadLanes p.fmt (tc.vreg p.vd) r.2.1)))
      (fun g => { g with poison := r.2.2 }) Queue.advance

/-- VLD. -/
def execVld (i : Issue) (s : State) : Res := .next (s.issue 2 0x20 i (bodyLoad false))
/-- VGATH. -/
def execVgath (i : Issue) (s : State) : Res := .next (s.issue 2 0x22 i (bodyLoad true))

/-- The element that a lane stores and its flags (R113): raw for FP32 and INT32, limited to 0 to 255
for UINT8, converted otherwise; E8M0 stores a free value (DESIGN CHOICE, log 21). -/
def storeElem (fmt : Nat) (sat : Bool) (rd : Rounding) (fr : W32) (a : W32) : Nat × ExFlags :=
  if fmt = 0x0 ∨ fmt = 0x9 then (a.toNat, flNone)
  else if fmt = 0xD then
    let i := sext 32 a.toNat
    if i < 0 then (0, flSaturation) else if 255 < i then (255, flSaturation) else (i.toNat, flNone)
  else match convTo fmt sat rd (decF32 a) with
    | some r => (r.bits, r.fl)
    | none => (fr.toNat % 256, flNone)

/-- The elements of the lanes, lane numbers from `l`. -/
def storeElems (f : Nat → W32 → Nat × ExFlags) : Nat → List Bool → List W32 → List (Nat × ExFlags)
  | l, on :: ons, a :: as => (if on then f l a else (0, flNone)) :: storeElems f (l + 1) ons as
  | _, _, _ => []

/-- One element put at a bit address: whole bytes, or the bits of a narrow element (R113). -/
def putElem (w : Nat) (m : Mem) (b n : Nat) : Mem :=
  if w % 8 = 0 then memWriteBytes m (b / 8) (leBytes (w / 8) n)
  else
    let k := (b % 8 + w + 7) / 8
    memWriteBytes m (b / 8) (leBytes k (setFld (leNat (memReadBytes m (b / 8) k)) (b % 8) w n))

/-- The lanes that are on put in ascending lane number, so that the highest lane's value stays where lanes name the same
address (R113). R113 says nothing of elements that overlap without naming one address: there too the lanes write in
ascending order (DESIGN CHOICE, log 49). -/
def putLanes (w : Nat) : Mem → List Bool → List Int → List (Nat × ExFlags) → Mem
  | m, on :: ons, b :: bs, x :: xs =>
    putLanes w (if on then putElem w m b.toNat x.1 else m) ons bs xs
  | m, _, _, _ => m

/-- The lanes that are on written as one write: a word that they cover together is written whole, a bad
word that they cover only in part is met once, and an uncorrectable one stays so (R103, R106, R107; DEDUCED,
log 108). -/
def writeLanes (t w : Nat) (s : State) (on : List Bool) (ls : List Int) (xs : List (Nat × ExFlags)) : State :=
  let part := (s.tile t).ecc.filter fun e =>
    lanesTouch w on ls e.1 && !lanesCover w on ls e.1
  let s1 := part.foldl (fun st e => match e.2 with
    | .single => st.storeCe t e.1
    | .uncorrectable => st.storeUe t false 4 e.1) s
  let x := s1.tile t
  s1.setTile t { x with
    store := putLanes w x.store on ls xs
    ecc := x.ecc.filter fun e =>
      !lanesTouch w on ls e.1 || (!lanesCover w on ls e.1 && e.2 == .uncorrectable)
    wbacks := x.wbacks.filter fun d =>
      !(on.zip ls).any fun l => l.1 && decide (l.2.toNat / 512 ≤ d.addr / 64) &&
        decide (512 * (d.addr / 64) < l.2.toNat + w) }

/-- VST and VSCAT (R113, R118). -/
def bodyStore (scatter : Bool) (e : Env) (s : State) : Act :=
  let p := vpay e.pl
  let tc := s.tc e.c e.v
  let w := fmtWidth p.fmt
  let on := tc.lanesOn p
  let classN := !(s.ctx e.c).classW
  let base := p.addr + (e.qu.ireg p.idx).toNat
  let ls := laneBits w base scatter (tc.vreg p.vb)
  let sr := p.rnd == 1 || (classN && isFloatFmt p.fmt)
  let xs := storeElems (fun l a => storeElem p.fmt p.sat (e.round6 s p sr l)
    (Config.freeW32 (s.free + l)) a) 0 on (tc.vreg p.va)
  Act.when (!vpayOk p (· == 0) || p.fmt == 0xF || (classN && p.fmt == 0)) xInvalid <|
  Act.when ((on.zip ls).any fun x => x.1 && !bitsIn w x.2) xAccess <|
    let s0 : State := { s with free := s.free + 256 }
    let s1 := if scatter then s0.evTile 0x00D e.t (bankMax ls) else s0
    let s2 := if !scatter && on.all id then
        s1.storeWrite e.t 4 base (packElems w (xs.map (·.1)))
      else writeLanes e.t w s1 on ls xs
    .go s2 (fun g => { g with flags := flUnion (xs.map (·.2)) }) Queue.advance

/-- VST. -/
def execVst (i : Issue) (s : State) : Res := .next (s.issue 2 0x21 i (bodyStore false))
/-- VSCAT. -/
def execVscat (i : Issue) (s : State) : Res := .next (s.issue 2 0x23 i (bodyStore true))

/-! ### Softmax merge (R119, R147) -/

/-- What the state part gives a lane: m, ℓ, a, b, the case and the flags. -/
structure Merge where
  m : W32
  l : W32
  a : W32
  b : W32
  case : W32
  fl : ExFlags
deriving DecidableEq, Repr

/-- The state part of the softmax merge in one lane. -/
def mergeState (m l m2 l2 : W32) : Merge :=
  if m2 == inf32 true then ⟨m, l, one32, zero32 false, 1, flNone⟩
  else if m == inf32 true then ⟨m2, l2, zero32 false, one32, 2, flNone⟩
  else
    let mn := fmaximum m m2
    let da := fsub m mn.v
    let a := sfuExp2 da.v
    let db := fsub m2 mn.v
    let b := sfuExp2 db.v
    let p := fmul l2 b.v
    let r := ffma l a.v p.v
    ⟨mn.v, r.v, a.v, b.v, 0, flUnion [mn.fl, da.fl, a.fl, db.fl, b.fl, p.fl, r.fl]⟩

/-- The state part over the lanes. -/
def mergeLanesSms : List W32 → List W32 → List W32 → List W32 → List Merge
  | m :: ms, l :: ls, m2 :: m2s, l2 :: l2s => mergeState m l m2 l2 :: mergeLanesSms ms ls m2s l2s
  | _, _, _, _ => []

/-- Lanes whose query has met no unmasked key so far: m is still −∞. -/
def emptyQueries : List Bool → List W32 → Nat
  | on :: ons, m :: ms => b2n (on && m == inf32 true) + emptyQueries ons ms
  | _, _ => 0

/-- SOFTMAX_EMPTY counted (R119). A query whose every key is masked leaves its merges with m = −∞. The spec names no
instruction that finishes a softmax, so how many of such lanes of a VSMS are finished queries is a free value (DESIGN
CHOICE, log 14). -/
def State.countEmpty (s : State) (t n : Nat) : State :=
  if n = 0 then s
  else ({ s with free := s.free + 1 } : State).evTile 0x00E t (Config.softmaxEmpty s.free % (n + 1))

/-- VSMS (R147). -/
def bodyVsms (e : Env) (s : State) : Act :=
  let p := vpay e.pl
  let tc := s.tc e.c e.v
  let on := tc.lanesOn p
  let rs := mergeLanesSms (tc.vreg p.vd) (tc.vreg (p.vd + 1)) (tc.vreg p.va) (tc.vreg (p.va + 1))
  let put (tc : TileCtx) (r : Nat) (f : Merge → W32) : TileCtx :=
    tc.setVreg r (mergeLanes on (tc.vreg r) (rs.map fun x => noFlag (f x))).1
  let fl := (mergeLanes on (tc.vreg p.vd) (rs.map fun x => ⟨x.m, x.fl⟩)).2
  Act.when (!vpayOk p (· == 0) || decide (30 < p.vd) || decide (30 < p.va) || decide (29 < p.vc))
    xInvalid <|
    let tc1 := put (put (put (put (put tc p.vd (·.m)) (p.vd + 1) (·.l)) p.vc (·.a)) (p.vc + 1) (·.b))
      (p.vc + 2) (·.case)
    .go ((s.setTc e.c e.v tc1).countEmpty e.t (emptyQueries on (rs.map (·.m)))) (fun g => { g with flags := fl })
      Queue.advance

/-- VSMS. DEDUCED, log 16. -/
def execVsms (i : Issue) (s : State) : Res := .next (s.issue 2 0x28 i bodyVsms)

/-- The output part of the softmax merge in one lane (R147). -/
def mergeOut (o o2 a b case : W32) : FRes :=
  if case == 0 then
    let p := fmul o2 b
    let r := ffma o a p.v
    ⟨r.v, p.fl ||| r.fl⟩
  else if case == 2 then noFlag o2
  else noFlag o

/-- The output part over the lanes. -/
def mergeLanesSmo : List W32 → List W32 → List W32 → List W32 → List W32 → List FRes
  | o :: os, o2 :: o2s, a :: as, b :: bs, k :: ks => mergeOut o o2 a b k :: mergeLanesSmo os o2s as bs ks
  | _, _, _, _, _ => []

/-- VSMO (R147). -/
def bodyVsmo (e : Env) (s : State) : Act :=
  let p := vpay e.pl
  let tc := s.tc e.c e.v
  let r := mergeLanes (tc.lanesOn p) (tc.vreg p.vd)
    (mergeLanesSmo (tc.vreg p.vd) (tc.vreg p.va) (tc.vreg p.vc) (tc.vreg (p.vc + 1))
      (tc.vreg (p.vc + 2)))
  Act.when (!vpayOk p (· == 0) || decide (29 < p.vc)) xInvalid <|
  .go (s.setTc e.c e.v (tc.setVreg p.vd r.1)) (fun g => { g with flags := r.2 }) Queue.advance

/-- VSMO. -/
def execVsmo (i : Issue) (s : State) : Res := .next (s.issue 2 0x29 i bodyVsmo)

end Sys2Proof.Machine
end

