-- ==== Sys2Proof/Machine/Dispatch.lean ====
section
/-! DEFINITION. The dispatch: one arm for each constructor of Instr, each one call of its meaning.
Assumption log: log 2 (DEDUCED). -/

namespace Sys2Proof.Machine

def exec (i : Instr) (s : State) : Host.Outcome State Fault Refusal :=
  match i with
  | .mma place upset => Sys2Proof.Machine.execMma place upset s
  | .mmap place upset => Sys2Proof.Machine.execMmap place upset s
  | .levelWindowEnd t ran idle dummies => Sys2Proof.Machine.execLevelWindowEnd t ran idle dummies s
  | .tapSample t => Sys2Proof.Machine.execTapSample t s
  | .tcfg place => Sys2Proof.Machine.execTcfg place s
  | .tclr place => Sys2Proof.Machine.execTclr place s
  | .vadd place => Sys2Proof.Machine.execVadd place s
  | .vsub place => Sys2Proof.Machine.execVsub place s
  | .vmul place => Sys2Proof.Machine.execVmul place s
  | .vfma place => Sys2Proof.Machine.execVfma place s
  | .vmin place => Sys2Proof.Machine.execVmin place s
  | .vmax place => Sys2Proof.Machine.execVmax place s
  | .vcmp place => Sys2Proof.Machine.execVcmp place s
  | .vsel place => Sys2Proof.Machine.execVsel place s
  | .vcvt place => Sys2Proof.Machine.execVcvt place s
  | .viadd place => Sys2Proof.Machine.execViadd place s
  | .vlogic place => Sys2Proof.Machine.execVlogic place s
  | .vexp2 place => Sys2Proof.Machine.execVexp2 place s
  | .vlog2 place => Sys2Proof.Machine.execVlog2 place s
  | .vrcp place => Sys2Proof.Machine.execVrcp place s
  | .vrsq place => Sys2Proof.Machine.execVrsq place s
  | .vtanh place => Sys2Proof.Machine.execVtanh place s
  | .vred place => Sys2Proof.Machine.execVred place s
  | .vld place => Sys2Proof.Machine.execVld place s
  | .vst place => Sys2Proof.Machine.execVst place s
  | .vgath place => Sys2Proof.Machine.execVgath place s
  | .vscat place => Sys2Proof.Machine.execVscat place s
  | .vsms place => Sys2Proof.Machine.execVsms place s
  | .vsmo place => Sys2Proof.Machine.execVsmo place s
  | .mov place => Sys2Proof.Machine.execMov place s
  | .mroot place => Sys2Proof.Machine.execMroot place s
  | .queueCreditReturn k => Sys2Proof.Machine.execQueueCreditReturn k s
  | .allreduce place => Sys2Proof.Machine.execAllreduce place s
  | .reduceScatter place => Sys2Proof.Machine.execReduceScatter place s
  | .allgather place => Sys2Proof.Machine.execAllgather place s
  | .alltoallv place => Sys2Proof.Machine.execAlltoallv place s
  | .expert place => Sys2Proof.Machine.execExpert place s
  | .permute place => Sys2Proof.Machine.execPermute place s
  | .reduce place => Sys2Proof.Machine.execReduce place s
  | .streamReceive place => Sys2Proof.Machine.execStreamReceive place s
  | .streamSend place => Sys2Proof.Machine.execStreamSend place s
  | .fragEmpty place => Sys2Proof.Machine.execFragEmpty place s
  | .managementAssistedPath => Sys2Proof.Machine.execManagementAssistedPath s
  | .register place => Sys2Proof.Machine.execRegister place s
  | .refresh place => Sys2Proof.Machine.execRefresh place s
  | .release place => Sys2Proof.Machine.execRelease place s
  | .sadd place => Sys2Proof.Machine.execSadd place s
  | .swait place => Sys2Proof.Machine.execSwait place s
  | .sread place => Sys2Proof.Machine.execSread place s
  | .marrive place => Sys2Proof.Machine.execMarrive place s
  | .mwait place => Sys2Proof.Machine.execMwait place s
  | .fence place => Sys2Proof.Machine.execFence place s
  | .nop place => Sys2Proof.Machine.execNop place s
  | .imov place => Sys2Proof.Machine.execImov place s
  | .iadd place => Sys2Proof.Machine.execIadd place s
  | .loop place => Sys2Proof.Machine.execLoop place s
  | .br place => Sys2Proof.Machine.execBr place s
  | .halt place => Sys2Proof.Machine.execHalt place s
  | .flagr place => Sys2Proof.Machine.execFlagr place s
  | .yield place => Sys2Proof.Machine.execYield place s
  | .dload place => Sys2Proof.Machine.execDload place s
  | .live place => Sys2Proof.Machine.execLive place s
  | .instructionComplete t q seq => Sys2Proof.Machine.execInstructionComplete t q seq s
  | .signalIncrement k => Sys2Proof.Machine.execSignalIncrement k s
  | .tileArrive c v => Sys2Proof.Machine.execTileArrive c v s
  | .tapSubtileReceive eng c => Sys2Proof.Machine.execTapSubtileReceive eng c s
  | .scrubInterval t upsets => Sys2Proof.Machine.execScrubInterval t upsets s
  | .eccWriteback tile => Sys2Proof.Machine.execEccWriteback tile s
  | .refreshStart eng => Sys2Proof.Machine.execRefreshStart eng s
  | .newtonIteration eng => Sys2Proof.Machine.execNewtonIteration eng s
  | .refreshEnd eng => Sys2Proof.Machine.execRefreshEnd eng s
  | .workItem eng t => Sys2Proof.Machine.execWorkItem eng t s
  | .deadlineArrive c => Sys2Proof.Machine.execDeadlineArrive c s
  | .rootDistribute eng => Sys2Proof.Machine.execRootDistribute eng s
  | .rootAccept c => Sys2Proof.Machine.execRootAccept c s
  | .fragmentArrive t => Sys2Proof.Machine.execFragmentArrive t s
  | .updateApply t k => Sys2Proof.Machine.execUpdateApply t k s
  | .deltaRecord t k => Sys2Proof.Machine.execDeltaRecord t k s
  | .forcedFetch c tid p => Sys2Proof.Machine.execForcedFetch c tid p s
  | .normSum c tid => Sys2Proof.Machine.execNormSum c tid s
  | .replicaDigest c => Sys2Proof.Machine.execReplicaDigest c s
  | .resync c copies => Sys2Proof.Machine.execResync c copies s
  | .deviceArrive c => Sys2Proof.Machine.execDeviceArrive c s
  | .milestoneComplete c scales => Sys2Proof.Machine.execMilestoneComplete c scales s
  | .switchbackWritten c => Sys2Proof.Machine.execSwitchbackWritten c s
  | .helloSend p => Sys2Proof.Machine.execHelloSend p s
  | .helloRx p f => Sys2Proof.Machine.execHelloRx p f s
  | .missedBeat p => Sys2Proof.Machine.execMissedBeat p s
  | .ackRx p f => Sys2Proof.Machine.execAckRx p f s
  | .ackSend p => Sys2Proof.Machine.execAckSend p s
  | .nakRx p f => Sys2Proof.Machine.execNakRx p f s
  | .retryTimeout p => Sys2Proof.Machine.execRetryTimeout p s
  | .portRetrain p => Sys2Proof.Machine.execPortRetrain p s
  | .dataRx p f => Sys2Proof.Machine.execDataRx p f s
  | .fragRx p f => Sys2Proof.Machine.execFragRx p f s
  | .reqRx p f => Sys2Proof.Machine.execReqRx p f s
  | .respRx p f => Sys2Proof.Machine.execRespRx p f s
  | .agreeRx p f => Sys2Proof.Machine.execAgreeRx p f s
  | .mgmtRx p f => Sys2Proof.Machine.execMgmtRx p f s
  | .epochRx p f scales => Sys2Proof.Machine.execEpochRx p f scales s
  | .fabSwitchAtWrite c m => Sys2Proof.Machine.execFabSwitchAtWrite c m s
  | .fabIdWrite v => Sys2Proof.Machine.execFabIdWrite v s
  | .rest c => Sys2Proof.Machine.execRest c s
  | .fetch c => Sys2Proof.Machine.execFetch c s
  | .evictDone c tid p => Sys2Proof.Machine.execEvictDone c tid p s
  | .waysideDemand c tid p => Sys2Proof.Machine.execWaysideDemand c tid p s
  | .fetchStart c tid p => Sys2Proof.Machine.execFetchStart c tid p s
  | .hbmScrubInterval k upsets odecc => Sys2Proof.Machine.execHbmScrubInterval k upsets odecc s
  | .selfRefreshExit k => Sys2Proof.Machine.execSelfRefreshExit k s
  | .stackLost k cause => Sys2Proof.Machine.execStackLost k cause s
  | .hbmLayoutWrite v => Sys2Proof.Machine.execHbmLayoutWrite v s
  | .hbmBundleAtWrite c m => Sys2Proof.Machine.execHbmBundleAtWrite c m s
  | .bundleVerify c => Sys2Proof.Machine.execBundleVerify c s
  | .chunkHashed c => Sys2Proof.Machine.execChunkHashed c s
  | .retry c => Sys2Proof.Machine.execRetry c s
  | .abort c => Sys2Proof.Machine.execAbort c s
  | .ctxCreate m => Sys2Proof.Machine.execCtxCreate m s
  | .ctxDestroy m => Sys2Proof.Machine.execCtxDestroy m s
  | .ctxSwitch m => Sys2Proof.Machine.execCtxSwitch m s
  | .switchExecute c => Sys2Proof.Machine.execSwitchExecute c s
  | .preemptTimeout c => Sys2Proof.Machine.execPreemptTimeout c s
  | .laybyLend t => Sys2Proof.Machine.execLaybyLend t s
  | .laybyReclaim t => Sys2Proof.Machine.execLaybyReclaim t s
  | .evaluationSwitchIn e => Sys2Proof.Machine.execEvaluationSwitchIn e s
  | .evaluationSwitchOut e => Sys2Proof.Machine.execEvaluationSwitchOut e s
  | .watchdogExpire n => Sys2Proof.Machine.execWatchdogExpire n s
  | .configNoAnswer tile => Sys2Proof.Machine.execConfigNoAnswer tile s
  | .tileFence t => Sys2Proof.Machine.execTileFence t s
  | .recoveryEnter c => Sys2Proof.Machine.execRecoveryEnter c s
  | .aliveWindowExpire c => Sys2Proof.Machine.execAliveWindowExpire c s
  | .attemptTimeout c => Sys2Proof.Machine.execAttemptTimeout c s
  | .mirrorRebuild c => Sys2Proof.Machine.execMirrorRebuild c s
  | .resume c => Sys2Proof.Machine.execResume c s
  | .restart c => Sys2Proof.Machine.execRestart c s
  | .replay c => Sys2Proof.Machine.execReplay c s
  | .diagnosticReplay c => Sys2Proof.Machine.execDiagnosticReplay c s
  | .aonFenceWrite place v => Sys2Proof.Machine.execAonFenceWrite place v s
  | .pet => Sys2Proof.Machine.execPet s
  | .watchdogEnable => Sys2Proof.Machine.execWatchdogEnable s
  | .attach m => Sys2Proof.Machine.execAttach m s
  | .auth m => Sys2Proof.Machine.execAuth m s
  | .detach m => Sys2Proof.Machine.execDetach m s
  | .keepalive m => Sys2Proof.Machine.execKeepalive m s
  | .attest m => Sys2Proof.Machine.execAttest m s
  | .cfgRead m => Sys2Proof.Machine.execCfgRead m s
  | .cfgWrite m => Sys2Proof.Machine.execCfgWrite m s
  | .ctxClaim m => Sys2Proof.Machine.execCtxClaim m s
  | .start m => Sys2Proof.Machine.execStart m s
  | .doorbell m => Sys2Proof.Machine.execDoorbell m s
  | .watch m => Sys2Proof.Machine.execWatch m s
  | .qpOpen m => Sys2Proof.Machine.execQpOpen m s
  | .qpClose m => Sys2Proof.Machine.execQpClose m s
  | .regionAdd m => Sys2Proof.Machine.execRegionAdd m s
  | .regionDel m => Sys2Proof.Machine.execRegionDel m s
  | .hbmMap m => Sys2Proof.Machine.execHbmMap m s
  | .eventAck m => Sys2Proof.Machine.execEventAck m s
  | .eventResend a => Sys2Proof.Machine.execEventResend a s
  | .agentTimeout a => Sys2Proof.Machine.execAgentTimeout a s
  | .ncpAuthDiscard ty m => Sys2Proof.Machine.execNcpAuthDiscard ty m s
  | .rdmaPacketRx p => Sys2Proof.Machine.execRdmaPacketRx p s
  | .lldpSend => Sys2Proof.Machine.execLldpSend s
  | .hostIpLoWrite v => Sys2Proof.Machine.execHostIpLoWrite v s
  | .hostLinkUp speed => Sys2Proof.Machine.execHostLinkUp speed s
  | .fwOffer m => Sys2Proof.Machine.execFwOffer m s
  | .fwData m => Sys2Proof.Machine.execFwData m s
  | .fwEnd m => Sys2Proof.Machine.execFwEnd m s
  | .fwAbort m => Sys2Proof.Machine.execFwAbort m s
  | .bootStart hostMode => Sys2Proof.Machine.execBootStart hostMode s
  | .initDone => Sys2Proof.Machine.execInitDone s
  | .progAgentHash k => Sys2Proof.Machine.execProgAgentHash k s
  | .progAdmin k => Sys2Proof.Machine.execProgAdmin k s
  | .progRevoked k => Sys2Proof.Machine.execProgRevoked k s
  | .progFwRevoke k => Sys2Proof.Machine.execProgFwRevoke k s
  | .progSvn => Sys2Proof.Machine.execProgSvn s
  | .fuseProgDone => Sys2Proof.Machine.execFuseProgDone s
  | .throttleNAccept len => Sys2Proof.Machine.execThrottleNAccept len s
  | .resetNAssert => Sys2Proof.Machine.execResetNAssert s
  | .powerOn addr => Sys2Proof.Machine.execPowerOn addr s
  | .undervoltage rail below => Sys2Proof.Machine.execUndervoltage rail below s
  | .dvfsChange => Sys2Proof.Machine.execDvfsChange s
  | .vrSettleExpire => Sys2Proof.Machine.execVrSettleExpire s
  | .pllLock p => Sys2Proof.Machine.execPllLock p s
  | .thermalSample raw stackTemps w10 w1 => Sys2Proof.Machine.execThermalSample raw stackTemps w10 w1 s
  | .thermalTrip => Sys2Proof.Machine.execThermalTrip s
  | .tileClockStop t => Sys2Proof.Machine.execTileClockStop t s
  | .tileRetain t => Sys2Proof.Machine.execTileRetain t s
  | .tileWake t => Sys2Proof.Machine.execTileWake t s
  | .deepSleepEnter => Sys2Proof.Machine.execDeepSleepEnter s
  | .deepSleepExit => Sys2Proof.Machine.execDeepSleepExit s
  | .enableRequest f => Sys2Proof.Machine.execEnableRequest f s
  | .disableRequest f => Sys2Proof.Machine.execDisableRequest f s
  | .startEnds f => Sys2Proof.Machine.execStartEnds f s
  | .stopEnds f => Sys2Proof.Machine.execStopEnds f s
  | .maxTemp => Sys2Proof.Machine.execMaxTemp s
  | .temps => Sys2Proof.Machine.execTemps s
  | .power => Sys2Proof.Machine.execPower s
  | .status => Sys2Proof.Machine.execStatus s
  | .boardLimitRead => Sys2Proof.Machine.execBoardLimitRead s
  | .boardLimitWrite v pec => Sys2Proof.Machine.execBoardLimitWrite v pec s
  | .echoWrite data pec => Sys2Proof.Machine.execEchoWrite data pec s
  | .echoRead => Sys2Proof.Machine.execEchoRead s
  | .step => Sys2Proof.Machine.execStep s
  | .snapNow => Sys2Proof.Machine.execSnapNow s
  | .traceEnable v => Sys2Proof.Machine.execTraceEnable v s
  | .portLoopbackRun n v => Sys2Proof.Machine.execPortLoopbackRun n v s
  | .portLoopbackEnd n errors => Sys2Proof.Machine.execPortLoopbackEnd n errors s
  | .hbmLoopbackRun k v => Sys2Proof.Machine.execHbmLoopbackRun k v s
  | .meshLoopbackRun v => Sys2Proof.Machine.execMeshLoopbackRun v s
  | .hbmReadEyeStep k pc byte up margin at_ => Sys2Proof.Machine.execHbmReadEyeStep k pc byte up margin at_ s
  | .serdesAdaptStep n lane setting eye conv => Sys2Proof.Machine.execSerdesAdaptStep n lane setting eye conv s
  | .droopThresholdStep g code rebase => Sys2Proof.Machine.execDroopThresholdStep g code rebase s
  | .droopEvent g => Sys2Proof.Machine.execDroopEvent g s
  | .thermalOffsetStep k diff => Sys2Proof.Machine.execThermalOffsetStep k diff s
  | .calFreezeWrite v => Sys2Proof.Machine.execCalFreezeWrite v s
  | .bypass code => Sys2Proof.Machine.execBypass code s
  | .idcode => Sys2Proof.Machine.execIdcode s
  | .samplePreload => Sys2Proof.Machine.execSamplePreload s
  | .extest => Sys2Proof.Machine.execExtest s
  | .clamp => Sys2Proof.Machine.execClamp s
  | .highz => Sys2Proof.Machine.execHighz s
  | .extestPulse => Sys2Proof.Machine.execExtestPulse s
  | .extestTrain => Sys2Proof.Machine.execExtestTrain s
  | .jtagCfgRead addr => Sys2Proof.Machine.execJtagCfgRead addr s
  | .mbist => Sys2Proof.Machine.execMbist s
  | .scan => Sys2Proof.Machine.execScan s
  | .fuseProg w => Sys2Proof.Machine.execFuseProg w s
  | .trstN => Sys2Proof.Machine.execTrstN s
  | .tileQresumeWrite t v => Sys2Proof.Machine.execTileQresumeWrite t v s
  | .tileQstatPcWrite t q v => Sys2Proof.Machine.execTileQstatPcWrite t q v s
  | .tileStoreLiveWrite t place v => Sys2Proof.Machine.execTileStoreLiveWrite t place v s
  | .tileShapeCtlWrite t v => Sys2Proof.Machine.execTileShapeCtlWrite t v s
  | .tapCtlWrite t v => Sys2Proof.Machine.execTapCtlWrite t v s
  | .registerWrite addr wide v => Sys2Proof.Machine.execRegisterWrite addr wide v s
  | .badFcsFrame p => Sys2Proof.Machine.execBadFcsFrame p s
  | .portRetrainEnd p ok lack recent => Sys2Proof.Machine.execPortRetrainEnd p ok lack recent s
  | .hostLinkDown => Sys2Proof.Machine.execHostLinkDown s
  | .roceRetransmitTimeout qpn => Sys2Proof.Machine.execRoceRetransmitTimeout qpn s
  | .roceRateRecovery qpn => Sys2Proof.Machine.execRoceRateRecovery qpn s
  | .neighbourSolicitation addr => Sys2Proof.Machine.execNeighbourSolicitation addr s
  | .echoRequest addr data => Sys2Proof.Machine.execEchoRequest addr data s
  | .duplicateAddressDetectionEnd dup => Sys2Proof.Machine.execDuplicateAddressDetectionEnd dup s
  | .pfcFrame prio quanta => Sys2Proof.Machine.execPfcFrame prio quanta s
  | .stackTrainingDone k => Sys2Proof.Machine.execStackTrainingDone k s
  | .fetchDone c tid p => Sys2Proof.Machine.execFetchDone c tid p s
  | .forcedFetchDone c tid p => Sys2Proof.Machine.execForcedFetchDone c tid p s
  | .hbmLoopbackEnd k errors => Sys2Proof.Machine.execHbmLoopbackEnd k errors s
  | .meshLoopbackEnd corr errors => Sys2Proof.Machine.execMeshLoopbackEnd corr errors s
  | .destroyPreemptionLimit c => Sys2Proof.Machine.execDestroyPreemptionLimit c s
  | .boardInputLevelChange reset level => Sys2Proof.Machine.execBoardInputLevelChange reset level s
  | .droopEnd g => Sys2Proof.Machine.execDroopEnd g s
  | .vddAonRemoved => Sys2Proof.Machine.execVddAonRemoved s

end Sys2Proof.Machine
end

