-- ==== Sys2Proof/WellFormed.lean ====
section
/-! DEFINITION. Which commands are well formed: every unit, field and address that a command names is one that the
part has (01_machine R17, Table 1.1; 09_causeway_collectives Table 9.2; 14_host_port Table 14.3). -/

namespace Sys2Proof

/-- A physical or virtual tile id. -/
def tileOk (t : Nat) : Bool := decide (t < 256)
/-- A context id. -/
def ctxOk (c : Nat) : Bool := decide (c < 64)
/-- A root solver engine. -/
def engOk (e : Nat) : Bool := decide (e < 16)
/-- A fabric port. -/
def portOk (p : Nat) : Bool := decide (p < 24)
/-- An HBM stack. -/
def stackOk (k : Nat) : Bool := decide (k < 12)
/-- An agent slot. -/
def slotOk (a : Nat) : Bool := decide (a < 8)
/-- A tap slot of a tile. -/
def slot16Ok (k : Nat) : Bool := decide (k < 16)
/-- A value of one byte. -/
def byteOk (n : Nat) : Bool := decide (n < 256)
/-- An IPv6 address. -/
def addrOk (a : Nat) : Bool := decide (a < 2 ^ 128)

/-- An instruction at the head of a queue names a tile and one of its queues. -/
def Issue.wf (i : Issue) : Bool := tileOk i.tile && decide (i.queue < 4)

/-- The upsets that a command carries are of places that the part has: the mesh words of a tile, the tap words of one of
its 16 slots, and results of the three parts of an instruction (06 R162; log 28). -/
def Upset.wf (u : Upset) : Bool :=
  u.results.all (fun r => decide (r.1 < 3)) && u.mesh.all (tileOk ·.1) && u.taps.all (slot16Ok ·.1)

/-- The header fields of a frame fit their places (09 Table 9.2). -/
def Frame.wf (f : Frame) : Bool :=
  decide (f.ver < 16) && decide (f.ty < 16) && decide (f.vc < 4) && decide (f.dst < 65536) && decide (f.src < 65536)
    && decide (f.lseq < 65536) && decide (f.lack < 65536) && decide (f.credit < 2 ^ 32) && decide (f.job < 65536)
    && decide (f.etype < 65536) && decide (f.dmac < 2 ^ 48) && decide (f.smac < 2 ^ 48)

/-- The fields of a request fit their places (14 Table 14.3). -/
def Ncp.wf (m : Ncp) : Bool :=
  byteOk m.ver && byteOk m.flags && byteOk m.slot && decide (m.session < 2 ^ 32) && decide (m.tag < 2 ^ 32)
    && byteOk m.status && byteOk m.ctx && decide (m.payload.length < 65536)

/-- The fields of a RoCEv2 packet fit their places. -/
def Rdma.wf (p : Rdma) : Bool :=
  decide (p.qpn < 2 ^ 24) && decide (p.psn < 2 ^ 24) && decide (p.rkey < 2 ^ 32) && decide (p.addr < 2 ^ 64)

/-- A function that the part has. -/
def Func.wf : Func → Bool
  | .tile t => tileOk t
  | .engine e => engOk e
  | .port n => portOk n
  | .host => true
  | .context c => ctxOk c

/-- A clock source that the part has. -/
def Pll.wf : Pll → Bool
  | .field f => decide (f < 4)
  | .group g => decide (g < 16)
  | .tile t => tileOk t
  | .port n => portOk n
  | .host => true

/-- A well-formed command. -/
def Instr.wf : Instr → Bool
  | .mma i u | .mmap i u => i.wf && u.wf
  | .mov m | .mroot m => m.i.wf && m.upset.wf
  | .tcfg i | .tclr i | .vadd i | .vsub i | .vmul i | .vfma i | .vmin i | .vmax i
  | .vcmp i | .vsel i | .vcvt i | .viadd i | .vlogic i | .vexp2 i | .vlog2 i | .vrcp i | .vrsq i | .vtanh i
  | .vred i | .vld i | .vst i | .vgath i | .vscat i | .vsms i | .vsmo i | .allreduce i
  | .reduceScatter i | .allgather i | .alltoallv i | .expert i | .permute i | .reduce i | .streamReceive i
  | .streamSend i | .fragEmpty i | .register i | .refresh i | .release i | .sadd i | .swait i | .sread i
  | .marrive i | .mwait i | .fence i | .nop i | .imov i | .iadd i | .loop i | .br i | .halt i | .flagr i
  | .yield i | .dload i | .live i => i.wf
  | .levelWindowEnd t _ _ _ | .tapSample t | .scrubInterval t _ | .fragmentArrive t | .laybyLend t
  | .laybyReclaim t | .tileFence t | .tileClockStop t | .tileRetain t | .tileWake t | .tileQresumeWrite t _
  | .tileShapeCtlWrite t _ | .tapCtlWrite t _ => tileOk t
  | .queueCreditReturn k => decide (k < 64)
  | .managementAssistedPath | .signalIncrement _ | .fabIdWrite _ | .hbmLayoutWrite _ | .watchdogExpire _
  | .pet | .watchdogEnable | .lldpSend | .hostIpLoWrite _ | .initDone | .progSvn | .fuseProgDone
  | .throttleNAccept _ | .resetNAssert | .dvfsChange | .vrSettleExpire | .thermalSample _ _ _ _
  | .thermalTrip | .deepSleepEnter | .deepSleepExit | .maxTemp | .temps | .power | .status | .boardLimitRead
  | .echoWrite _ _ | .echoRead | .step | .snapNow | .traceEnable _ | .meshLoopbackRun _ | .calFreezeWrite _
  | .idcode | .samplePreload | .extest | .clamp | .highz | .extestPulse | .extestTrain | .mbist | .scan
  | .fuseProg _ | .trstN | .hostLinkDown | .duplicateAddressDetectionEnd _ | .meshLoopbackEnd _ _
  | .boardInputLevelChange _ _ | .vddAonRemoved => true
  | .instructionComplete t q _ | .tileQstatPcWrite t q _ => tileOk t && decide (q < 4)
  | .tileArrive c v => ctxOk c && tileOk v
  | .tapSubtileReceive eng c => engOk eng && ctxOk c
  | .eccWriteback tile | .configNoAnswer tile => (tile.all tileOk)
  | .refreshStart eng | .rootDistribute eng => engOk eng
  | .newtonIteration x | .refreshEnd x => engOk x.eng
  | .workItem eng t => engOk eng && tileOk t
  | .deadlineArrive c | .rootAccept c | .replicaDigest c | .resync c _ | .deviceArrive c
  | .milestoneComplete c _ | .switchbackWritten c | .rest c | .fetch c | .bundleVerify c | .chunkHashed c
  | .retry c | .abort c | .switchExecute c | .preemptTimeout c | .recoveryEnter c | .aliveWindowExpire c
  | .attemptTimeout c | .mirrorRebuild c | .resume c | .restart c | .replay c | .diagnosticReplay c
  | .destroyPreemptionLimit c => ctxOk c
  | .updateApply t k | .deltaRecord t k => tileOk t && decide (k < 32)
  | .forcedFetch c tid _ | .normSum c tid | .evictDone c tid _ | .waysideDemand c tid _ | .fetchStart c tid _
  | .fetchDone c tid _ | .forcedFetchDone c tid _ => ctxOk c && decide (tid < 2 ^ 24)
  | .helloSend p | .missedBeat p | .ackSend p | .retryTimeout p | .portRetrain p | .badFcsFrame p => portOk p
  | .helloRx p f | .ackRx p f | .nakRx p f | .dataRx p f | .fragRx p f | .reqRx p f | .respRx p f
  | .agreeRx p f | .mgmtRx p f | .epochRx p f _ => portOk p && f.wf
  | .fabSwitchAtWrite c m | .hbmBundleAtWrite c m => ctxOk c && decide (m < 2 ^ 64)
  | .hbmScrubInterval k _ _ | .selfRefreshExit k | .hbmLoopbackRun k _ | .stackTrainingDone k
  | .hbmLoopbackEnd k _ => stackOk k
  | .stackLost k cause => stackOk k && decide (cause < 8)
  | .ctxCreate m | .ctxDestroy m | .ctxSwitch m | .attach m | .auth m | .detach m | .keepalive m | .attest m
  | .cfgRead m | .cfgWrite m | .ctxClaim m | .start m | .doorbell m | .watch m | .qpOpen m | .qpClose m
  | .regionAdd m | .regionDel m | .hbmMap m | .eventAck m | .fwOffer m | .fwData m | .fwEnd m | .fwAbort m
    => m.wf
  | .evaluationSwitchIn e | .evaluationSwitchOut e => ctxOk e
  | .aonFenceWrite i _ => decide (i < 4)
  | .eventResend a | .agentTimeout a => slotOk a
  | .ncpAuthDiscard ty m => byteOk ty && m.wf
  | .rdmaPacketRx p | .pllLock p => p.wf
  | .hostLinkUp speed => decide (speed < 8)
  | .bootStart hostMode => decide (hostMode < 8)
  | .progAgentHash k | .progAdmin k | .progRevoked k => decide (k < 8)
  | .progFwRevoke k => decide (k < 2)
  | .powerOn addr => decide (addr < 128)
  | .undervoltage rail _ => decide (rail < 6)
  | .enableRequest f | .disableRequest f | .startEnds f | .stopEnds f => f.wf
  | .boardLimitWrite v _ => decide (v < 65536)
  | .portLoopbackRun n _ | .portLoopbackEnd n _ => decide (n < 25)
  | .hbmReadEyeStep k pc byte _ margin at_
    => stackOk k && decide (pc < 32) && decide (byte < 32) && decide (margin < 256) && decide (at_ < 32)
  | .serdesAdaptStep n lane _ _ _ => decide (n < 25) && decide (lane < 4)
  | .droopThresholdStep g _ _ | .droopEvent g | .droopEnd g => decide (g < 16)
  | .thermalOffsetStep k _ => decide (k < 20)
  | .bypass code => byteOk code
  | .jtagCfgRead addr | .registerWrite addr _ _ => decide (addr < 2 ^ 26)
  | .tileStoreLiveWrite t i _ => tileOk t && decide (i < 4)
  | .portRetrainEnd p _ lack _ => portOk p && decide (lack < 65536)
  | .roceRetransmitTimeout qpn | .roceRateRecovery qpn => decide (qpn < 2 ^ 24)
  | .neighbourSolicitation addr | .echoRequest addr _ => addrOk addr
  | .pfcFrame prio quanta => decide (prio < 8) && decide (quanta < 65536)

end Sys2Proof
end

