-- ==== Sys2Proof/Safety.lean ====
section
/-! DEFINITION. The terms in which statements are made: what it takes for an instruction to issue, what a command may
change, the legal values of the fuses, and the form of the memories. -/

namespace Sys2Proof.Machine

/-! ### Instructions at issue (05_instruction_set R131, R132, R135) -/

/-- The instruction word at the head of a queue issues as an instruction of class `cls` and opcode `op`, at the place
`e`: the queue may issue, the word is the one that the image holds at the program counter, its header has no reserved bit
set, its wait is satisfied by what the queues before it leave of the counter, and the tile whose signal it raises
exists. -/
structure Issues (s : State) (i : Issue) (cls op : Nat) (e : Env) : Prop where
  env : s.issueEnv i = some e
  fetch : s.fetch e.c e.qu.pc = ⟨s, some e.w⟩
  cls_eq : e.cls = cls
  op_eq : e.op = op
  wait : wWaits e.w = true → wWCount e.w ≤ (s.tc e.c e.v).leftBelow e.q (wWSig e.w)
  hdr : wHdrOk e.w = true
  sig : wSigs e.w = true → s.vtOk e (wSTile e.w) = true

/-- The place's context resides on its tile, as on every place at which an instruction issues. -/
def Env.home (e : Env) (s : State) : Prop := (s.tile e.t).resident = some e.c ∧ (s.ctx e.c).vid e.t = some e.v

/-! ### What a command may change -/

/-- The two states are alike but for the sequencer state of contexts, instructions in flight, tiles, counters and
trace, and HBM: what the issue of an instruction may touch. -/
def State.sameButIssue (t s : State) : Prop :=
  { t with tctx := s.tctx, flight := s.flight, tiles := s.tiles, cnt := s.cnt, hbm := s.hbm } = s

/-- Two tiles are alike but for their event counters. -/
def Tile.sameButCounters (y x : Tile) : Prop := { y with counters := x.counters } = x

/-- No record of an instruction's issue is traced: tracing is off, of another context, or of other classes
(17_counters_trace R504). -/
def State.untraced (s : State) (e : Env) : Prop :=
  s.cnt.traces 1 e.c = false ∨ bit (fld s.cnt.trcCtl.toNat 40 8) e.cls = false

/-! ### Vector instructions (04_tile_store_vector R113, 05_instruction_set Table 5.8) -/

/-- Lane `l` is one that a vector instruction works on: every lane, or those of the named mask register. -/
def laneOn (tc : TileCtx) (p : VPay) (l : Nat) : Prop := p.men = true → (tc.mask p.mreg).getLsbD l = true

/-- The lane-wise instructions that compute from VA, VB and VC alone: constructor, opcode, and the function of a
lane's three sources. -/
def laneOps : List ((Issue → Instr) × Nat × (W32 → W32 → W32 → FRes)) :=
  [(.vadd, 0x00, fun a b _ => fadd a b), (.vsub, 0x01, fun a b _ => fsub a b), (.vmul, 0x02, fun a b _ => fmul a b),
   (.vfma, 0x03, ffma), (.vmin, 0x04, fun a b _ => fminimum a b), (.vmax, 0x05, fun a b _ => fmaximum a b),
   (.viadd, 0x09, fun a b _ => ⟨a + b, flNone⟩), (.vexp2, 0x10, fun a _ _ => sfuExp2 a),
   (.vlog2, 0x11, fun a _ _ => sfuLog2 a), (.vrcp, 0x12, fun a _ _ => sfuRcp a), (.vrsq, 0x13, fun a _ _ => sfuRsq a),
   (.vtanh, 0x14, fun a _ _ => sfuTanh a)]

/-- The lane-wise result `out` of a function of the lane number, the old value and three sources: lanes that are on hold
the function's value, whose flags are in `fl`; the other lanes keep their value. -/
def lanesAre (tc : TileCtx) (p : VPay) (f : Nat → W32 → W32 → W32 → FRes) (out : List W32) (fl : ExFlags) : Prop :=
  out.length = (tc.vreg p.vd).length ∧
  ∀ l o a b c, l < 256 → (tc.vreg p.vd)[l]? = some o → (tc.vreg p.va)[l]? = some a → (tc.vreg p.vb)[l]? = some b →
    (tc.vreg p.vc)[l]? = some c →
    (laneOn tc p l → out[l]? = some (f l a b c).v ∧ (f l a b c).fl ||| fl = fl) ∧
    (¬ laneOn tc p l → out[l]? = some o)

/-- Bit `k` of a memory: bit `k % 8` of byte `k / 8`. -/
def memBit (m : Mem) (k : Nat) : Bool := (memRead m (k / 8)).getLsbD (k % 8)

/-- The element that lane `l` of a store or scatter writes for the value `a`, and its flags (R113, R118). -/
def laneElem (s : State) (e : Env) (l : Nat) (a : W32) : Nat × ExFlags :=
  let p := vpay e.pl
  storeElem p.fmt p.sat (e.round6 s p (p.rnd == 1 || (!(s.ctx e.c).classW && isFloatFmt p.fmt)) l)
    (Config.freeW32 (s.free + l)) a

/-- The bit addresses of the elements of a load or store, in tile store (R113). -/
def elemBits (s : State) (e : Env) (indexed : Bool) : List Int :=
  let p := vpay e.pl
  laneBits (fmtWidth p.fmt) (p.addr + (e.qu.ireg p.idx).toNat) indexed ((s.tc e.c e.v).vreg p.vb)

/-- Every element that a lane which is on names lies within the tile store. -/
def elemsIn (s : State) (e : Env) (indexed : Bool) : Prop :=
  ∀ l b, l < 256 → laneOn (s.tc e.c e.v) (vpay e.pl) l → (elemBits s e indexed)[l]? = some b →
    bitsIn (fmtWidth (vpay e.pl).fmt) b = true

/-- What a store or scatter does: the bits of each lane that is on hold its element where no later lane writes over them
(the order of lanes that overlap without naming one address is the model's choice, log 49), every other bit of the store
and every other tile stay, the flags are those of the lanes, and 256 free values are counted. -/
structure StoresLanes (s u : State) (e : Env) (scatter : Bool) (fl : ExFlags) : Prop where
  put : ∀ l b a j, l < 256 → (elemBits s e scatter)[l]? = some b → ((s.tc e.c e.v).vreg (vpay e.pl).va)[l]? = some a →
    laneOn (s.tc e.c e.v) (vpay e.pl) l → j < fmtWidth (vpay e.pl).fmt →
    (∀ l' b', l < l' → l' < 256 → laneOn (s.tc e.c e.v) (vpay e.pl) l' → (elemBits s e scatter)[l']? = some b' →
      b + j < b' ∨ b' + fmtWidth (vpay e.pl).fmt ≤ b + j) →
    memBit (u.tile e.t).store (b.toNat + j) = (laneElem s e l a).1.testBit j
  stay : ∀ k : Nat, (∀ l b, l < 256 → laneOn (s.tc e.c e.v) (vpay e.pl) l → (elemBits s e scatter)[l]? = some b →
      (k : Int) < b ∨ b + fmtWidth (vpay e.pl).fmt ≤ k) →
    memBit (u.tile e.t).store k = memBit (s.tile e.t).store k
  tiles : ∀ t, t ≠ e.t → u.tile t = s.tile t
  flags : ∀ l a, l < 256 → ((s.tc e.c e.v).vreg (vpay e.pl).va)[l]? = some a →
    laneOn (s.tc e.c e.v) (vpay e.pl) l → (laneElem s e l a).2 ||| fl = fl
  rest : { u with tiles := s.tiles, cnt := s.cnt, free := s.free } = s
  free : u.free = s.free + 256

/-! ### Posts (05_instruction_set R148) -/

/-- A post issues with the transfer descriptor `d`, read from a tile store without bad words: no reserved payload bit is
set, the descriptor is aligned and inside the store, and fewer than 64 are in flight. -/
structure PostsDesc (s : State) (i : Issue) (cls op : Nat) (e : Env) (d : Bytes) : Prop where
  issues : Issues s i cls op e
  plain : postOk e.pl = true
  aligned : postAddr e.pl e.qu % 64 = 0
  inside : postAddr e.pl e.qu + 64 ≤ storeSize
  room : s.posts e.c e.v < 64
  clean : (s.tile e.t).ecc = []
  desc : d = memReadBytes (s.tile e.t).store (postAddr e.pl e.qu) 64

/-- The collectives that a group takes part in: constructor and OP (09 Table 9.9). -/
def groupPosts : List ((Issue → Instr) × Nat) :=
  [(.allreduce, 0), (.reduceScatter, 1), (.allgather, 2), (.alltoallv, 3), (.expert, 4), (.permute, 5), (.reduce, 6)]

/-- A collective post may begin: the descriptor is legal and its status word inside the store, the context is a primary
with a shard map, the device is in the group, whose members are in order, the addresses are in range, the epoch is
the job's, and no v1 link is in the way (09 R283, R273, Table 9.10). -/
structure CollBegins (s : State) (e : Env) (d : Bytes) (g : Group) : Prop where
  primary : (s.ctx e.c).kind = 0
  legal : cpostOk d = true
  status : cStatus d + 8 ≤ storeSize
  mapped : (s.smap e.c).isSome = true
  group : g = (s.group e.c (cGroup d)).getD ⟨[], 2⟩
  member : ranksIn s.fab.devid g.members ≠ []
  order : cGroup d = 0 ∨ ascending (((s.groupRec e.c (cGroup d)).map (·.members)).getD [] |>.map fun m =>
    (indexOf? m (((s.groupRec e.c 0).map (·.members)).getD [])).getD 0x10000) = true
  ranges : s.collRanges e.c e.t d g.members.length
    (s.nextRank e.c (cGroup d) (ranksIn s.fab.devid g.members)) = true
  epoch : s.epochOk e.c d = true
  version : s.versionLow e.c d g.members = false

/-! ### The links (09_causeway_collectives Table 9.3) -/

/-- The commands that bring a frame of one type over a port to the part or through it: constructor and TYPE. -/
def frameCmds : List ((Nat → Frame → Instr) × Nat) :=
  [(.dataRx, 3), (.fragRx, 4), (.reqRx, 5), (.respRx, 6), (.agreeRx, 7), (.mgmtRx, 9)]

/-! ### Requests of the host port (14_host_port R433 to R436) -/

/-- A request of type `ty` is accepted: NCP is served, the message is authentic, its tag is new and inside the window,
its header is well formed, the ROM serves the firmware types alone, and the sender has what the type needs. -/
structure NcpAccepts (s : State) (ty : Nat) (m : Ncp) (p : Perm) : Prop where
  served : s.ncpServed = true
  authentic : s.authentic ty m = true
  fresh : (s.slot m.slot).cache.find? (fun e => e.1 == m.tag) = none
  inWindow : (s.slot m.slot).high < m.tag ∧ m.tag ≤ (s.slot m.slot).high + 64
  header : m.ver = 1 ∧ m.flags = 0 ∧ m.status = 0 ∧ m.ctx < 64
  stage : fwType ty = s.romServes
  permitted : s.permStatus p m = 0

/-- The state in which an accepted request acts: deep sleep ends, and the tag is noted (R435). -/
def State.ncpTaken (s : State) (ty : Nat) (m : Ncp) : State :=
  let s0 := if wakesDeep ty then s.wakeDeep else s
  let x := s0.slot m.slot
  s0.setSlot m.slot { x with high := m.tag, cache := ((m.tag, none) :: x.cache).take 256 }

/-- The request is answered with a status and a payload. -/
def State.replies (s : State) (ty : Nat) (m : Ncp) (status : Nat) (payload : Bytes) : State :=
  s.answer m.slot { ty := ty, tag := m.tag, status := status, ctx := m.ctx, payload := payload }

/-! ### The fuses (15_boot_security R460, Table 15.6) -/

/-- Every bit of `a` is set in `b`. -/
def bitsKept (a b : Nat) : Prop := ∀ i, bit a i = true → bit b i = true

/-- The values of the fuse fields are ones that their widths hold. -/
def Fuses.legal (f : Fuses) : Prop := f.lifecycle < 4 ∧ f.fwRevoke < 4 ∧ f.svn ≤ 64 ∧ f.mac < 2 ^ 48

/-- No fuse that `a` has set is clear in `b`: lifecycle, revocations and entry bits stay, the security version does not
fall, and a valid entry keeps its key hash. -/
def Fuses.grow (a b : Fuses) : Prop :=
  bitsKept a.lifecycle b.lifecycle ∧ bitsKept a.fwRevoke b.fwRevoke ∧ a.svn ≤ b.svn ∧
  ∀ k, ((a.agent k).valid = true → (b.agent k).valid = true ∧ (b.agent k).hash = (a.agent k).hash) ∧
    ((a.agent k).admin = true → (b.agent k).admin = true) ∧
    ((a.agent k).revoked = true → (b.agent k).revoked = true)

/-! ### The memories (04_tile_store_vector R102, 11_memory_tiers R339) -/

/-- Every memory of the part is in its canonical form. -/
def State.memsWf (s : State) : Prop :=
  memWf s.hbm.mem = true ∧ memWf s.hbm.aside = true ∧ ∀ t, memWf (s.tile t).store = true

end Sys2Proof.Machine
end

