-- ==== Sys2Proof/Certificates/Slice0/Obligations.lean ====
section
/-! DEFINITION. The statements for the provers. -/

open Sys2Proof Sys2Proof.Machine

/-! ### Steps and reset -/

/-- A step runs the command at the front of the queue on the rest of the state, and a part without commands idles
(the idling is the model's choice, log 1). -/
def Obligations.StepRunsFrontCommand : Prop :=
  (∀ (c : Instr) (rest : List Instr) (s : State), s.pending = c :: rest →
    Machine.step s = exec c { s with pending := rest }) ∧
  ∀ s : State, s.pending = [] → Machine.step s = .next s

/-! ### The sequencer (05_instruction_set) -/

/-- What issuing does, besides the instruction's own effect (R132, R135): the queue takes the next sequence number and
runs, the wait's count leaves the counter, the instruction is in flight, and nothing else changes but event counters,
and the trace ring where the issue is traced. -/
def Obligations.IssueTakesItsPlace : Prop :=
  ∀ (s : State) (e : Env) (f : Flight → Flight) (k : Queue → Queue),
    let t := s.commit e f k
    let old := s.tc e.c e.v
    let new := t.tc e.c e.v
    new.q e.q = k { old.q e.q with st := .running, seq := e.qu.seq + 1 } ∧
    (∀ q, q ≠ e.q → new.q q = old.q q) ∧
    (∀ n, new.sig n = if wWaits e.w = true ∧ n = wWSig e.w then old.sig n - wWCount e.w else old.sig n) ∧
    { new with queues := old.queues, sigs := old.sigs } = old ∧
    (∀ c v, tcKey c v ≠ tcKey e.c e.v → t.tc c v = s.tc c v) ∧
    t.flight = s.flight ++ [f e.flight] ∧
    t.sameButIssue s ∧
    (s.untraced e → t.hbm = s.hbm ∧ ∀ x, (t.tile x).sameButCounters (s.tile x))

/-- The instructions that act on their own queue alone: NOP, SWAIT, IMOV, IADD, SREAD, FLAGR, HALT and YIELD complete
with exactly the queue change of Table 5.10. -/
def Obligations.QueueInstructionsComplete : Prop :=
  ∀ (s : State) (i : Issue) (e : Env),
    (Issues s i 7 0 e → e.pl = 0 → exec (.nop i) s = .next (s.commit e id Queue.advance)) ∧
    (Issues s i 6 1 e → e.pl = 0 → exec (.swait i) s = .next (s.commit e id Queue.advance)) ∧
    (Issues s i 7 1 e → fld e.pl 32 52 = 0 → exec (.imov i) s =
      .next (s.commit e id fun q => (q.setIreg (fld e.pl 84 4) (BitVec.ofNat 32 (fld e.pl 0 32))).advance)) ∧
    (Issues s i 7 2 e → fld e.pl 32 48 = 0 → exec (.iadd i) s =
      .next (s.commit e id fun q => (q.setIreg (fld e.pl 84 4)
        (q.ireg (fld e.pl 80 4) + BitVec.ofNat 32 (fld e.pl 0 32))).advance)) ∧
    (Issues s i 6 2 e → fld e.pl 0 79 = 0 → wWaits e.w = false → exec (.sread i) s =
      .next (s.commit e id fun q => (q.setIreg (fld e.pl 84 4)
        (BitVec.ofNat 32 ((s.tc e.c e.v).sig (fld e.pl 79 5)))).advance)) ∧
    (Issues s i 7 6 e → fld e.pl 0 83 = 0 → exec (.flagr i) s =
      .next (s.commit e id fun q =>
        let q1 := (q.setIreg (fld e.pl 84 4) (BitVec.ofNat 32 q.flags.toNat)).advance
        if bit e.pl 83 then { q1 with flags := flNone } else q1)) ∧
    (Issues s i 7 5 e → e.pl = 0 → exec (.halt i) s =
      .next (s.commit e id fun q => { q.advance with st := .idle })) ∧
    (Issues s i 7 7 e → e.pl = 0 → exec (.yield i) s =
      .next (s.commit e id fun q => { q.advance with yielded := s.switchPending e.c }))

/-- LOOP and BR complete: a LOOP whose register is 0 skips its body, any other enters it; a BR that is taken goes to its
target and one that is not falls through; a body that runs past the enclosing one, a fifth level, and a branch out
of a body raise INVALID_INSTR. A loop's last instruction counts its register down and goes round until it is 0, then
falls through past every body that ends there (Table 5.10, R151). -/
def Obligations.BranchesComplete : Prop :=
  (∀ (s : State) (i : Issue) (e : Env),
      (Issues s i 7 3 e → fld e.pl 0 76 = 0 → 0 < fld e.pl 76 8 → fld e.pl 76 8 ≤ 60 →
        let start := e.qu.pc + 16
        let len := fld e.pl 76 8
        (e.qu.loops.length < 4 → loopPast e.qu.loops (start + 16 * len) = false →
          exec (.loop i) s = .next (s.commit e id fun q =>
            if q.ireg (fld e.pl 84 4) = 0 then loopEnd q.loops q (start + 16 * len)
            else { q with pc := start % 2 ^ 48, loops := ⟨start, len, fld e.pl 84 4⟩ :: q.loops })) ∧
        (4 ≤ e.qu.loops.length ∨ loopPast e.qu.loops (start + 16 * len) = true → exec (.loop i) s = .next (s.excAt e 1))) ∧
      (Issues s i 7 4 e → fld e.pl 32 51 = 0 →
        let taken := bit e.pl 83 = false ∨ e.qu.ireg (fld e.pl 84 4) ≠ 0
        let target := ((e.qu.pc : Int) + 16 * sext 32 (fld e.pl 0 32)) % (2 ^ 48 : Int)
        (taken → brOut e.qu.loops target = false → exec (.br i) s = .next (s.commit e id fun q => { q with pc := target.toNat })) ∧
        (¬ taken → exec (.br i) s = .next (s.commit e id Queue.advance)) ∧
        (taken → brOut e.qu.loops target = true → exec (.br i) s = .next (s.excAt e 1)))) ∧
  ∀ (q : Queue) (f : LoopFrame) (r : List LoopFrame), q.loops = f :: r → q.pc + 16 = f.start + 16 * f.len →
      f.ic ≠ 0 → f.ic < 16 →
      (q.ireg f.ic ≠ 1 → q.advance = { q.setIreg f.ic (q.ireg f.ic - 1) with pc := f.start % 2 ^ 48 }) ∧
      (q.ireg f.ic = 1 → q.advance = loopEnd r (q.setIreg f.ic 0) (q.pc + 16)) ∧
      (q.ireg f.ic = 1 → r = [] →
        q.advance = { q.setIreg f.ic 0 with pc := (q.pc + 16) % 2 ^ 48, loops := [] })

/-- SADD sends its increment; MARRIVE advances the step number and notes the arrival; MWAIT and FENCE issue once what
they wait for holds, and wait at the head of the queue before that (R138 to R140, R150). -/
def Obligations.SynchronisationComplete : Prop :=
  ∀ (s : State) (i : Issue) (e : Env),
    (Issues s i 6 0 e → fld e.pl 0 59 = 0 → fld e.pl 59 16 ≠ 0 → s.vtOk e (fld e.pl 80 8) = true →
      exec (.sadd i) s = .next (State.commit { s with sigs := s.sigs ++
        [⟨e.c, e.v, e.q, fld e.pl 80 8, fld e.pl 75 5, fld e.pl 59 16, 6, 0, e.qu.num, e.qu.step, e.qu.seq⟩] }
        e id Queue.advance)) ∧
    (Issues s i 6 3 e → e.pl = 0 → (s.ctx e.c).kind = 0 → exec (.marrive i) s =
      .next (s.commit e id fun q => { q.advance with step := q.step + 1, arrived := some q.step })) ∧
    (Issues s i 6 4 e → fld e.pl 8 80 = 0 → (s.ctx e.c).kind = 0 →
      let m := ((e.qu.step : Int) + sext 8 (fld e.pl 0 8)).toNat
      ((s.ctx e.c).reached m = true → exec (.mwait i) s = .next (s.commit e id Queue.advance)) ∧
      ((s.ctx e.c).reached m = false → exec (.mwait i) s =
        .next (s.setQueue e.c e.v e.q { e.qu with st := .waiting, waits := .mstone m }))) ∧
    (Issues s i 6 5 e → e.pl = 0 →
      ((∀ f ∈ s.flight, f.ofQueue e.c e.v e.q = false) → exec (.fence i) s = .next (s.commit e id Queue.advance)) ∧
      ((∃ f ∈ s.flight, f.ofQueue e.c e.v e.q = true) → exec (.fence i) s =
        .next (s.setQueue e.c e.v e.q { e.qu with st := .waiting, waits := .fence })))

/-- LIVE sets or clears exactly its regions in the live map, and DLOAD loads exactly its entries from a tile store
without bad words (R110, R151). -/
def Obligations.TableInstructionsComplete : Prop :=
  ∀ (s : State) (i : Issue) (e : Env),
    (Issues s i 7 9 e → fld e.pl 0 71 = 0 → fld e.pl 80 8 + fld e.pl 72 8 ≤ 255 →
      ∃ live : BitVec 256, exec (.live i) s =
        .next (State.commit (s.setTc e.c e.v { s.tc e.c e.v with live := live }) e id Queue.advance) ∧
        ∀ r, r < 256 → live.getLsbD r =
          if fld e.pl 80 8 ≤ r ∧ r ≤ fld e.pl 80 8 + fld e.pl 72 8 then bit e.pl 71
          else (s.tc e.c e.v).live.getLsbD r) ∧
    (Issues s i 7 8 e → fld e.pl 0 53 = 0 → bit e.pl 75 = false → fld e.pl 82 6 + fld e.pl 76 6 + 1 ≤ 64 →
      fld e.pl 53 22 + 16 * (fld e.pl 76 6 + 1) ≤ storeSize → (s.tile e.t).ecc = [] →
      ∃ tab : Tbl (BitVec 128), exec (.dload i) s =
        .next (State.commit (s.setTc e.c e.v { s.tc e.c e.v with opTab := tab }) e
          (fun f => { f with poison := false }) Queue.advance) ∧
        ∀ k, Tbl.get 0 tab k =
          if fld e.pl 82 6 ≤ k ∧ k ≤ fld e.pl 82 6 + fld e.pl 76 6 then
            BitVec.ofNat 128 (leNat (memReadBytes (s.tile e.t).store
              (fld e.pl 53 22 + 16 * (k - fld e.pl 82 6)) 16))
          else Tbl.get 0 (s.tc e.c e.v).opTab k)

/-- Where an instruction does not execute (R131, R135, R152): a word that cannot be fetched halts the queue with FETCH,
a wait that what the earlier queues leave of its counter does not satisfy leaves the queue waiting, and an unassigned
word or one with a reserved payload bit halts the queue with INVALID_INSTR; each for NOP as for every instruction. A
command that names another word than the image holds at the program counter is not due (the model's choice, log 2). -/
def Obligations.IssueStops : Prop :=
  ∀ (s : State) (i : Issue) (e : Env), s.issueEnv i = some e →
    ((s.fetch e.c e.qu.pc).word = none → exec (.nop i) s = .next ((s.fetch e.c e.qu.pc).s.excAt e 6)) ∧
    (∀ w, (s.fetch e.c e.qu.pc).word = some w → w ≠ e.w → exec (.nop i) s = .next s) ∧
    (s.fetch e.c e.qu.pc = ⟨s, some e.w⟩ → e.cls = 7 → e.op = 0 → wWaits e.w = true →
      (s.tc e.c e.v).leftBelow e.q (wWSig e.w) < wWCount e.w → exec (.nop i) s =
        .next (s.setQueue e.c e.v e.q { e.qu with st := .waiting, waits := .signal (wWSig e.w) (wWCount e.w) })) ∧
    (s.fetch e.c e.qu.pc = ⟨s, some e.w⟩ → opAssigned e.cls e.op = false → wWaits e.w = false →
      exec (.nop i) s = .next (s.excAt e 1)) ∧
    (Issues s i 7 0 e → e.pl ≠ 0 → exec (.nop i) s = .next (s.excAt e 1)) ∧
    ∀ code, let t := s.excAt e code
      t.queue e.c e.v e.q = { s.queue e.c e.v e.q with st := .halted, exc := code } ∧
      (∀ q, q ≠ e.q → t.queue e.c e.v q = s.queue e.c e.v q) ∧ t.flight = s.flight ∧
      (bit (s.tile e.t).excLog.toNat 63 = true → (t.tile e.t).excLog = (s.tile e.t).excLog)

/-- TILE_EXC_LOG, the 64-bit register at offset 0x0148 of its tile: an exception writes QUEUE, CODE, CLASS, OP and SEQ
into it and sets VALID while VALID is 0, and while VALID is 1 the log holds its value (R157, Table 5.18). -/
def Obligations.ExceptionLogHoldsFirst : Prop :=
  ∀ (s : State) (c v t q code cls op seq step : Nat), t < 256 → q < 4 → code < 16 → cls < 16 → op < 64 →
    let log := ((s.logExc c v t q code cls op seq step).tile t).excLog
    ((s.tile t).excLog.getLsbD 63 = true → log = (s.tile t).excLog) ∧
    ((s.tile t).excLog.getLsbD 63 = false → log.getLsbD 63 = true ∧ fld log.toNat 61 2 = q ∧
      fld log.toNat 57 4 = code ∧ fld log.toNat 53 4 = cls ∧ fld log.toNat 47 6 = op ∧ fld log.toNat 32 15 = 0 ∧
      fld log.toNat 0 32 = seq % 2 ^ 32) ∧
    (∃ r, s.regOf (0x01000000 + 0x4000 * t + 0x0148) = some (r, 0) ∧ r.name = .tileExcLog ∧ r.unit = t ∧
      r.bytes = 8) ∧
    ((s.tile t).answers = true →
      (s.cfgRead (fun _ _ => false) (0x01000000 + 0x4000 * t + 0x0148) 8).val = (s.tile t).excLog.toNat)

/-! ### The vector unit (04_tile_store_vector, 05_instruction_set) -/

/-- The twelve lane-wise instructions VADD to VMAX, VIADD and the special functions complete: each lane that is on takes
the function of its sources, and the other lanes, registers and memory stay (R113, Table 5.8). -/
def Obligations.VectorLanesComplete : Prop :=
  ∀ (s : State) (i : Issue) (e : Env), ∀ x ∈ laneOps,
    let p := vpay e.pl
    let tc := s.tc e.c e.v
    Issues s i 2 x.2.1 e → p.rnd < 2 → p.sub = 0 →
    ∃ out fl, exec (x.1 i) s =
      .next (State.commit (s.setTc e.c e.v (tc.setVreg p.vd out)) e (fun g => { g with flags := fl }) Queue.advance) ∧
      lanesAre tc p (fun _ a b c => x.2.2 a b c) out fl

/-- VSEL, VLOGIC and VCVT complete: a lane that is on takes the source that its mask bit names, the logical function,
or the conversion to the format at its rounding; VCVT counts its lanes' free values (R113, R557, log 21). -/
def Obligations.SelectLogicConvertComplete : Prop :=
  ∀ (s : State) (i : Issue) (e : Env),
    let p := vpay e.pl
    let tc := s.tc e.c e.v
    p.rnd < 2 →
    (Issues s i 2 0x07 e → p.sub = 0 → ∃ out fl, exec (.vsel i) s =
      .next (State.commit (s.setTc e.c e.v (tc.setVreg p.vd out)) e id Queue.advance) ∧
      lanesAre tc p (fun l a b _ => ⟨if (tc.mask p.mreg).getLsbD l then a else b, flNone⟩) out fl) ∧
    (Issues s i 2 0x0A e → p.sub < 4 → ∃ out fl, exec (.vlogic i) s =
      .next (State.commit (s.setTc e.c e.v (tc.setVreg p.vd out)) e id Queue.advance) ∧
      lanesAre tc p (fun _ a b _ => ⟨if p.sub = 0 then a &&& b else if p.sub = 1 then a ||| b
        else if p.sub = 2 then a ^^^ b else a &&& ~~~b, flNone⟩) out fl) ∧
    (Issues s i 2 0x08 e → p.sub < 2 → p.fmt ≠ 0xF → ∃ out fl, exec (.vcvt i) s =
      .next (State.commit ({ s with free := s.free + 256 }.setTc e.c e.v (tc.setVreg p.vd out)) e
        (fun g => { g with flags := fl }) Queue.advance) ∧
      lanesAre tc p (fun l a _ _ => cvtLane p.fmt p.sat (bit p.sub 0) (e.round6 s p (p.rnd == 1) l)
        (Config.freeW32 (s.free + l)) a) out fl)

/-- VCMP writes one mask register: the bit of each lane that is on tells the relation, and the other bits stay; VRED
writes lane 0 of VD with the tree sum, minimum or maximum and leaves its other lanes (R40, R114). A VCMP that compares
positions for attention raises INVALID_INSTR on one outside 0 to 2^24 - 1 (R120; which words do is free, log 50). -/
def Obligations.CompareReduceComplete : Prop :=
  ∀ (s : State) (i : Issue) (e : Env),
    let p := vpay e.pl
    let tc := s.tc e.c e.v
    p.rnd < 2 →
    (Issues s i 2 0x06 e → p.vd < 8 → fld p.sub 0 3 < 6 → fld p.sub 4 7 = 0 →
      badAttention e.w p (tc.lanesOn p) (tc.vreg p.va) (tc.vreg p.vb) = true → exec (.vcmp i) s = .next (s.excAt e 1)) ∧
    (Issues s i 2 0x06 e → p.vd < 8 → fld p.sub 0 3 < 6 → fld p.sub 4 7 = 0 →
      badAttention e.w p (tc.lanesOn p) (tc.vreg p.va) (tc.vreg p.vb) = false → ∃ (m : BitVec 256) (fl : ExFlags),
      exec (.vcmp i) s = .next (State.commit (s.setTc e.c e.v { tc with masks := Tbl.set tc.masks p.vd m }) e
        (fun g => { g with flags := fl }) Queue.advance) ∧
      ∀ l a b, l < 256 → (tc.vreg p.va)[l]? = some a → (tc.vreg p.vb)[l]? = some b →
        (laneOn tc p l → m.getLsbD l =
          if bit p.sub 3 then irel (fld p.sub 0 3) a b else frel (fld p.sub 0 3) a b) ∧
        (¬ laneOn tc p l → m.getLsbD l = (tc.mask p.vd).getLsbD l)) ∧
    (Issues s i 2 0x18 e → p.sub < 3 → ∃ (r : List W32 × ExFlags),
      r = treeRed (if p.sub = 0 then fadd else if p.sub = 1 then fminimum else fmaximum) 8
        (redLanes (tc.lanesOn p) (tc.vreg p.va)) ∧
      exec (.vred i) s = .next (State.commit
        (s.setTc e.c e.v (tc.setVreg p.vd ((tc.vreg p.vd).set 0 ((r.1[0]?).getD 0)))) e
        (fun g => { g with flags := r.2 }) Queue.advance))

/-- The two softmax-merge instructions complete: in each lane that is on VSMS writes the merged maximum and sum to VD and
VD + 1 and the factors and the case to VC to VC + 2, and VSMO writes VD from them; the other lanes and registers stay
(R119, R147). Where VSMS names one register twice, the later of VD, VD + 1, VC, VC + 1 and VC + 2 is written last (the
model's choice, log 16). The queries without a key that VSMS counts are log 14's free value. -/
def Obligations.SoftmaxMergeComplete : Prop :=
  ∀ (s : State) (i : Issue) (e : Env),
    let p := vpay e.pl
    let tc := s.tc e.c e.v
    p.rnd < 2 → p.sub = 0 → p.vc ≤ 29 →
    (Issues s i 2 0x28 e → p.vd ≤ 30 → p.va ≤ 30 →
      ∃ (tc1 : TileCtx) (n : Nat) (fl : ExFlags), exec (.vsms i) s =
        .next (State.commit ((s.setTc e.c e.v tc1).countEmpty e.t n) e (fun g => { g with flags := fl }) Queue.advance) ∧
        n ≤ 256 ∧ { tc1 with vregs := tc.vregs } = tc ∧
        (∀ r, r ≠ p.vd → r ≠ p.vd + 1 → r ≠ p.vc → r ≠ p.vc + 1 → r ≠ p.vc + 2 → tc1.vreg r = tc.vreg r) ∧
        (∀ r l o, l < 256 → (tc.vreg r)[l]? = some o → ¬ laneOn tc p l → (tc1.vreg r)[l]? = some o) ∧
        ∀ r l o m k m2 k2, l < 256 → (tc.vreg r)[l]? = some o → (tc.vreg p.vd)[l]? = some m →
          (tc.vreg (p.vd + 1))[l]? = some k → (tc.vreg p.va)[l]? = some m2 → (tc.vreg (p.va + 1))[l]? = some k2 →
          laneOn tc p l →
          let x := mergeState m k m2 k2
          (tc1.vreg r)[l]? = some (if r = p.vc + 2 then x.case else if r = p.vc + 1 then x.b else if r = p.vc then x.a
            else if r = p.vd + 1 then x.l else if r = p.vd then x.m else o) ∧ x.fl ||| fl = fl) ∧
    (Issues s i 2 0x29 e → ∃ out fl, exec (.vsmo i) s =
      .next (State.commit (s.setTc e.c e.v (tc.setVreg p.vd out)) e (fun g => { g with flags := fl }) Queue.advance) ∧
      ∀ l o o2 a b k, l < 256 → (tc.vreg p.vd)[l]? = some o → (tc.vreg p.va)[l]? = some o2 →
        (tc.vreg p.vc)[l]? = some a → (tc.vreg (p.vc + 1))[l]? = some b → (tc.vreg (p.vc + 2))[l]? = some k →
        (laneOn tc p l → out[l]? = some (mergeOut o o2 a b k).v ∧ (mergeOut o o2 a b k).fl ||| fl = fl) ∧
        (¬ laneOn tc p l → out[l]? = some o))

/-- VLD and VGATH complete on a tile store without bad words: each lane that is on takes its element, at the contiguous
address or at the base plus its offset, as a lane holds the format; the store and the other lanes stay (R112, R113).
VGATH counts its bank conflicts. -/
def Obligations.VectorLoadsComplete : Prop :=
  ∀ (s : State) (i : Issue) (e : Env) (gather : Bool),
    let p := vpay e.pl
    let tc := s.tc e.c e.v
    let w := fmtWidth p.fmt
    let base := p.addr + (e.qu.ireg p.idx).toNat
    let ls := laneBits w base gather (tc.vreg p.vb)
    Issues s i 2 (if gather then 0x22 else 0x20) e → p.rnd < 2 → p.sub = 0 → p.fmt ≠ 0xF → (s.tile e.t).ecc = [] →
    (∀ l b, laneOn tc p l → ls[l]? = some b → bitsIn w b = true) →
    ∃ out, exec (if gather then .vgath i else .vld i) s =
      .next (State.commit ((if gather then s.evTile 0x00D e.t (bankMax ls) else s).setTc e.c e.v
        (tc.setVreg p.vd out)) e (fun g => { g with poison := false }) Queue.advance) ∧
      ∀ l o b, l < 256 → (tc.vreg p.vd)[l]? = some o → ls[l]? = some b →
        (laneOn tc p l → out[l]? = some (laneOf p.fmt (fld (leNat (memReadBytes (s.tile e.t).store (b.toNat / 8)
          ((b.toNat % 8 + w + 7) / 8))) (b.toNat % 8) w))) ∧
        (¬ laneOn tc p l → out[l]? = some o)

/-- VST completes for every format that it may store, contiguous lanes within the tile store: each lane that is on puts
its element, in the bits of its place, and every other bit of every tile store stays (R113, R118). -/
def Obligations.VectorStoreCompletes : Prop :=
  ∀ (s : State) (i : Issue) (e : Env),
    let p := vpay e.pl
    Issues s i 2 0x21 e → p.rnd < 2 → p.sub = 0 → p.fmt ≠ 0xF → ((s.ctx e.c).classW = true ∨ p.fmt ≠ 0) →
    elemsIn s e false →
    ∃ u fl, exec (.vst i) s = .next (State.commit u e (fun g => { g with flags := fl }) Queue.advance) ∧
      StoresLanes s u e false fl

/-- VSCAT completes when the elements of its lanes that are on lie within the tile store: each such lane puts its element
at its own address, and every other bit of every tile store stays (R113). A load, store, gather or scatter that names a
byte outside the tile store in a lane that is on raises ACCESS (Table 5.11), and a class N context that would store FP32
raises INVALID_INSTR (R118). -/
def Obligations.VectorAccessChecks : Prop :=
  ∀ (s : State) (i : Issue) (e : Env),
    let p := vpay e.pl
    p.rnd < 2 → p.sub = 0 → p.fmt ≠ 0xF →
    (Issues s i 2 0x23 e → ((s.ctx e.c).classW = true ∨ p.fmt ≠ 0) → elemsIn s e true →
      ∃ u fl, exec (.vscat i) s = .next (State.commit u e (fun g => { g with flags := fl }) Queue.advance) ∧
        StoresLanes s u e true fl) ∧
    (¬ elemsIn s e true →
      (Issues s i 2 0x23 e → ((s.ctx e.c).classW = true ∨ p.fmt ≠ 0) → exec (.vscat i) s = .next (s.excAt e 2)) ∧
      (Issues s i 2 0x22 e → exec (.vgath i) s = .next (s.excAt e 2))) ∧
    (¬ elemsIn s e false →
      (Issues s i 2 0x21 e → ((s.ctx e.c).classW = true ∨ p.fmt ≠ 0) → exec (.vst i) s = .next (s.excAt e 2)) ∧
      (Issues s i 2 0x20 e → exec (.vld i) s = .next (s.excAt e 2))) ∧
    ((s.ctx e.c).classW = false → p.fmt = 0 →
      (Issues s i 2 0x21 e → exec (.vst i) s = .next (s.excAt e 1)) ∧
      (Issues s i 2 0x23 e → exec (.vscat i) s = .next (s.excAt e 1)))

/-! ### Posts (05_instruction_set R148, R149; 09_causeway_collectives R283 to R294; 07_root_solver R193 to R197) -/

/-- MOV between places of one tile's own store completes: each row is copied, every other byte of every tile store
stays, and the instruction is in flight as a posted descriptor with its work done (R148, R149); behind an earlier move of
its queue within the store it stays to be done (01 R21). -/
def Obligations.MoveWithinStoreCopies : Prop :=
  ∀ (s : State) (i : Issue) (u : Upset) (e : Env) (d : Bytes),
    let m := moveOf d
    PostsDesc s i 3 0 e d → moveOk d = true → m.srcSpace = 0 → m.dstSpace = 0 → m.flags = 0 →
    storeRowsOk m.src m.spitch m.rows m.rowbytes = true → storeRowsOk m.dst m.dpitch m.rows m.rowbytes = true →
    m.status + 8 ≤ storeSize → (m.rows = 1 ∨ m.rowbytes ≤ m.dpitch) → (s.tile e.t).runs = true →
    (s.owedBefore e.c e.v e.q e.qu.seq e.v e.v = true → exec (.mov ⟨i, u⟩) s = .next (s.commit e
      (fun f => { f with posted := true, statusAt := some m.status, work := .post d }) Queue.advance)) ∧
    (s.owedBefore e.c e.v e.q e.qu.seq e.v e.v = false →
    ∃ t, exec (.mov ⟨i, u⟩) s = .next t ∧
      (∀ r j, r < m.rows → j < m.rowbytes →
        memRead (t.tile e.t).store (m.dst + r * m.dpitch + j) = memRead (s.tile e.t).store (m.src + r * m.spitch + j)) ∧
      (∀ a, (∀ r, r < m.rows → a < m.dst + r * m.dpitch ∨ m.dst + r * m.dpitch + m.rowbytes ≤ a) →
        memRead (t.tile e.t).store a = memRead (s.tile e.t).store a) ∧
      (∀ u, u ≠ e.t → (t.tile u).store = (s.tile u).store) ∧
      t.flight = s.flight ++ [{ e.flight with posted := true, statusAt := some m.status }] ∧
      (s.untraced e → t.hbm = s.hbm))

/-- MOV of one row into HBM writes it through the context's translation: the bytes of a tile store's source at the
device address, but for those of a committed slot, which stay as they are (00 R5; the model's choice, log 114), and no
other byte (R149, R340). Every ordinary move whose ends are within reach and that is no stage queue's issues and goes on
as far as it can. -/
def Obligations.MoveToMemoryWrites : Prop :=
  ∀ (s : State) (i : Issue) (u : Upset) (e : Env) (d : Bytes),
    let m := moveOf d
    PostsDesc s i 3 0 e d → moveOk d = true → m.status + 8 ≤ storeSize →
    (s.endOk e m.srcSpace m.src m.spitch m.rows m.rowbytes [m.srcVt] false = true →
      s.endOk e m.dstSpace m.dst m.dpitch m.rows m.rowbytes (m.dstTiles e.v) true = true → bit m.flags 1 = false →
      s.sendAct e.c m = .none → s.receiveAct e.c m = .none →
      exec (.mov ⟨i, u⟩) s = .next (s.act e (moveGo e s d none false none u))) ∧
    (∀ dev, m.srcSpace = 0 → m.dstSpace = 2 → m.flags = 0 → m.rows = 1 →
      storeRowsOk m.src m.spitch m.rows m.rowbytes = true → s.xlate e.c m.dst m.rowbytes true = some dev →
      (∀ c ∈ s.jobCtxs, ∀ j, (s.ctx c).job = some j → j.chatDue = false) → s.untraced e →
      ∃ t, exec (.mov ⟨i, u⟩) s = .next t ∧
        (∀ j, j < m.rowbytes → memRead t.hbm.mem (dev + j) =
          if s.committed.any (fun r => decide (r.1 ≤ dev + j) && decide (dev + j < r.1 + r.2)) then
            memRead s.hbm.mem (dev + j)
          else memRead (s.tile e.t).store (m.src + j)) ∧
        (∀ a, a < dev ∨ dev + m.rowbytes ≤ a → memRead t.hbm.mem a = memRead s.hbm.mem a) ∧
        (∀ v, (t.tile v).store = (s.tile v).store))

/-- MROOT waits for the Milestone of its step, and then moves from the slot that holds the installed root (R197; the
columns' place in SRC is the model's choice, log 52). -/
def Obligations.MrootCompletes : Prop :=
  ∀ (s : State) (i : Issue) (u : Upset) (e : Env),
    (Issues s i 3 1 e → (s.ctx e.c).mstone < e.qu.step → exec (.mroot ⟨i, u⟩) s =
      .next (s.setQueue e.c e.v e.q { e.qu with st := .waiting, waits := .mstone e.qu.step })) ∧
    ∀ (d f : Bytes) (slot : Nat), PostsDesc s i 3 1 e d → e.qu.step ≤ (s.ctx e.c).mstone →
      moveOk d = true → s.factor e.c (moveOf d).tid = some f →
      (let m := moveOf d
       let k := mrootBlock m.src
       m.status + 8 ≤ storeSize ∧ k < facBlocks f ∧
       (m.rows - 1) * m.spitch + 2 * mrootCol m.src + m.rowbytes ≤ 2 * facSize f k * facSize f k ∧
       s.endOk e m.dstSpace m.dst m.dpitch m.rows m.rowbytes (m.dstTiles e.v) true = true ∧
       s.rootSel e.c f k e.qu.step = some slot) →
      (let m1 := moveOf (mrootMove f d slot)
       s.endOk e 2 m1.src m1.spitch m1.rows m1.rowbytes [] false = true) →
      exec (.mroot ⟨i, u⟩) s = .next (s.act e (moveGo e s (mrootMove f d slot) none false none u))

/-- The seven group collectives complete their issue: the collective is entered with its descriptor, rank and sequence
number, the instruction is in flight as a posted descriptor, and the first messages go out (R283 to R287). One posted
by a context without an installed shard map completes with status 0x03 and moves no data (Table 9.10). -/
def Obligations.GroupPostsComplete : Prop :=
  (∀ (s : State) (i : Issue) (e : Env) (d : Bytes) (g : Group), ∀ x ∈ groupPosts,
      PostsDesc s i 4 0 e d → cOp d = x.2 → CollBegins s e d g →
      let rank := s.nextRank e.c (cGroup d) (ranksIn s.fab.devid g.members)
      let b := s.beginColl e d g rank
      exec (x.1 i) s = .next ((State.commit b e (fun f =>
        { f with posted := true, statusAt := some (cStatus d), work := .post d, poison := false }) Queue.advance).kick).retryHeld ∧
      ∃ k : Coll, b.fab.colls = s.fab.colls ++ [k] ∧ k.ctx = e.c ∧ k.vt = e.v ∧ k.queue = e.q ∧ k.seq = e.qu.seq ∧
        k.rank = rank ∧ k.desc = d ∧ k.cseq = (s.postsOn e.c (cGroup d) rank + 1) % 65536 ∧ k.begun = false ∧
        k.queued = k.entry.isNone ∧ b.fab.refused = if k.entry.isNone then satInc 16 s.fab.refused else s.fab.refused) ∧
  ∀ (s : State) (i : Issue) (e : Env) (d : Bytes), ∀ x ∈ groupPosts,
      PostsDesc s i 4 0 e d → cOp d = x.2 → (s.ctx e.c).kind = 0 → cpostOk d = true → cStatus d + 8 ≤ storeSize →
      (s.smap e.c).isNone = true →
      exec (x.1 i) s = .next ((State.commit s e (fun f =>
        { f with posted := true, statusAt := some (cStatus d), status := 3, poison := false }) Queue.advance).kick).retryHeld

/-- STREAM posts and FRAG_EMPTY complete their issue: a stream takes the free flow entry that its descriptor names, a
receiving one tells its sender of the ring, and empty contributions are sent once the post is in flight (R226, R288,
R293). The next refused post runs on the management-assisted path, one at a time and in post order (R294), and a
credit of a stage queue comes back to its sender (R321). -/
def Obligations.StreamPostsAndManagedPath : Prop :=
  (∀ (s : State) (i : Issue) (e : Env) (d : Bytes) (g : Group), PostsDesc s i 4 0 e d → (s.ctx e.c).kind = 0 →
      cpostOk d = true → cStatus d + 8 ≤ storeSize → (s.smap e.c).isSome = true →
      g = (s.group e.c (cGroup d)).getD ⟨[], 2⟩ →
      s.collRanges e.c e.t d g.members.length (s.nextRank e.c (cGroup d) (ranksIn s.fab.devid g.members)) = true →
      s.epochOk e.c d = true → s.versionLow e.c d g.members = false →
      let posted (f : Flight) : Flight := { f with posted := true, statusAt := some (cStatus d), poison := false }
      (cOp d = 7 → s.entryUsed (cFlow d) = false →
        (cSend d = true → exec (.streamSend i) s = .next ((State.commit (s.beginStream e d) e
          (fun f => { (posted f) with work := .post d }) Queue.advance).kick).retryHeld) ∧
        (cSend d = false → exec (.streamReceive i) s = .next ((State.commit (s.beginStream e d) e
          (fun f => { (posted f) with status := 0 }) Queue.advance).kick).retryHeld) ∧
        ∃ x, Tbl.find (s.beginStream e d).fab.streams (cFlow d) = some x ∧ x.ctx = e.c ∧ x.sends = cSend d ∧
          x.peer = s.standIn e.c (cPeer d) ∧ x.unit = cUnit d ∧ x.rows = cCount d ∧ x.done = 0)) ∧
  (∀ (s : State) (i : Issue) (e : Env) (d : Bytes) (g : Group), PostsDesc s i 4 0 e d → CollBegins s e d g →
      cOp d = 8 → (s.tensor e.c (cTid d)).isSome = true →
      (((s.smap e.c).bind fun m => m.tensorEntry (cTid d)).isSome = true) →
      let posted (f : Flight) : Flight := { f with posted := true, statusAt := some (cStatus d), poison := false }
      exec (.fragEmpty i) s = .next ((State.commit (s.countPost e.c (cGroup d)
        (s.nextRank e.c (cGroup d) (ranksIn s.fab.devid g.members))).1 e
        (fun f => { (posted f) with work := .post d, frags := cCount d }) Queue.advance).kick).retryHeld) ∧
  ∀ s : State,
    (∀ k, (∀ j ∈ s.fab.colls, j.entry = none → j.queued = true) → s.fab.colls.find? (·.queued) = some k →
      exec .managementAssistedPath s =
        .next (((s.setColl { k with queued := false }).startColl { k with queued := false }).retryHeld)) ∧
    ∀ k, (s.endpoint k).valid = true → (s.endpoint k).receiver = false → (s.endpoint k).credits < (s.endpoint k).sends →
      exec (.queueCreditReturn k) s =
        .next (s.setEndpoint k { s.endpoint k with credits := (s.endpoint k).credits + 1 })

/-- REGISTER, REFRESH and RELEASE complete their issue at an engine that is ON, and end with status ENGINE_OFF at one
that is not (R193 to R195, Table 7.6). -/
def Obligations.SolverPostsComplete : Prop :=
  ∀ (s : State) (i : Issue) (e : Env) (d : Bytes), PostsDesc s i 5 0 e d → (s.ctx e.c).kind = 0 →
    spostOk d = true → recN d 56 4 + 8 ≤ storeSize →
    let eng := fld (recN d 1 1) 0 4
    let first := recN d 2 2
    let count := recN d 4 2
    let done (t : State) (code : Nat) (w : Work) : State := State.commit t e (fun f =>
      { f with posted := true, statusAt := some (recN d 56 4), status := code, work := w, poison := false }) Queue.advance
    (recN d 0 1 = 0 → ∀ imgs, s.entries e.c (recN d 8 8) 32 (count + 1) = some imgs →
      ((s.engine eng).en.st = .on → exec (.register i) s =
        .next (done (s.register e.c eng first count imgs).1 (s.register e.c eng first count imgs).2 .done)) ∧
      ((s.engine eng).en.st ≠ .on → exec (.register i) s = .next (done s (solvStatus 7 0) .done))) ∧
    (recN d 0 1 = 1 → (s.engine eng).en.st = .on → ∀ f x, s.factor e.c (recN d 16 3) = some f →
      s.entryOf e.c (recN d 16 3) (recN d 20 4) = some x → exec (.refresh i) s =
        .next (done (s.markDirty e.c f (recN d 20 4)) 0 .done)) ∧
    (recN d 0 1 = 2 → (s.engine eng).en.st = .on → first + count ≤ 511 → (s.engine eng).run = none →
      exec (.release i) s = .next (done (s.releaseEntries e.c eng first count) 0 .done))

/-! ### The matrix array (03_matrix_array, 05_instruction_set R141 to R144) -/

/-- MMA and MMAP complete their issue when their encoding, descriptors, combination and addresses are good: they are in
flight as work of the array, which then runs as far as it can; while a slot they tap holds samples of another step
they wait (R143, R144, R170). LEVEL_WINDOW_END moves the level of a tile that runs by at most one: up when an instruction ran
with rows to perform and it is below 16, else down when there was no real work for more than 256 cycles and it is above
its floor; a written TILE_SHAPE_CTL takes effect, and nothing else of the part changes (R94, R97). -/
def Obligations.MatrixAndLevelComplete : Prop :=
  (∀ (s : State) (i : Issue) (e : Env) (upset : Upset) (op : Nat), op < 2 →
      let tc := s.tc e.c e.v
      let m := e.matrixInst tc op
      let c : Instr := if op = 0 then .mma i upset else .mmap i upset
      Issues s i 0 op e → m.p.bad op = false → m.badDescriptor = false →
      badCombo m (s.ctx e.c).classW (s.minor e) e.v (fun k =>
        if (tc.slot k).bound then some (tc.slot k).log2s else none) = false → s.badAccess e m = false →
      (m.p.slots.any (s.slotBusy e) = false → exec c s =
        .next ((State.commit s e (fun f => { f with work := .matrix (e.matrixWork tc op), slots := m.p.slots })
          Queue.advance).runArrays upset)) ∧
      (m.p.slots.any (s.slotBusy e) = true → exec c s =
        .next ((s.setQueue e.c e.v e.q { e.qu with st := .waiting, waits := .unit }).runArrays upset))) ∧
  ∀ (s : State) (t idle dummies : Nat) (ran : Bool),
    let x := s.tile t
    (x.runs = true → ∃ y, exec (.levelWindowEnd t ran idle dummies) s = .next (s.setTile t y) ∧
      (ran = true ∧ x.level < 16 → y.level = x.level + 1) ∧
      (ran = false ∨ 16 ≤ x.level → y.level =
        if 256 < idle ∧ fld x.shapeCtl.toNat 8 4 < x.level then x.level - 1 else x.level) ∧
      y.shapeCtl = x.shapePend.getD x.shapeCtl ∧ y.shapePend = none ∧ y.dummy = (x.dummy + dummies) % 2 ^ 32 ∧
      { y with level := x.level, shapeCtl := x.shapeCtl, shapePend := x.shapePend, dummy := x.dummy, gap := x.gap,
               filling := x.filling, ramping := x.ramping } = x) ∧
    (x.runs = false → exec (.levelWindowEnd t ran idle dummies) s = .next s)

/-- An element of a product in PASS1 without block scales is its prior value, or −0, with the exact products of its row
and column added in ascending order of the reduction, each addition rounded once to FP32 (R38, R62, R74; the order
is DEDUCED, log 22). -/
def Obligations.MatrixElementIsOrderedSum : Prop :=
  ∀ (as bs c0 : List (List Fv)) (acc : Bool) (i j : Nat) (a b : List Fv), as[i]? = some a → bs[j]? = some b →
    ∃ row, (products ⟨0, false, false⟩ 0 as bs c0 acc).1[i]? = some row ∧ row.length = bs.length ∧
      row[j]? = some ((a.zip b).foldl (fun x p => (accAdd x (fvMul p.1 p.2)).v)
        (if acc then fvToF32 ((((c0[i]?).getD [])[j]?).getD fvPos0) else zero32 true))

/-! ### Curvature taps (06_curvature_taps, 05_instruction_set R145) -/

/-- TCFG and TCLR complete their issue: a binding goes into flight and takes effect once it may, and a bound slot that is
cleared has an empty panel and no counts, while the samples in the latch and the other slots' pages stay. A binding that takes
effect keeps the panel when it is the same, and else takes the slot and drops its panel and its samples (R145, R167
to R169). -/
def Obligations.TapInstructionsComplete : Prop :=
  (∀ (s : State) (i : Issue) (e : Env), s.minor e = false →
      let k := fld e.pl 84 4
      (Issues s i 1 0 e → fld e.pl 38 3 ≠ 7 → s.badTcfg e k (tcfgSlot e.pl) = false → exec (.tcfg i) s =
        .next (State.commit s e (fun f => { f with work := .tcfg k (tcfgSlot e.pl) }) Queue.advance).settleTcfg) ∧
      (Issues s i 1 0 e → fld e.pl 38 3 = 7 ∨ s.badTcfg e k (tcfgSlot e.pl) = true →
        exec (.tcfg i) s = .next (s.excAt e 1).settleTcfg) ∧
      (Issues s i 1 1 e → fld e.pl 0 84 = 0 → ∃ tc, exec (.tclr i) s =
        .next (State.commit (s.setTc e.c e.v tc) e id Queue.advance) ∧
        (∀ p, tc.page p = if ((s.tc e.c e.v).slot k).bound = true ∧ p ∈ ((s.tc e.c e.v).slot k).pages then zeroPage
          else (s.tc e.c e.v).page p) ∧
        (∀ p, Tbl.get 0 tc.counts p =
          if ((s.tc e.c e.v).slot k).bound = true ∧ p ∈ ((s.tc e.c e.v).slot k).pages then 0
          else Tbl.get 0 (s.tc e.c e.v).counts p) ∧
        { tc with pages := (s.tc e.c e.v).pages, counts := (s.tc e.c e.v).counts } = s.tc e.c e.v)) ∧
  ∀ (tc : TileCtx) (k : Nat) (x : TapSlot), k < 16 →
    ((tc.slot k).sameBinding x = true → tc.bind k x = (tc, false)) ∧
    ((tc.slot k).sameBinding x = false →
      (tc.bind k x).2 = (tc.slot k).bound ∧
      (tc.bind k x).1.slot k = (if x.bound then x else {}) ∧
      (∀ j, j ≠ k → (tc.bind k x).1.slot j = tc.slot j) ∧
      ((tc.slot k).bound = true → (∀ p ∈ (tc.slot k).pages, (tc.bind k x).1.page p = zeroPage) ∧
        ∀ z ∈ (tc.bind k x).1.latch, z.slot ≠ k))

/-- TAP_SAMPLE adds the oldest sample of the latch into its panel; TILE_ARRIVE takes the tile to the Milestone with every
sample added and every bound slot sealed; TAP_SUBTILE_RECEIVE lets an engine sum what it has of a step at which every
tile has arrived. Each of the last two sends the device's sums to their homes once they are all there (R166, R173, R174,
R183). -/
def Obligations.TapCommandsComplete : Prop :=
  ∀ s : State,
    (∀ t c v x rest, (s.tile t).resident = some c → (s.ctx c).vid t = some v → (s.tc c v).latch = x :: rest →
      exec (.tapSample t) s = .next (s.setTc c v ({ s.tc c v with latch := rest }.addSample x))) ∧
    (∀ c v, (s.ctx c).on = true → v < (s.ctx c).map.length →
      (∀ k, (s.tc c v).arrivedAt = some k → k ≤ (s.ctx c).mstone) → s.tileReady c v ((s.ctx c).mstone + 1) = true →
      ∃ t : State, exec (.tileArrive c v) s = .next (t.sendGrams c) ∧
        (t.tc c v).arrivedAt = some ((s.ctx c).mstone + 1) ∧ (t.tc c v).latch = [] ∧
        (∀ k, k < 16 → ((t.tc c v).slot k).step = none ∨ ((s.tc c v).slot k).bound = false) ∧
        (t.tile (s.physD c v)).tapSuspend = bit (s.tile (s.physD c v)).tapCtl.toNat 0 ∧
        ((∃ k, k < 16 ∧ ((s.tc c v).slot k).bound = true) →
          (t.tile (s.physD c v)).tapSealed = (s.ctx c).mstone % 2 ^ 32) ∧
        (∀ u, u ≠ s.physD c v → t.tile u = s.tile u) ∧
        { t with tctx := s.tctx, tiles := s.tiles, engines := s.engines } = s) ∧
    ∀ eng c, s.allArrived c ((s.ctx c).mstone + 1) = true →
      let l := (s.engine eng).subtiles.filter fun y => y.ctx == c && y.step == (s.ctx c).mstone
      exec (.tapSubtileReceive eng c) s =
        .next ((((l.map fun y => (y.fid, y.block)).eraseDups).foldl
          (fun (st : State) b => st.collectBlock eng c (s.ctx c).mstone b.1 b.2 l)
          (s.setEngine eng { s.engine eng with subtiles := (s.engine eng).subtiles.filter fun y =>
            !(y.ctx == c && y.step == (s.ctx c).mstone) })).sendGrams c)

/-! ### Completions, signals and the stores' upkeep (05 R134, R136; 04 R106, R107; 11 R341 to R344) -/

/-- INSTRUCTION_COMPLETE: an instruction whose work is done leaves the instructions in flight, its flags are ORed into
its queue's, its status word is written, its signal is sent, and every other byte of every tile store and every other
queue stay; a transfer goes on first, and an instruction that may not complete yet stays (R134, R148, R149). What
completing changes is said for a tile store without bad words, an instruction that is not poisoned and nothing traced. -/
def Obligations.InstructionCompletes : Prop :=
  (∀ (s : State) (t q seq : Nat) (f0 : Flight), s.flightAt t q seq = some f0 →
    let s1 := s.advanceFlight f0
    (f0.cls ≠ 3 → s1 = s) ∧
    ∀ f, s1.flightAt t q seq = some f →
      (s1.mayComplete f = false → exec (.instructionComplete t q seq) s = .next s1) ∧
      (s1.mayComplete f = true →
        (f.endpoint = none → exec (.instructionComplete t q seq) s = .next (s1.complete f).settleDetours) ∧
        ∀ k, f.endpoint = some k →
          exec (.instructionComplete t q seq) s = .next ((s1.complete f).receiveDone k).settleDetours)) ∧
  ∀ (s : State) (f : Flight),
    let t := s.physD f.ctx f.vt
    (s.tile t).ecc = [] → f.poison = false → bit (fld s.cnt.trcCtl.toNat 40 8) f.cls = false →
    (∀ g ∈ s.flight, ∀ k x, g.work ≠ .tcfg k x) →
    (s.complete f).flight = (s.flight.filter fun g => g != f) ∧
    (s.complete f).queue f.ctx f.vt f.queue = { s.queue f.ctx f.vt f.queue with
      flags := (s.queue f.ctx f.vt f.queue).flags ||| f.flags } ∧
    (∀ c v p, tcKey c v ≠ tcKey f.ctx f.vt ∨ p ≠ f.queue → (s.complete f).queue c v p = s.queue c v p) ∧
    (∀ a, f.statusAt = some a → (∀ j, j < 8 →
        memRead ((s.complete f).tile t).store (a + j) = ((leBytes 8 f.status)[j]?).getD 0) ∧
      ∀ b, b < a ∨ a + 8 ≤ b → memRead ((s.complete f).tile t).store b = memRead (s.tile t).store b) ∧
    (f.statusAt = none → ((s.complete f).tile t).store = (s.tile t).store) ∧
    (∀ u, u ≠ t → (s.complete f).tile u = s.tile u) ∧ (s.complete f).hbm = s.hbm ∧
    (s.complete f).sigs = s.sigs ++ (f.sig.map fun d =>
      (⟨f.ctx, f.vt, f.queue, d.1, d.2, 1, f.cls, f.op, f.num, f.step, f.seq⟩ : SigInc)).toList

/-- SIGNAL_INCREMENT: an increment adds its amount to its counter and to no other; one that would pass the largest value
leaves it there and halts the queue that raised it with SIGNAL_OVF; one with an earlier increment or move of the same
queue to the same tile ahead of it waits (R136, R21). -/
def Obligations.SignalIncrementsArrive : Prop :=
  ∀ (s : State) (k : Nat) (x : SigInc), s.sigs[k]? = some x →
    let ahead := ((s.sigs.take k).any fun y =>
        y.ctx == x.ctx && y.srcVt == x.srcVt && y.srcQ == x.srcQ && y.dstVt == x.dstVt)
      || s.owedBefore x.ctx x.srcVt x.srcQ x.ord x.srcVt x.dstVt
    let n := (s.tc x.ctx x.dstVt).sig x.sig + x.amount
    let s0 : State := { s with sigs := s.sigs.eraseIdx k }
    let s1 := s0.setTc x.ctx x.dstVt ((s0.tc x.ctx x.dstVt).setSig x.sig (min n sigMax))
    (ahead = true → exec (.signalIncrement k) s = .next s) ∧
    (ahead = false → n ≤ sigMax → exec (.signalIncrement k) s = .next (s1.testWatches x.ctx)) ∧
    (ahead = false → sigMax < n → x.srcQ < 4 → exec (.signalIncrement k) s = .next ((s1.haltExc x.ctx x.srcVt
      (s1.physD x.ctx x.srcVt) x.srcQ xSignalOvf x.cls x.op x.seq x.step).testWatches x.ctx)) ∧
    (s1.tc x.ctx x.dstVt).sig x.sig = min n sigMax ∧
    ∀ m, m ≠ x.sig → (s1.tc x.ctx x.dstVt).sig m = (s.tc x.ctx x.dstVt).sig m

/-- SCRUB_INTERVAL, after its new upsets, reads the next line of the tile store: it moves on, queues the write-back of a
word with one bad bit, and changes nothing else when the line has no bad word; while the scrubber is off the upsets
alone happen. ECC_WRITEBACK writes the oldest queued correction to its word and clears the word's bad bit, of a tile
store or of HBM (R107, R341). The stacks: a scrub interval moves to the stack's next chunk, and after the last one
starts a new pass; a stack leaves self-refresh and training for ACTIVE; a lost stack takes its cause, and the part fails
when a context does not fit without it (R342 to R344, R400). -/
def Obligations.MemoryUpkeepCompletes : Prop :=
  (∀ (s : State) (t : Nat),
      (∀ ups,
        let s0 := ups.foldl (fun (st : State) u => st.upsetWord t u) s
        let x := s0.tile t
        let on := x.runs = true ∧ bit x.storeCtl.toNat 8 = true
        (¬ on → exec (.scrubInterval t ups) s = .next s0) ∧
        (on → x.badWords (64 * x.scrubNext) 64 = [] → exec (.scrubInterval t ups) s =
          .next (s0.setTile t { x with scrubNext := (x.scrubNext + 1) % 65536 })) ∧
        (on → ∀ w, x.badWords (64 * x.scrubNext) 64 = [(w, .single)] →
          ∃ r, exec (.scrubInterval t ups) s = .next r ∧ (r.tile t).store = x.store ∧ (r.tile t).ecc = x.ecc ∧
            (r.tile t).wbacks = x.wbacks ++ [⟨8 * w, memReadBytes x.store (8 * w) 8⟩] ∧
            (r.tile t).scrubNext = (x.scrubNext + 1) % 65536 ∧ ∀ u, u ≠ t → r.tile u = s0.tile u)) ∧
      (∀ w ws, (s.tile t).wbacks = w :: ws → ∃ y, exec (.eccWriteback (some t)) s = .next (s.setTile t y) ∧
        (∀ j v, w.data[j]? = some v → memRead y.store (w.addr + j) = v) ∧
        (∀ a, a < w.addr ∨ w.addr + w.data.length ≤ a → memRead y.store a = memRead (s.tile t).store a) ∧
        { y with store := (s.tile t).store, wbacks := (s.tile t).wbacks, ecc := (s.tile t).ecc } = s.tile t ∧
        y.wbacks = ws) ∧
      (∀ w ws, s.hbm.wbacks = w :: ws → ∃ h, exec (.eccWriteback none) s = .next { s with hbm := h } ∧
        (∀ j v, w.data[j]? = some v → memRead h.mem (w.addr + j) = v) ∧
        (∀ a, a < w.addr ∨ w.addr + w.data.length ≤ a → memRead h.mem a = memRead s.hbm.mem a) ∧
        { h with mem := s.hbm.mem, wbacks := s.hbm.wbacks, ecc := s.hbm.ecc } = s.hbm ∧ h.wbacks = ws)) ∧
  ∀ (s : State) (k : Nat), k < 12 →
    let x := s.stack k
    (∀ ups odecc,
      let s1 := ups.foldl State.upsetBurst s
      let y := { s1.stack k with odecc := satInc 16 (s1.stack k).odecc odecc }
      let s0 := s1.setStack k y
      y.st = .active → bit s0.hbm.ctl.toNat 8 = true → s0.badInChunk k y.scrubNext = [] →
      exec (.hbmScrubInterval k ups odecc) s = .next (s0.setStack k { y with
        scrubNext := if hbmC ≤ y.scrubNext + 1 then 0 else y.scrubNext + 1
        ueInPass := if hbmC ≤ y.scrubNext + 1 then 0 else y.ueInPass })) ∧
    (x.st = .selfRefresh → s.pmc.deepState ≠ 2 →
      exec (.selfRefreshExit k) s = .next (s.setStack k { x with st := .active })) ∧
    (x.st = .training → (s.sec.stage = 8 ∨ s.sec.stage = 9) →
      exec (.stackTrainingDone k) s = .next (s.setStack k { x with st := .active })) ∧
    ∀ cause, x.st ≠ .lost → s.losable k cause = true →
      let s1 := s.setStack k { x with st := .lost, cause := cause }
      let cs := s.ctxs.keys.filter s.isAdmitted
      exec (.stackLost k cause) s = .next (if cs.all fun c => s.fitsWithout c k then
        cs.foldl (fun (st : State) c => st.raise c 5 st.fab.devid) s1 else s1.declareFailed)

/-! ### Register commands of a tile and of HBM (03 R97, 04 R110, 05 R154, R158, 06 R183, 11 R360) -/

/-- The registers of a tile: TILE_QSTAT_PC is written while its queue is idle or halted and ignored otherwise, a queue
that TILE_QRESUME marks runs from its PC when it was idle or halted, TILE_STORE_LIVE replaces 64 bits of the resident context's live map,
and TILE_SHAPE_CTL and TAP_CTL are taken for later; an access to a tile in STARTING (log 84) or asleep is served once
the tile is started or awake (19 R533). HBM_LAYOUT is ignored while a context holds a segment; otherwise a
legal value is taken (R360; a GLOBAL_UNITS above its largest value is the model's free value, log 83). -/
def Obligations.TileRegistersComplete : Prop :=
  (∀ (s0 : State) (t : Nat),
      let s := s0.tileAccess t
      ((s0.tile t).en.st ≠ .starting → (s0.tile t).sub = .run → s = s0) ∧
      ((s0.tile t).en.st = .on → (s.tile t).en.st = .on ∧ (s.tile t).sub = .run) ∧
      ((s0.tile t).en.st = .starting →
        let x := s0.tile t
        let s1 : State := { s0 with pmc := { s0.pmc with groupPll := setFld s0.pmc.groupPll (groupOf t) 1 1 } }
        let s2 := s1.setTile t { x with en := x.en.started, fll := true, level := fld x.shapeCtl.toNat 8 4, store := []
                                        ecc := [], wbacks := [] }
        x.en.started.st ≠ .starting ∧ s = (s2.ctxs.keys.foldl State.startContext s2).wakeTile t) ∧
      (∀ c v, s.residentOf t = some (c, v) →
        (∀ q (w : W64), q < 4 → ((s.queue c v q).st = .idle ∨ (s.queue c v q).st = .halted) →
          exec (.tileQstatPcWrite t q w) s0 =
            .next (s.setQueue c v q { s.queue c v q with pc := 16 * fld w.toNat 4 44 })) ∧
        (∀ q (w : W64), (s.queue c v q).st = .running ∨ (s.queue c v q).st = .waiting →
          exec (.tileQstatPcWrite t q w) s0 = .next s) ∧
        (∀ q, q < 4 → (s.queue c v q).st = .halted → (s.queue c v q).started = true →
          exec (.tileQresumeWrite t (BitVec.ofNat 32 (2 ^ q))) s0 = .next (s.setQueue c v q
            { s.queue c v q with st := .running, exc := 0, yielded := false })) ∧
        (∀ q, q < 4 → (s.queue c v q).st = .idle → (s.queue c v q).started = true →
          exec (.tileQresumeWrite t (BitVec.ofNat 32 (2 ^ q))) s0 = .next (s.setQueue c v q
            { s.queue c v q with st := .running, exc := 0, yielded := false, seq0 := (s.queue c v q).seq })) ∧
        (∀ q, q < 4 → (s.queue c v q).st = .running ∨ (s.queue c v q).st = .waiting →
          exec (.tileQresumeWrite t (BitVec.ofNat 32 (2 ^ q))) s0 = .next s) ∧
        ∀ (i : Nat) (w : W64), i < 4 → ∃ live : BitVec 256, exec (.tileStoreLiveWrite t i w) s0 =
          .next (s.setTc c v { s.tc c v with live := live }) ∧
          ∀ b, b < 256 → live.getLsbD b =
            if b / 64 = i then w.getLsbD (b % 64) else (s.tc c v).live.getLsbD b) ∧
      ∀ w : W32, (s.tile t).answers = true →
        exec (.tileShapeCtlWrite t w) s0 =
          .next (s.setTile t { s.tile t with shapePend := some (w &&& 0xF30) }) ∧
        exec (.tapCtlWrite t w) s0 = .next (s.setTile t { s.tile t with tapCtl := w &&& 1 })) ∧
  ∀ (s : State) (v : W64),
      ((∃ c, s.isAdmitted c = true ∧ c ∈ s.ctxs.keys ∧ (segList (s.ctx c).segs).isEmpty = false) →
        exec (.hbmLayoutWrite v) s = .next s) ∧
      ((∀ c ∈ s.ctxs.keys, s.isAdmitted c = true → (segList (s.ctx c).segs).isEmpty = true) →
        fld v.toNat 0 25 ≤ hbmC →
        exec (.hbmLayoutWrite v) s =
          .next { s with hbm := s.hbm.relaid (BitVec.ofNat 64 (v.toNat % 2 ^ 37)) }) ∧
      ((∀ c ∈ s.ctxs.keys, s.isAdmitted c = true → (segList (s.ctx c).segs).isEmpty = true) →
        hbmC < fld v.toNat 0 25 → ∃ g, g ≤ hbmC ∧ exec (.hbmLayoutWrite v) s =
          .next { s.draw.2 with hbm := s.hbm.relaid (BitVec.ofNat 64 (setFld (v.toNat % 2 ^ 37) 0 25 g)) })

/-! ### The root engines' events (07_root_solver R199 to R213) -/

/-- A refresh starts, iterates and ends: an idle engine that is ON starts its first queued post from its block and its
warm root; an iteration runs its products and its pass, or hands its products out when the block is large; a refresh
that has stopped and needs no installation, or whose root every member has, ends and frees the engine, and a CHOL
refresh is solved or stops with FACTOR_FAIL (R199 to R206). A word that could not be read ends a refresh in FAULT (R209;
at the start the model's choice, log 41). -/
def Obligations.RefreshEventsComplete : Prop :=
  ∀ (s : State) (eng : Nat),
    let x := s.engine eng
    (∀ p b f, x.en.st = .on → bit x.ctl.toNat 0 = false → x.run = none → nextPost x.queue = some p →
      Tbl.find x.table p.entry = some b → s.factor p.ctx p.fid = some f →
      let w := s.warmStart p f b
      ∃ t r, exec (.refreshStart eng) s = .next t ∧ (t.engine eng).run = some r ∧
        (t.engine eng).queue = x.queue.filter (fun q => q != p) ∧
        (∀ rd, w.1.readBlock p.ctx (facBlockAddr f p.block) (entN b) = some rd → w.2.2 = false → rd.2.2 = false →
          let r1 := beginRefresh p b (rd.2.1.map fun l => l.map (elemToF32 3)) w.2.1
          r = if r1.n ≤ 512 then r1 else { r1 with mats := [] }) ∧
        ((w.2.2 = true ∨ w.1.readBlock p.ctx (facBlockAddr f p.block) (entN b) = none) → r.outcome = some 7)) ∧
    (∀ r, x.run = some r → r.outcome = none → r.method ≠ 0 → r.prods = [] →
      (r.pending = false → 512 < r.n → exec (.newtonIteration ⟨eng, false⟩) s =
        .next ((s.ev 0x041 eng [r.post.ctx]).setEngine eng
          { x with run := some { r with prods := iterProds r.pcode, panels := [] } })) ∧
      (r.pending = false → r.n ≤ 512 → exec (.newtonIteration ⟨eng, false⟩) s =
        .next ((s.ev 0x041 eng [r.post.ctx]).setEngine eng
          { x with run := some { r.runProds (iterProds r.pcode) with k := r.k + 1 }.pass })) ∧
      (r.pending = true → r.n ≤ 512 → exec (.newtonIteration ⟨eng, false⟩) s =
        .next (let s1 := s.setEngine eng ({ x with run := some r.firstPass.1 }.updEntry
            r.post.entry fun b => setEntBit b 3 r.firstPass.1.warm)
          if r.firstPass.2 then s1.ev 0x049 eng [r.post.ctx] else s1)) ∧
      (r.pending = true → 512 < r.n → exec (.newtonIteration ⟨eng, false⟩) s = .next (s.enginePass eng r)) ∧
      exec (.newtonIteration ⟨eng, true⟩) s = .next (s.setEngine eng { x with run := some (r.stop 7) })) ∧
    (∀ r st bad, x.run = some r → r.outcome = some st → (installs st = true → r.dist = .ended) →
      let iters := if r.method = 0 then 0 else r.k
      let s1 := (s.recordEnd eng r.post st iters r.resid).redirty r.post st
      exec (.refreshEnd ⟨eng, bad⟩) s =
        .next ((s1.setEngine eng { s1.engine eng with run := none }).dropReplies r.post).settleRelease) ∧
    ∀ r, x.run = some r → r.outcome = none → r.method = 0 →
      exec (.refreshEnd ⟨eng, true⟩) s = .next (s.setEngine eng { x with run := some (r.stop 7) }) ∧
      (cholInverse r.n (r.mat 0) = none →
        exec (.refreshEnd ⟨eng, false⟩) s = .next (s.setEngine eng { x with run := some (r.stop 6) })) ∧
      ∀ z, cholInverse r.n (r.mat 0) = some z → ∃ v, exec (.refreshEnd ⟨eng, false⟩) s =
        .next (s.draw.2.setEngine eng { x with run := some { r.stop 1 with
          root := rootCodes (entRfmt r.entryB) z, resid := some v } })

/-- A work item multiplies one panel on a tile that is lent to the engine's Layby context, from its operands in scratch
and into scratch, and is taken from the engine's list; the last of a product brings the next product, and the last of an
iteration its pass (R212, R213). At a deadline every engine's SOFT refresh of the context with that deadline stops, its
SOFT posts that have not started end as STALE, and the context does not meet that deadline again (R207 to R209). A
finished root goes down the tree of its group to every member, once the home's free slot holds no pending root; it ends
when every member that has not failed has taken it, is withdrawn when one refuses, and the refresh ends when the
withdrawals have been answered. A member takes a root that it can deal with: it is written pending into the free slot
and listed, or refused when the list is full, an identity is written at once, a withdrawal clears its slot, and the home
is answered (R194, R198, R210). -/
def Obligations.WorkItemsDeadlinesRoots : Prop :=
  (∀ (s : State),
        (∀ eng t r p ps,
          let x := s.engine eng
          let i := r.panels.length
          x.run = some r → r.prods = p :: ps → r.outcome = none → bit x.ctl.toNat 22 = true →
          (s.tile t).lentFrom.isSome = true → (s.tile t).resident = some x.layby → (s.tile t).runs = true →
          let o := s.panelOperands x r.n i p
          (o.2.2.2 = true → exec (.workItem eng t) s = .next (o.1.setEngine eng { x with run := some (r.stop 7) })) ∧
          (o.2.2.2 = false →
            let panel := o.2.1.map fun a => o.2.2.1.map fun b => dot3 (zero32 true) a b
            let s1 := ((o.1.stageItem t).writePanel x r.n i p.target panel).ev 0x04B eng [r.post.ctx]
            (i + 1 < ceilDiv r.n 256 ^ 2 → exec (.workItem eng t) s =
              .next (s1.setEngine eng { x with run := some { r with panels := r.panels ++ [i] } })) ∧
            (ceilDiv r.n 256 ^ 2 ≤ i + 1 → (s1.settleProd x r.n p).2 = false → exec (.workItem eng t) s =
              .next ((s1.settleProd x r.n p).1.setEngine eng { x with run := some (if ps = [] then
                { r with prods := [], panels := [], pending := true, k := if r.warmTest then 0 else r.k + 1 }
                else { r with prods := ps, panels := [] }) })))) ∧
        ∀ c, (s.ctx c).on = true → (s.ctx c).deadline < (s.ctx c).mstone + 1 →
          s.allArrived c ((s.ctx c).mstone + 1) = true →
          let d := (s.ctx c).mstone + 1
          ∃ t, exec (.deadlineArrive c) s = .next t ∧ (t.ctx c).deadline = d ∧
            ∀ g, g < 16 →
              ((s.engine g).run = none → (t.engine g).run = none) ∧
              (∀ r, (s.engine g).run = some r → (t.engine g).run =
                some (if r.post.ctx = c ∧ r.post.deadline ≤ d then r.deadline else r)) ∧
              (∀ p, p ∈ (t.engine g).queue ↔ p ∈ (s.engine g).queue ∧
                (p.ctx = c → p.deadline ≤ d → entWait (Tbl.get [] (s.engine g).table p.entry) = true))) ∧
  ∀ s : State,
    (∀ eng r st f,
      let x := s.engine eng
      x.run = some r → r.outcome = some st → installs st = true → s.factor r.post.ctx r.post.fid = some f →
      let c := r.post.ctx
      let h := s.hdr c f r.post.block (s.rootFree c f r.post.block)
      let gid := entRgroup r.entryB
      let key := rootKey 1 r.post.fid r.post.block r.post.deadline (entRfmt r.entryB) s.fab.devid
      let hd := mkHdr (entSig r.entryB) r.post.deadline true true st (if r.method = 0 then 0 else r.k) (r.resid.getD 0)
      let put (t : State) (r1 : Refresh) : State := t.setEngine eng { x with run := some r1 }
      let all (ms : List Nat) (kind : Nat) : Prop := ∀ d ∈ ms, (s.ctx c).failed.contains d = false →
        ∃ p ∈ s.rootReplies kind r.post, p.1 = d
      (r.dist = .none → (hdrValid h && hdrPending h) = false → exec (.rootDistribute eng) s =
        .next (put (s.controlMulticast c gid ctlRoot key (hd ++ codesBytes r.root))
          { r with dist := .sent (s.rootMembers c gid) })) ∧
      (∀ ms, r.dist = .sent ms → all ms ctlRootReply →
        ((∀ p ∈ s.rootReplies ctlRootReply r.post, p.2 = true) → exec (.rootDistribute eng) s =
          .next (put s { r with dist := .ended })) ∧
        ((∃ p ∈ s.rootReplies ctlRootReply r.post, p.2 = false) → exec (.rootDistribute eng) s =
          .next (put (s.controlMulticast c gid ctlRootDrop key []) { r with dist := .withdrawn ms }))) ∧
      ∀ ms, r.dist = .withdrawn ms → all ms ctlDropReply → exec (.rootDistribute eng) s =
        .next (put s { r with dist := .ended, outcome := some 8 })) ∧
    ∀ c k mode fid blk tag rfmt home f,
      s.fab.controls.find? (fun y => y.ctx == c && (y.kind == ctlRoot || y.kind == ctlRootDrop) && s.rootOpen c y) =
        some k →
      k.key = [mode, fid, blk, tag, rfmt, home] →
      let s0 : State := { s with fab := { s.fab with controls := s.fab.controls.erase k } }
      let data := ((k.inputs[0]?).map (·.2.2)).getD []
      let answer (t : State) (kind v : Nat) : State := t.controlReply c home kind [fid, blk, tag] [v]
      (k.kind = ctlRootDrop → exec (.rootAccept c) s = .next (answer (s0.dropRoot c fid blk tag) ctlDropReply 1)) ∧
      (k.kind = ctlRoot → s0.factor c fid = some f →
        (mode = 0 → exec (.rootAccept c) s = .next (answer (s0.writeIdentity c f blk rfmt) ctlRootReply 1)) ∧
        (mode ≠ 0 → 8192 ≤ s.installs.length → exec (.rootAccept c) s = .next (answer s0 ctlRootReply 0)) ∧
        (mode ≠ 0 → s.installs.length < 8192 →
          let slot := s0.rootFree c f blk
          let s1 := (s0.ctxWrite c (rootMat f blk slot) (data.drop 64)).ctxWrite c (rootHdr f blk slot) (data.take 64)
          exec (.rootAccept c) s = .next (answer
            { s1 with installs := s1.installs ++ [⟨c, rootHdr f blk slot, tag, home⟩] } ctlRootReply 1)))

/-! ### Update on arrival (08_update_on_arrival) -/

/-- A complete entry of the current step is applied when its page is here and logged when it is away (R232, R248); a page
whose last log position is complete is fetched at once, its three committed positions are merged and written back, and
then its last position moves to the first (R249; while an access has failed it waits, log 26); the norm
sum and the digest of a step are exchanged once (R235, R246). A fragment that waits at a tile's unit goes into the
entry of its fragment and step, or into a free entry, and waits on when there is none (R227, R230). -/
def Obligations.UpdateCommandsComplete : Prop :=
  (∀ s : State,
      (∀ t k x,
        let s1 := s.settleEntry t k
        let e := s1.rb t k
        s1.tensor e.ctx e.tid = some x → e.st = .applying →
        (s1.entryAway e.ctx x e.fidx = false → exec (.updateApply t k) s = .next (s1.applyEntry t k) ∧
          exec (.deltaRecord t k) s = .next s1) ∧
        (s1.entryAway e.ctx x e.fidx = true → exec (.deltaRecord t k) s = .next (s1.logDelta t k) ∧
          exec (.updateApply t k) s = .next s1)) ∧
      (∀ c tid p x pg, s.tensor c tid = some x → s.pageAt c x p = some pg →
        (s.forcedDue c x p = true → s.uoaDev.stalls.contains (c, tid, p) = false →
          exec (.forcedFetch c tid p) s = .next { (s.readCopy c x p pg.2).ev 0x083 0 [c] with
            uoaDev := { s.uoaDev with stalls := s.uoaDev.stalls ++ [(c, tid, p)],
                                      forced := satInc 16 s.uoaDev.forced } }) ∧
        (s.uoaDev.stalls.contains (c, tid, p) = true → s.remoteOver c [1, tid, p] = true →
          s.remoteFails c [1, tid, p] = [] →
          let reads := ∃ r ∈ s.remotes, r.ctx = c ∧ [1, tid, p].isPrefixOf r.key = true ∧ r.write = false
          let cnt := x.pageFrags (s.heldFrags c x).length p
          let b := s.logHead c x p
          (reads →
            let merged := (List.range cnt).map fun i => s.mergeTo c x p i (s.fragAt c x (p * x.pgf + i)) b
              (fragCodes (sliceB (s.remoteData c (pageKey x p i)) 0 16384)) 3
            exec (.forcedFetchDone c tid p) s = .next (((List.range cnt).zip merged).foldl (fun (st : State) im =>
              st.pageAccess c x p im.1 pg.2 true (im.2.flatMap (leBytes 2))) (s.dropRemotes c [1, tid, p]))) ∧
          (¬ reads → ∃ head : Bytes,
            let s1 := (List.range cnt).foldl (fun (st : State) i =>
              st.ctxWrite c (x.deltaAt p i 0) (st.peekD c (x.deltaAt p i 3) 16384)) (s.dropRemotes c [1, tid, p])
            let s2 := (s1.ctxWrite c (x.logAt p) head).putPage c x p 2 false false (logMst b 3)
            exec (.forcedFetchDone c tid p) s = .next { s2 with uoaDev := { s2.uoaDev with
              stalls := s2.uoaDev.stalls.erase (c, tid, p), discarded := s2.uoaDev.discarded.erase (c, tid, p) } } ∧
            (s.uoaDev.discarded.contains (c, tid, p) = true → logCount head = 0) ∧
            (s.uoaDev.discarded.contains (c, tid, p) = false → b.length = 128 → logCount head = 1 ∧
              logMst head 0 = logMst b 3 ∧ logPresent head 0 = logPresent b 3 ∧ logEta head 0 = logEta b 3 ∧
              logLam head 0 = logLam b 3))) ∧
        (s.remoteFails c [1, tid, p] ≠ [] → exec (.forcedFetchDone c tid p) s = .next s)) ∧
      (∀ c tid x j, s.tensor c tid = some x → (s.ctx c).job = some j → x.frozen = false → j.norms.contains tid = false →
        s.fragsDone c x = true → s.normRanks c x ≠ [] →
        let own (r : Nat) : W32 := if r = s.normRank c x ((s.normRanks c x).headD 0) then s.normOwn c x else 0
        let s1 := (s.normRanks c x).foldl (fun (st : State) r =>
          st.contributeControl c ctlNorm (x.normKey j.mstone) r (leBytes 4 (own r).toNat)) s
        exec (.normSum c tid) s = .next (s1.setCtx c { s1.ctx c with
          job := (s1.ctx c).job.map fun k => { k with norms := k.norms ++ [tid] } })) ∧
      ∀ c j, (s.ctx c).job = some j → s.digestDue c = true → j.digest ≠ some j.mstone →
        let d := s.deviceDigest c j.mstone
        let s1 := (ranksIn s.fab.devid (s.replicaGroup c)).foldl (fun (st : State) r =>
          (st.noteControl c ctlDigest [j.mstone] 0 r r d).controlDown c (s.replicaGid c) r r ctlDigest [j.mstone] r d) s
        let s2 := s1.setCtx c { s1.ctx c with job := (s1.ctx c).job.map fun k => { k with digest := some k.mstone } }
        exec (.replicaDigest c) s = .next { s2 with uoaDev := { s2.uoaDev with lastM := j.mstone % 2 ^ 32 } }) ∧
  ∀ (s : State) (t : Nat),
      let u := s.uoa t
      (∀ y, u.nextServed = some y →
        let s1 := s.setUoa t { u with waiting := u.waiting.erase y }
        (∀ k, u.find y.ctx y.frag = some k → exec (.fragmentArrive t) s = .next (s1.intoEntry t k y)) ∧
        (u.find y.ctx y.frag = none → ∃ (k : Nat) (b : RbEntry), u.freeSlot = some k ∧
          exec (.fragmentArrive t) s = .next ((s1.setRb t k b).intoEntry t k y) ∧
          b.st = .accumulating ∧ b.ctx = y.ctx ∧ b.tid = y.frag.tid ∧ b.fidx = y.frag.fidx ∧ b.mstone = y.frag.mstone ∧
          b.elems = List.replicate 8192 (zero32 true))) ∧
      ((∀ y ∈ u.waiting, u.find y.ctx y.frag = none) → u.freeSlot = none → exec (.fragmentArrive t) s = .next s)

/-! ### Milestones (08_update_on_arrival R242, R243, R247; 10_parallel_mapping R330) -/

/-- A device whose conditions all hold arrives, and one that may not arrive does not; an agreed Milestone completes, and
the step after it begins a new step of the job; the devices that resync begin theirs once the copies are there
(R242, R243, R247). -/
def Obligations.MilestoneCommandsComplete : Prop :=
  ∀ (s : State) (c : Nat) (j : Job), (s.ctx c).job = some j →
    (s.mayArrive c = true → (s.ctx c).diagArmed = false → exec (.deviceArrive c) s =
      .next ((s.setCtx c { s.ctx c with job := some { j with arrived := true } }).tryAgree c)) ∧
    (s.mayArrive c = true → (s.ctx c).diagArmed = true → (s.ctx c).recov.diagDigest.isSome = true →
      (s.ctx c).recov.diagSecond.isSome = true → exec (.deviceArrive c) s =
      .next ((s.setCtx c { s.ctx c with job := some { j with arrived := true } }).tryAgree c)) ∧
    (s.mayArrive c = false → exec (.deviceArrive c) s = .next s) ∧
    (∀ scales, j.agreed = true → (s.ctx c).recov.phase = 0 →
      exec (.milestoneComplete c scales) s = .next (s.completeMilestone c scales).retryHeld) ∧
    (∀ scales, j.agreed = false → exec (.milestoneComplete c scales) s = .next s) ∧
    (∃ y, (s.commitStep c (j.mstone + 1)).ctx c = y ∧ y.applied = [] ∧ ∃ k, y.job = some k ∧
      k.mstone = j.mstone + 1 ∧ k.begun = false ∧ k.arrived = false ∧ k.agreed = false ∧ k.norms = [] ∧
      k.digest = none) ∧
    (∀ m, (s.ctx c).switchStep = some m → (s.ctx c).mstone = m → s.permutesDue c ≤ (s.ctx c).permutes →
      exec (.switchbackWritten c) s = .next (s.switchWritten c m)) ∧
    ∀ copies : List (Nat × Bytes × Bytes),
      let due := ((s.jobTensors c).filter (·.replica)).map (·.tid)
      let s1 := (copies.filter fun p => due.contains p.1).foldl (fun (st : State) p => st.resyncTensor c j.mstone p) s
      (j.resync = true → (∀ t ∈ due, ∃ p ∈ copies, p.1 = t) → exec (.resync c copies) s =
        .next ((s1.setCtx c { s1.ctx c with job := (s1.ctx c).job.map fun k => { k with resync := false } }).tryBegin c)) ∧
      (j.resync = false ∨ (∃ t ∈ due, ∀ p ∈ copies, p.1 ≠ t) → exec (.resync c copies) s = .next s)

/-! ### The Wayside tier (11_memory_tiers R348 to R351) -/

/-- REST and FETCH take the next command of the context's ring when it is theirs, and do nothing when the ring is empty;
an eviction whose write is accepted frees its frame and rests its page; a fetch starts in its free frame, waits while
another page owns it, and when its read is done writes the newest version, and the one before it where the merge passes
through it; a versioned move that waits asks for a resting page that it touches (R348 to R351). -/
def Obligations.WaysideCommandsComplete : Prop :=
  ∀ (s : State) (c : Nat),
    let x := s.ctx c
    let cmd := s.wcmd c x.wHead
    let s1 := s.setCtx c { x with wHead := (x.wHead + 1) % 256, wRuns := x.wRuns ++ [x.wHead] }
    (x.wHead = x.wTail → exec (.rest c) s = .next s ∧ exec (.fetch c) s = .next s) ∧
    (x.wHead ≠ x.wTail → ∀ y, s1.tensor c (recN cmd 4 4) = some y →
      (recN cmd 0 1 = 1 → exec (.rest c) s =
        .next (((wcmdPages cmd).foldl (fun (st : State) p => st.restPage c y p) s1).settleWcmds c)) ∧
      (recN cmd 0 1 = 2 → exec (.fetch c) s =
        .next (((wcmdPages cmd).foldl (fun (st : State) p => st.askFetch c y p true) s1).settleWcmds c))) ∧
    ∀ tid p y pg, s.tensor c tid = some y → s.pageAt c y p = some pg →
      (pgState pg.2 = 1 → s.remoteOver c [1, tid, p] = true → s.remoteFails c [1, tid, p] = [] →
        exec (.evictDone c tid p) s = .next ((((s.dropRemotes c [1, tid, p]).putPage c y p 2 false false
          (pgVtag pg.2)).putFrame c (pgFrame pg.2) none).settleWcmds c)) ∧
      (∀ f, x.wFetches.find? (fun g => g.1 == tid && g.2.1 == p) = some f → pgState pg.2 = 2 →
        ((s.frameOwner c (pgFrame pg.2)).isSome = true → exec (.fetchStart c tid p) s = .next s) ∧
        (s.frameOwner c (pgFrame pg.2) = none →
          let s2 := ((s.setCtx c { x with wFetches := x.wFetches.filter fun g => g != f }).putFrame c
            (pgFrame pg.2) (some (tid, p))).putPage c y p 3 false false (pgVtag pg.2)
          let s3 := if f.2.2 then s2.ev 0x08F 0 [c] else s2
          exec (.fetchStart c tid p) s = .next (s3.readCopy c y p pg.2))) ∧
      (pgState pg.2 = 3 → pgReadable pg.2 = false → s.remoteOver c [1, tid, p] = true →
        s.remoteFails c [1, tid, p] = [] →
        let b := s.logHead c y p
        let upto (v : Nat) : Nat := ((List.range (logCount b)).filter fun q => decide (logMst b q < v)).length
        let old := decide (pgVtag pg.2 < x.mstone) && !y.frozen
        let write (st : State) (v : Nat) : State :=
          (List.range (y.pageFrags (s.heldFrags c y).length p)).foldl (fun q i =>
            let f := q.fragAt c y (p * y.pgf + i)
            q.writeFragment c (q.unitOf c y (p * y.pgf + i)) y f (p * y.pgf + i) (y.cur v) (v - 1)
              (q.mergeTo c y p i f b (fragCodes (sliceB (s.remoteData c (pageKey y p i)) 0 16384)) (upto v))) st
        let s2 := write (if old then write s (x.mstone - 1) else s) x.mstone
        exec (.fetchDone c tid p) s =
          .next (((s2.dropRemotes c [1, tid, p]).putPage c y p 3 true old x.mstone).settlePage c y p)) ∧
      (s.pageState c y p = 2 → x.wFetches.any (fun f => f.1 == tid && f.2.1 == p) = false →
        (∃ v q d, v < x.map.length ∧ q < 4 ∧ (s.queue c v q).st = .waiting ∧ (s.queue c v q).waits = .version d ∧
          (moveOf d).tid = tid ∧ (moveOf d).srcSpace = 2 ∧
          p ∈ s.pagesTouched c y (rowsOf (moveOf d).src (moveOf d).spitch (moveOf d).rows (moveOf d).rowbytes)) →
        exec (.waysideDemand c tid p) s = .next ((s.askFetch c y p false).ev 0x090 0 [c]))

/-! ### Model bundles (11_memory_tiers R353 to R357, R365) -/

/-- A write of the bundle's Milestone arms, disarms or is refused, and keeps the register during a replacement step;
verification loads nothing when the manifest, the key or the signature fails, a chunk whose digest differs stops the
load, RETRY reads it again, and ABORT carries every tensor that is not live (R353 to R357, R365). -/
def Obligations.BundleCommandsComplete : Prop :=
  ∀ (s : State) (c m : Nat),
    let x := s.ctx c
    let b := x.bundle
    (b.step ≠ none → exec (.hbmBundleAtWrite c m) s = .next s) ∧
    (b.step = none → m = 0 → exec (.hbmBundleAtWrite c m) s = .next (s.setCtx c { x with bundleAt := 0, bundle := {} })) ∧
    (b.step = none → x.mstone < m → x.bundleAddr.toNat % 64 = 0 → x.switchAt ≠ m →
      exec (.hbmBundleAtWrite c m) s = .next (s.setCtx c { x with bundleAt := m, bundle := { st := 1 } })) ∧
    (b.step = none → m ≠ 0 → (m ≤ x.mstone ∨ x.bundleAddr.toNat % 64 ≠ 0 ∨ x.switchAt = m) →
      exec (.hbmBundleAtWrite c m) s = .next (s.setCtx c { x with bundleAt := 0, bundle := { code := 1 } })) ∧
    (∀ n, b.step = some n → b.st = 2 →
      (s.manifestOk c = true → s.keyTrusted c = true → s.sigOk c = true → exec (.bundleVerify c) s =
        .next ((s.setBundle c { b with st := 3, verified := true }).goOn c n)) ∧
      (s.manifestOk c = true → s.keyTrusted c = true → s.sigOk c = false →
        exec (.bundleVerify c) s = .next (s.setBundle c { b with st := 5, code := 4 })) ∧
      (s.manifestOk c = true → s.keyTrusted c = false →
        exec (.bundleVerify c) s = .next (s.setBundle c { b with st := 5, code := 3 })) ∧
      (s.manifestOk c = false → exec (.bundleVerify c) s = .next (s.setBundle c { b with st := 5, code := 2 }))) ∧
    (b.st = 5 → b.code = 5 → exec (.retry c) s = .next (s.setBundle c { b with st := 3, code := 0, chunk := 0 })) ∧
    (∀ n y, let ch := s.mfChunk c b.done
      b.step = some n → b.st = 3 → b.done < mfChunks (s.mfHdr c) → s.tensor c (chTid ch) = some y →
      s.chunkHeld c y ch ≠ [] →
      let away := (s.chunkHeld c y ch).any fun h => !s.atHome c y h.2.2
      let rd := (s.ctxRead c (s.mfStage c + chDoff ch) (16384 * chNfrag ch)).getD ⟨s, [], false⟩
      let s1 := (s.chunkHeld c y ch).foldl (fun (st : State) h => st.writeFragment c (st.unitOf c y h.2.2) y h.2.1
        h.2.2 ((n + 1) % 2) n (fragCodes (sliceB rd.bytes (16384 * h.1) 16384))) rd.s
      (away = true → exec (.chunkHashed c) s = .next ((s.chunkHeld c y ch).foldl (fun (st : State) h =>
        if st.atHome c y h.2.2 then st else st.askFetch c y (y.pageOf h.2.2) false) s)) ∧
      (away = false → sha3_512 rd.bytes ≠ chDigest ch → exec (.chunkHashed c) s =
        .next (s1.setBundle c { b with st := 5, code := 5, chunk := b.done })) ∧
      (away = false → sha3_512 rd.bytes = chDigest ch → exec (.chunkHashed c) s =
        .next ((s1.setBundle c { b with done := b.done + 1 }).goOn c n))) ∧
    ∀ n, b.step = some n → (b.st = 2 ∨ b.st = 3 ∨ b.st = 5) →
      let s1 := (s.jobTensors c).foldl (fun (st : State) y =>
        if y.frozen || (y.slotSt ((n + 1) % 2) == 4 && y.tag ((n + 1) % 2) == n + 1) then st else st.carry c n y) s
      exec (.abort c) s = .next (s1.setBundle c { (s1.ctx c).bundle with st := 6 })

/-! ### The links (09_causeway_collectives R263 to R271, R295) -/

/-- A link takes frames in order: the next frame is accepted, with what it acknowledges and returns, and the expected
number moves on; one that came before is dropped without effect, and one that leaves a gap is dropped and answered with
one NAK. An accepted frame is discarded when its type, version or channel is reserved, and otherwise is delivered when
it is this device's and goes on unchanged when it is not, for each type; over a v1 link it stands for the current
values. A frame delivered is discarded when its epoch has passed or its sender is no member, held when its epoch is to
come, and acts in its epoch; a request acts inside its lending window alone (R263 to R268, R272, R273, R276,
11 R345). -/
def Obligations.FramesAreTakenInOrder : Prop :=
  (∀ (s : State) (p : Nat) (f : Frame), p < 24 →
    (∀ x ∈ frameCmds, f.ty = x.2 → (s.port p).hears f = false → exec (x.1 p f) s = .next s) ∧
    ((s.port p).hears f = true → f.bare = false →
      (f.lseq = (s.port p).rxSeq → s.linkRx p f =
        (s.linkTake p { (s.port p).take f with rxSeq := ((s.port p).rxSeq + 1) % 65536, naked := false }, true)) ∧
      (f.lseq ≠ (s.port p).rxSeq → lseqBefore f.lseq (s.port p).rxSeq = true → s.linkRx p f = (s, false)) ∧
      (f.lseq ≠ (s.port p).rxSeq → lseqBefore f.lseq (s.port p).rxSeq = false → s.linkRx p f = (s.nak p, false))) ∧
    ∀ x ∈ frameCmds, f.ty = x.2 →
      let r := s.linkRx p f
      let y := r.1.port p
      let g := if y.ver = 1 then r.1.readV1 f else f
      (r.2 = false → exec (x.1 p f) s = .next r.1) ∧
      (r.2 = true → frameOk y f = false → exec (x.1 p f) s = .next (r.1.dropFrame p f)) ∧
      (r.2 = true → frameOk y f = true →
        exec (x.1 p f) s = .next (if g.dst = r.1.fab.devid then r.1.deliver p g else r.1.forward p g))) ∧
  (∀ (s : State) (f : Frame), ∀ x ∈ frameCmds, f.ty = x.2 →
    exec (x.1 24 f) s = .next (if s.fab.inbox.contains f
      then ({ s with fab := { s.fab with inbox := s.fab.inbox.erase f } }).deliver 24 f else s)) ∧
  ∀ (s : State) (p : Nat) (f : Frame),
    (∀ c, s.ctxOfJob f.job = some c →
      (f.epoch < s.jobEpoch c → s.deliver p f = (s.ev 0x088 0 [c]).freeFrame p f) ∧
      (s.jobEpoch c < f.epoch →
        s.deliver p f = { s with fab := { s.fab with held := s.fab.held ++ [(p, f)] } }) ∧
      (f.epoch = s.jobEpoch c → s.jobMember c f.src = false → s.deliver p f = (s.ev 0x088 0 [c]).freeFrame p f) ∧
      (f.epoch = s.jobEpoch c → s.jobMember c f.src = true → s.deliver p f = s.deliverNow c p f)) ∧
    ∀ c tag addr total off len write, f.ty = 5 → f.msg = some (.request tag write addr total off len none) →
      let s0 := (s.checkE2e [c] p f).freeFrame p f
      (s0.lendAddr f.job addr total = none → s.deliverNow c p f = (s0.respond f tag false []).afterAccs s) ∧
      ∀ a, s0.lendAddr f.job addr total = some a →
        (write = true → s.deliverNow c p f =
          ((s0.dataWrite (a + off) f.payload).respond f tag true []).afterAccs s) ∧
        (write = false → let rd := s0.hbmRead (a + off) len
          s.deliverNow c p f = (rd.s.respond f tag true rd.bytes).afterAccs s)

/-- A port's own frames: a hello is sent with every beat, a hello of the peer ends the count of missed beats, eight of
which lose the port; an ACK and a NAK are taken, and a NAK or a timeout resends what is not acknowledged; a frame with a
bad FCS is answered with one NAK (R264 to R271). A port retrains when a frame has been resent eight times; a retrain
that ends resends what its peer lacks, and the third failure within a second loses the port (R267). A Switchback is
armed, refused with a code, or disarmed (10 R327). -/
def Obligations.LinkUpkeepCompletes : Prop :=
  (∀ (s : State) (p : Nat),
      let x := s.port p
      (x.beats = true → s.aon.failed = false → exec (.helloSend p) s = .next (s.sendHello p s.helloState)) ∧
      (s.aon.failed = true → exec (.helloSend p) s = .next s) ∧
      (∀ f : Frame, f.ty = 0 →
        let r := s.linkRx p f
        (r.2 = false → exec (.helloRx p f) s = .next r.1) ∧
        (r.2 = true → frameOk (r.1.port p) f = false → exec (.helloRx p f) s = .next (r.1.dropFrame p f)) ∧
        (r.2 = true → frameOk (r.1.port p) f = true →
          exec (.helloRx p f) s = .next (((r.1.freeFrame p f).checkE2e [] p f).takeHello p f.payload))) ∧
      (x.en.st ≠ .off → x.up = true → x.missed + 1 < 8 →
        exec (.missedBeat p) s = .next ((s.setPort p { x with missed := x.missed + 1 }).ev 0x064 p [])) ∧
      (x.en.st ≠ .off → x.up = true → 8 ≤ x.missed + 1 → exec (.missedBeat p) s =
        .next (((s.setPort p { x with missed := x.missed + 1 }).ev 0x064 p []).losePort p)) ∧
      (x.live = true → exec (.ackSend p) s = .next (s.sendBare p 1) ∧ exec (.retryTimeout p) s = .next (s.resend p)) ∧
      (∀ f : Frame, f.ty = 1 ∨ f.ty = 2 → x.hears f = true →
        let t := if frameOk x f then s.linkTake p (x.take f) else s.dropFrame p f
        (f.ty = 1 → exec (.ackRx p f) s = .next t) ∧
        (f.ty = 2 → exec (.nakRx p f) s = .next (if frameOk x f then t.resend p else t))) ∧
      (p < 24 → x.live = true → x.naked = false → exec (.badFcsFrame p) s =
        .next ((s.setPort p { x with naked := true }).sendBare p 2)) ∧
      (p < 24 → x.naked = true → exec (.badFcsFrame p) s = .next s) ∧
      exec (.badFcsFrame 24) s =
        .next (State.ev { s with host := { s.host with fcsErr := satInc 16 s.host.fcsErr } } 0x0B1 0 []) ∧
      ((s.resend p).port p).replay = x.replay.map fun r => { r with resent := r.resent + 1 }) ∧
  ∀ (s : State) (p : Nat),
      let x := s.port p
      (x.live = true → (∃ r ∈ x.replay, 8 ≤ r.resent) →
        exec (.portRetrain p) s = .next (s.setPort p { x with retraining := true })) ∧
      (x.live = true → (∀ r ∈ x.replay, r.resent < 8) → exec (.portRetrain p) s = .next s) ∧
      (x.retraining = true → ∀ lack recent, ∃ y : Port, exec (.portRetrainEnd p true lack recent) s =
          .next (((s.setPort p y).ev 0x061 p []).resend p) ∧ y.retraining = false ∧ y.failedRetrains = 0 ∧
        y.replay = (x.replay.filter fun r => !lseqBefore r.frame.lseq lack).map (fun r => { r with resent := 0 }) ∧
        { y with retraining := x.retraining, failedRetrains := x.failedRetrains, replay := x.replay } = x) ∧
      (x.retraining = true → ∀ lack recent, exec (.portRetrainEnd p false lack recent) s =
        let n := if recent then x.failedRetrains + 1 else 1
        .next (if n < 3 then s.setPort p { x with failedRetrains := n }
          else (s.setPort p { x with failedRetrains := n }).losePort p)) ∧
      ∀ c m, let code := if (s.ctx c).job.isNone then 9
          else s.checkMap c (s.ctx c).switchAddr.toNat (s.jobEpoch c + 1) ((s.ctx c).badSwitch m)
        exec (.fabSwitchAtWrite c 0) s = .next (s.setCtx c { s.ctx c with switchAt := 0 }) ∧
        (m ≠ 0 → exec (.fabSwitchAtWrite c m) s = .next (s.setCtx c { s.ctx c with
          smapCode := code, switchAt := if code = 0 then m else 0 }))

/-- FAB_ID, the 32-bit register at offset 0x0000 of the fabric's block, holds DEVID, DX, DY and DZ, its two lowest bits
are 0, and its reset value is 0xFFFF0000; a write while any fabric port is not OFF is ignored (R295, Table 9.11). -/
def Obligations.FabIdHoldsItsFields : Prop :=
  (∀ s : State,
    (∃ r, s.regOf 0x90000 = some (r, 0) ∧ r.name = .fabId ∧ r.bytes = 4) ∧
    (s.cfgRead (fun _ _ => false) 0x90000 4).val = s.fab.id.toNat ∧
    s.fab.devid = fld s.fab.id.toNat 16 16 ∧ s.fab.dim 0 - 1 = fld s.fab.id.toNat 11 5 ∧
    s.fab.dim 1 - 1 = fld s.fab.id.toNat 6 5 ∧ s.fab.dim 2 - 1 = fld s.fab.id.toNat 2 4 ∧
    (∀ v : W32, (∀ q, q < 24 → s.portState q = 0) → ∃ t, exec (.fabIdWrite v) s = .next t ∧
      (∀ i, i < 32 → t.fab.id.getLsbD i = (decide (2 ≤ i) && v.getLsbD i)) ∧
      { t with fab := { t.fab with id := s.fab.id } } = s) ∧
    ∀ (v : W32) (q : Nat), q < 24 → s.portState q ≠ 0 → exec (.fabIdWrite v) s = .next s) ∧
  State.reset.fab.id = 0xFFFF0000

/-! ### Requests of agents (14_host_port R433 to R449, 12_contexts_scheduling R368 to R377) -/

/-- How a request is received: a message that does not verify is discarded and counted, a tag seen before gets its
answer again, a tag outside the window STALE_TAG, a request of a wrong form MALFORMED, and a request without its
permission NO_PERM or NO_CTX; shown on KEEPALIVE and START (R434 to R436, Table 14.5). -/
def Obligations.RequestsAreChecked : Prop :=
  ∀ (s : State) (m : Ncp), s.ncpServed = true →
    let x := s.slot m.slot
    (∀ ty, ty ≠ 1 → s.authentic ty m = false → exec (.ncpAuthDiscard ty m) s = .next s.authDiscard) ∧
    (s.authentic 0x04 m = false → exec (.keepalive m) s = .next s.authDiscard) ∧
    (s.authentic 0x04 m = true →
      (∀ r, x.cache.find? (fun e => e.1 == m.tag) = some (m.tag, some r) → exec (.keepalive m) s =
        .next ((State.ev { s with host := { s.host with dup := satInc 16 s.host.dup } } 0x0AE 0 []).sendReply m.slot r)) ∧
      (x.cache.find? (fun e => e.1 == m.tag) = none → (m.tag ≤ x.high ∨ x.high + 64 < m.tag) →
        exec (.keepalive m) s = .next (s.sendReply m.slot ⟨4, m.tag, 8, m.ctx, []⟩)) ∧
      (x.cache.find? (fun e => e.1 == m.tag) = none → x.high < m.tag → m.tag ≤ x.high + 64 → s.romServes = false →
        (m.ver ≠ 1 ∨ m.flags ≠ 0 ∨ m.status ≠ 0 ∨ 64 ≤ m.ctx ∨ m.payload ≠ []) →
        exec (.keepalive m) s = .next ((s.ncpTaken 0x04 m).replies 0x04 m 4 []))) ∧
    (NcpAccepts s 0x04 m .attached → m.payload = [] →
      exec (.keepalive m) s = .next ((s.ncpTaken 0x04 m).replies 0x04 m 0 [])) ∧
    (NcpAccepts s 0x24 m .session → m.payload.length = 1 → x.st = 2 →
      (s.isAdmitted m.ctx = false → exec (.start m) s = .next ((s.ncpTaken 0x24 m).replies 0x24 m 9 [])) ∧
      (s.isAdmitted m.ctx = true → (s.ctx m.ctx).owner ≠ some m.slot → x.admin = false →
        exec (.start m) s = .next ((s.ncpTaken 0x24 m).replies 0x24 m 3 [])))

/-- The requests about contexts complete: CTX_CREATE answers with the outcome of the admission, CTX_DESTROY asks the
context and its evaluations to end, CTX_SWITCH asks for a switch, CTX_CLAIM gives an unowned context its owner, with its
held events, START starts queues, DOORBELL rings a counter and WATCH arms a watch (R368, R374, R376, R440, R441). -/
def Obligations.ContextRequestsComplete : Prop :=
  ∀ (s : State) (m : Ncp),
    (NcpAccepts s 0x20 m .attached → m.payload.length = 4608 →
      let t := s.ncpTaken 0x20 m
      let r := t.create m.slot (m.payload.take 512) (m.payload.drop 512)
      exec (.ctxCreate m) s = .next (r.1.replies 0x20 m 0 (leBytes 1 r.2.1 ++ leBytes 1 r.2.2))) ∧
    (NcpAccepts s 0x21 m .owner → m.payload = [] →
      let t := s.ncpTaken 0x21 m
      exec (.ctxDestroy m) s =
        .next (((t.children m.ctx).foldl (fun (q : State) e => q.askEnd e) (t.deferReq 0x21 m)).askEnd m.ctx)) ∧
    (NcpAccepts s 0x22 m .owner → m.payload = [] → (s.ctx m.ctx).kind = 0 →
      let t := s.ncpTaken 0x22 m
      ((∃ u ∈ (s.ctx m.ctx).map, (s.tile u).resident ≠ some m.ctx ∧ (s.tile u).lentFrom ≠ some m.ctx) →
        exec (.ctxSwitch m) s = .next (State.deferReq { t with ctxBlk := { t.ctxBlk with
          switches := t.ctxBlk.switches.filter (· != m.ctx) ++ [m.ctx] } } 0x22 m)) ∧
      ((∀ u ∈ (s.ctx m.ctx).map, (s.tile u).resident = some m.ctx ∨ (s.tile u).lentFrom = some m.ctx) →
        exec (.ctxSwitch m) s = .next (t.replies 0x22 m 0 []))) ∧
    (NcpAccepts s 0x23 m .adminCtx → m.payload = [] → (s.ctx m.ctx).owner = none →
      let t := s.ncpTaken 0x23 m
      let u : State := { t.setCtx m.ctx { t.ctx m.ctx with owner := some m.slot } with
        host := { t.host with unowned := t.host.unowned.filter fun e => e.2.1 != m.ctx } }
      exec (.ctxClaim m) s = .next (((t.host.unowned.filter fun e => e.2.1 == m.ctx).foldl
        (fun (q : State) e => q.slotEvent m.slot e.1 m.ctx e.2.2) u).replies 0x23 m 0 [])) ∧
    (NcpAccepts s 0x24 m .owner → m.payload.length = 1 →
      let t := s.ncpTaken 0x24 m
      (recN m.payload 0 1 < 16 → exec (.start m) s =
        .next ((t.startQueues m.ctx (recN m.payload 0 1) false).replies 0x24 m 0 [])) ∧
      (16 ≤ recN m.payload 0 1 → exec (.start m) s = .next (t.replies 0x24 m 4 []))) ∧
    (NcpAccepts s 0x25 m .owner → m.payload.length = 4 → recN m.payload 1 1 < 32 → recN m.payload 2 2 ≠ 0 →
      let t := s.ncpTaken 0x25 m
      (recN m.payload 0 1 < (s.ctx m.ctx).map.length →
        let r := t.ring m.ctx (recN m.payload 0 1) (recN m.payload 1 1) (recN m.payload 2 2)
        exec (.doorbell m) s = .next (r.1.replies 0x25 m r.2 [])) ∧
      ((s.ctx m.ctx).map.length ≤ recN m.payload 0 1 → exec (.doorbell m) s = .next (t.replies 0x25 m 9 []))) ∧
    (NcpAccepts s 0x26 m .owner → m.payload.length = 6 → recN m.payload 0 1 < 16 → recN m.payload 2 1 < 32 →
      recN m.payload 3 1 < 2 → recN m.payload 1 1 < (s.ctx m.ctx).map.length →
      let t := s.ncpTaken 0x26 m
      let w : Watch := { armed := recN m.payload 4 2 != 0, slot := m.slot, vt := recN m.payload 1 1,
                         sig := recN m.payload 2 1, repeats := recN m.payload 3 1 == 1, count := recN m.payload 4 2 }
      exec (.watch m) s = .next (((t.setCtx m.ctx { t.ctx m.ctx with
        watches := Tbl.set (t.ctx m.ctx).watches (recN m.payload 0 1) w }).testWatches m.ctx).replies 0x26 m 0 []))

/-- The requests about an agent's own slot, its queue pairs, regions and mappings, and the register accesses complete:
each with its effect and its answer (R436 to R449). Numbers that the device picks are free values. -/
def Obligations.SlotRequestsComplete : Prop :=
  ∀ (s : State) (m : Ncp),
    (NcpAccepts s 0x03 m .session → m.payload = [] →
      exec (.detach m) s = .next (((s.ncpTaken 0x03 m).replies 0x03 m 0 []).freeSlot m.slot)) ∧
    (NcpAccepts s 0x41 m .attached → m.payload.length = 4 →
      let t := s.ncpTaken 0x41 m
      exec (.eventAck m) s = .next ((t.setSlot m.slot { t.slot m.slot with
        events := (t.slot m.slot).events.filter fun e => decide (recN m.payload 0 4 < e.num) }).replies 0x41 m 0 [])) ∧
    (NcpAccepts s 0x30 m .attached → m.payload.length = 25 → 3 ≤ recN m.payload 24 1 → recN m.payload 24 1 ≤ 5 →
      s.host.qps.length < 512 → ∃ (n psn : Nat) (t : State), n < 2 ^ 24 ∧ psn < 2 ^ 24 ∧ t.host.qps = s.host.qps ∧
        let q : Qp := { slot := m.slot, peerQpn := recN m.payload 0 4 % 2 ^ 24, gid := recN m.payload 8 16,
                        mtu := recN m.payload 24 1, txPsn := psn, rxPsn := recN m.payload 4 4 % 2 ^ 24 }
        exec (.qpOpen m) s = .next ((t.setQp n q).replies 0x30 m 0 (leBytes 4 n ++ leBytes 4 psn))) ∧
    (NcpAccepts s 0x31 m .attached → m.payload.length = 4 → ∀ q, s.qp (recN m.payload 0 4) = some q →
      let t := s.ncpTaken 0x31 m
      (q.slot = m.slot → exec (.qpClose m) s = .next ((t.closeQp (recN m.payload 0 4)).replies 0x31 m 0 [])) ∧
      (q.slot ≠ m.slot → exec (.qpClose m) s = .next (t.replies 0x31 m 3 []))) ∧
    (NcpAccepts s 0x32 m .attached → m.payload.length = 25 → ∀ q, s.qp (recN m.payload 0 4) = some q →
      recN m.payload 24 1 < 4 → q.slot = m.slot → s.host.regions.length < 1024 →
      ∃ h t, 1 ≤ h ∧ h ≤ 65535 ∧ exec (.regionAdd m) s = .next (State.replies t 0x32 m 0 (leBytes 2 h)) ∧
        t.host.regions = Tbl.set s.host.regions h ⟨m.slot, recN m.payload 0 4, recN m.payload 4 4, recN m.payload 8 8,
          recN m.payload 16 8, recN m.payload 24 1, false⟩) ∧
    (NcpAccepts s 0x33 m .attached → m.payload.length = 2 → ∀ r, s.region (recN m.payload 0 2) = some r →
      (r.slot = m.slot ∨ (s.slot m.slot).admin = true) →
      let t := s.ncpTaken 0x33 m
      exec (.regionDel m) s = .next ((State.settleRegions { t with host := { t.host with
        regions := Tbl.set t.host.regions (recN m.payload 0 2) { r with removing := true } } }).replies 0x33 m 0 [])) ∧
    (NcpAccepts s 0x34 m .attached → m.payload.length = 17 → recN m.payload 0 1 = 0 → s.isAdmitted m.ctx = true →
      (s.ctx m.ctx).owner = some m.slot → ∃ k t, k < 2 ^ 32 ∧
        exec (.hbmMap m) s = .next (State.replies t 0x34 m 0 (leBytes 4 k)) ∧
        t.host.maps = Tbl.set s.host.maps k ⟨m.slot, false, m.ctx, recN m.payload 1 8, recN m.payload 9 8, true⟩) ∧
    (NcpAccepts s 0x34 m .attached → m.payload.length = 17 → recN m.payload 0 1 = 1 → (s.slot m.slot).admin = true →
      ∃ k t, k < 2 ^ 32 ∧ exec (.hbmMap m) s = .next (State.replies t 0x34 m 0 (leBytes 4 k)) ∧
        t.host.maps = Tbl.set s.host.maps k ⟨m.slot, true, m.ctx, recN m.payload 1 8, recN m.payload 9 8,
          !s.segsMeet (recN m.payload 1 8) (recN m.payload 9 8)⟩) ∧
    (NcpAccepts s 0x10 m .attached → m.payload.length = 6 → cfgForm m = true → cfgMisaligned m = false →
      let r := (s.ncpTaken 0x10 m).cfgReads m.slot m
      exec (.cfgRead m) s = .next (r.1.s.replies 0x10 m (Acc.status r.1.denied r.1.missing) r.2)) ∧
    (NcpAccepts s 0x11 m .admin → cfgForm m = true → m.payload.length = 6 + ncpCount m * ncpWidth m →
      cfgMisaligned m = false →
      let w := ncpWidth m
      let r := (List.range (ncpCount m)).foldl (fun (x : Acc) i =>
        let y := x.s.cfgWrite (ncpAddr m + i * w) w (recN m.payload (6 + i * w) w)
        ⟨y.s, 0, false, x.missing || y.missing⟩) ⟨s.ncpTaken 0x11 m, 0, false, false⟩
      exec (.cfgWrite m) s = .next (r.s.replies 0x11 m (Acc.status false r.missing) []))

/-- A session begins and is proven: ATTACH takes the lowest free slot and makes it pending, or is refused with its code,
and AUTH attaches the agent whose signature verifies under a key that a fuse entry accepts, with that entry's ADMIN,
and frees the slot otherwise; a silent slot is freed, and events not acknowledged are sent again (R437, R438,
R442). -/
def Obligations.SessionsBeginAndEnd : Prop :=
  ∀ (s : State) (m : Ncp), s.ncpServed = true →
    let s0 := s.wakeDeep
    let say (st : State) (status : Nat) : State :=
      st.answer m.slot { ty := 2, tag := 0, status := status, ctx := m.ctx, payload := [] }
    (attachOk m = true → recN m.payload 0 1 ≤ 1 → 1 ≤ recN m.payload 1 1 →
      (∀ a, a < 8 → (s.slot a).st = 0 → (∀ b, b < a → (s.slot b).st ≠ 0) →
        exec (.attach m) s = .next (s0.attach m a) ∧ ((s0.attach m a).slot a).st = 1 ∧
          ∀ b, b ≠ a → (s0.attach m a).slot b = s.slot b) ∧
      ((∀ a, a < 8 → (s.slot a).st ≠ 0) → exec (.attach m) s = .next (s0.attachReply m 0xFF 0 6 []))) ∧
    (attachOk m = false → exec (.attach m) s = .next (s0.attachReply m 0xFF 0 4 [])) ∧
    (s.sec.stage = 9 → s.authentic 2 m = true → m.ver = 1 → m.flags = 0 → m.status = 0 → m.ctx < 64 → m.tag = 0 →
      m.payload.length = 4627 → (s.slot m.slot).st = 1 →
      let x := s.slot m.slot
      let good := Config.mldsaVerify x.agentKey (ascii "ngutas-agent-v1") x.transcript m.payload
      (∀ f, s.fuses.accepts x.agentKey = some f →
        (good = true → exec (.auth m) s = .next (say (s0.setSlot m.slot { x with st := 2, admin := f.admin }) 0)) ∧
        (good = false → exec (.auth m) s = .next ((say s0 7).freeSlot m.slot))) ∧
      (s.fuses.accepts x.agentKey = none → exec (.auth m) s = .next ((say s0 7).freeSlot m.slot))) ∧
    (∀ a, a < 8 → (s.slot a).st ≠ 0 → exec (.agentTimeout a) s = .next (s.freeSlot a)) ∧
    ∀ a, (s.slot a).events ≠ [] → exec (.eventResend a) s = .next (State.ev ((s.slot a).events.foldl
      (fun (st : State) e => st.emit (.event a e.num e.code e.ctx e.lost e.payload)) s) 0x0AF 0 []
      (s.slot a).events.length)

/-! ### The host link (14_host_port R429 to R432, R443 to R450) -/

/-- The host link comes up in its mode and takes the boot to LISTEN, and goes down while sessions and queue pairs stay;
a static address is tentative until duplicate address detection ends; what is asked of the part's own addresses is
answered; a pause frame acts on the one priority that the port heeds, and one of 0 lets what waited go; an LLDPDU goes
out (R429 to R432, R448, R450). -/
def Obligations.HostLinkCommandsComplete : Prop :=
  ∀ (s : State),
    let h := s.host
    (∀ speed, s.clocked = true → h.en.st ≠ .off → h.pll = true → h.link = false →
      (h.runMode = 0 → anModes.contains speed = true) → exec (.hostLinkUp speed) s = .next { s with
        host := { h with link := true, speed := if h.runMode = 0 then speed else h.runMode, en := h.en.started }
        sec := { s.sec with stage := if s.sec.stage = 3 then 4 else s.sec.stage } }) ∧
    exec .hostLinkDown s = .next { s with host := { h with link := false, speed := 0 } } ∧
    (∀ v : W64, let a := h.ipHi.toNat * 2 ^ 64 + v.toNat
      exec (.hostIpLoWrite v) s = .next { s with host := { h with ipLo := v, addr := none, dadFail := false,
                                                                  tentative := if a = 0 then none else some a } }) ∧
    (∀ a, h.tentative = some a →
      exec (.duplicateAddressDetectionEnd false) s =
        .next { s with host := { h with tentative := none, dadFail := false, addr := some a } } ∧
      exec (.duplicateAddressDetectionEnd true) s =
        .next { s with host := { h with tentative := none, dadFail := true, addr := none } }) ∧
    (∀ a data, h.link = true → s.ownsAddr a = true →
      exec (.neighbourSolicitation a) s = .next (s.emit (.advert a)) ∧
      exec (.echoRequest a data) s = .next (s.emit (.echoReply a data))) ∧
    (∀ a data, s.ownsAddr a = false → exec (.neighbourSolicitation a) s = .next s ∧
      exec (.echoRequest a data) s = .next s) ∧
    (∀ prio quanta, h.link = true → bit h.runPfc 3 = true →
      (fld h.runPfc 0 3 = prio → quanta ≠ 0 →
        exec (.pfcFrame prio quanta) s = .next { s with host := { h with paused := true } }) ∧
      (fld h.runPfc 0 3 = prio → quanta = 0 → exec (.pfcFrame prio quanta) s = .next (h.heldTx.foldl
        (fun (st : State) x => st.emit (.rdma x)) { s with host := { h with paused := false, heldTx := [] } })) ∧
      (fld h.runPfc 0 3 ≠ prio → exec (.pfcFrame prio quanta) s = .next s)) ∧
    (s.ncpServed = true → exec .lldpSend s = .next (State.emit { s with free := s.free + 1 } (.lldp s.lldpdu)))

/-- A RoCEv2 packet of a queue pair ends deep sleep and acts: a marked one is answered with a congestion notification,
which at the sender halves the rate, an answer is taken by its requester, the next request in order is served and moves the expected number on, an earlier one is served
again, and a later one is dropped; requests that are not answered are sent again, and fail after seven times; the rate
recovers by a sixteenth (R443 to R445, 16 R475). -/
def Obligations.RdmaCompletes : Prop :=
  ∀ (s : State) (p : Rdma) (q : Qp), s.host.link = true → s.sec.stage = 9 → s.qp p.qpn = some q →
    let s0 := s.wakeDeep
    (p.ecn = true → (p.op = .write ∨ p.op = .read) → p.psn ≠ q.rxPsn → psnBefore p.psn q.rxPsn = false →
      exec (.rdmaPacketRx p) s = .next (s0.rdmaAnswer q .cnp 0 [])) ∧
    (p.ecn = false → p.op = .cnp →
      exec (.rdmaPacketRx p) s = .next ((s0.setQp p.qpn { q with rate := q.rate / 2 }).ev 0x0B3 0 [])) ∧
    (p.ecn = false → (p.op = .response ∨ p.op = .ack ∨ p.op = .nakAccess) →
      exec (.rdmaPacketRx p) s = .next (s0.rdmaAnswered p.qpn q p)) ∧
    (p.ecn = false → p.op = .write → p.psn = q.rxPsn → exec (.rdmaPacketRx p) s =
      .next ((s0.setQp p.qpn { q with rxPsn := (q.rxPsn + 1) % 2 ^ 24 }).rdmaServe q p false)) ∧
    (p.ecn = false → p.op = .read → p.psn = q.rxPsn → exec (.rdmaPacketRx p) s =
      .next ((s0.setQp p.qpn { q with rxPsn := (q.rxPsn + rdmaPackets p (mtuBytes q.mtu)) % 2 ^ 24 }).rdmaServe q p
        false)) ∧
    (p.ecn = false → (p.op = .write ∨ p.op = .read) → p.psn ≠ q.rxPsn →
      (psnBefore p.psn q.rxPsn = true → exec (.rdmaPacketRx p) s = .next (s0.rdmaServe q p true)) ∧
      (psnBefore p.psn q.rxPsn = false → exec (.rdmaPacketRx p) s = .next s0)) ∧
    (q.sent ≠ [] → (∀ r ∈ q.sent, r.retries < 7) → s.host.paused = false → ∃ t, exec (.roceRetransmitTimeout p.qpn) s = .next t ∧
      t.qp p.qpn = some { q with sent := q.sent.map fun r => { r with retries := r.retries + 1 } } ∧
      t.out = s.out ++ q.sent.map fun r => Out.rdma r.pkt) ∧
    (q.sent ≠ [] → (∀ r ∈ q.sent, r.retries < 7) → s.host.paused = true → ∃ t,
      exec (.roceRetransmitTimeout p.qpn) s = .next t ∧
      t.qp p.qpn = some { q with sent := q.sent.map fun r => { r with retries := r.retries + 1 } } ∧
      t.out = s.out ∧ t.host.heldTx = s.host.heldTx ++ q.sent.map (·.pkt)) ∧
    ((∃ r ∈ q.sent, 7 ≤ r.retries) → exec (.roceRetransmitTimeout p.qpn) s = .next ((q.sent.foldl
      (fun (st : State) r => st.answerRemote r.tag false []) s).setQp p.qpn { q with sent := [] })) ∧
    exec (.roceRateRecovery p.qpn) s = .next (s.setQp p.qpn { q with rate := min 65536 (q.rate + 4096) })

/-! ### Boot and security (15_boot_security) -/

/-- The boot: RESET_N accepted as deasserted starts the ROM in FUSE with the modes of its lands; an offer that passes is
held, its data are taken in order and only in order, an abort lets it go, and the end enters a body whose digest is
the header's and discards any other; INIT ends with the tiles and engines that are enabled starting; ATTEST signs the
report (R451 to R459). -/
def Obligations.BootCommandsComplete : Prop :=
  ∀ (s : State) (m : Ncp),
    (∀ lands, s.pmc.aon = true → s.pmc.powered = true → s.pmc.resetLevel = true → s.pmc.trip = false →
      s.sec.stage = 0 → jtagHolds s.tst.ir = false → ∃ t, exec (.bootStart lands) s = .next t ∧
        t.sec.stage = s.fuses.bootStage ∧ t.pmc.rst.accepted = true ∧ t.pmc.stopped = false ∧ t.fuses = s.fuses ∧
        t.host.mode = (if lands % 8 = 7 then 0 else lands % 8) ∧ t.sec.bootSvn = s.fuses.svn) ∧
    (NcpAccepts s 0x50 m .session → m.payload.length = 7424 →
      let t := s.ncpTaken 0x50 m
      let r := t.offerResult m.payload
      (r ≠ 0 → exec (.fwOffer m) s = .next (State.ncpFinish 0x50 m (((t.fwFail r true)).fwAnswer r))) ∧
      (r = 0 → exec (.fwOffer m) s = .next (State.ncpFinish 0x50 m (State.fwAnswer { t with sec := { t.sec with
        stage := 5, fwKey := (t.signer m.payload).getD 0
        fetch := some { slot := m.slot, header := m.payload } } } 0)))) ∧
    (NcpAccepts s 0x51 m .session → 20 ≤ m.payload.length → m.payload.length - 4 ≤ 8176 →
      (m.payload.length - 4) % 16 = 0 → ∀ f, s.sec.fetch = some f → f.slot = m.slot →
      let t := s.ncpTaken 0x51 m
      let off := recN m.payload 0 4
      (off ≠ f.body.length → exec (.fwData m) s =
        .next (State.ncpFinish 0x51 m ((t.fwFail 6 false).fwAnswer 6))) ∧
      (off = f.body.length → off + (m.payload.length - 4) ≤ bodyLen f.header → exec (.fwData m) s =
        .next (State.ncpFinish 0x51 m (State.fwAnswer { t with sec := { t.sec with
          fetch := some { f with body := f.body ++ m.payload.drop 4 } } } 0)))) ∧
    (NcpAccepts s 0x52 m .session → m.payload = [] → ∀ f, s.sec.fetch = some f → f.slot = m.slot →
      bodyLen f.header ≤ f.body.length →
      let t := s.ncpTaken 0x52 m
      (sha3_512 f.body = bodyDigest f.header → exec (.fwEnd m) s =
        .next ((t.replies 0x52 m 0 (leBytes 1 0 ++ leBytes 4 t.sec.nextOff)).handover f)) ∧
      (sha3_512 f.body ≠ bodyDigest f.header → ∃ u, exec (.fwEnd m) s = .next u ∧ u.sec.stage = 4 ∧
        u.sec.fetch = none)) ∧
    (NcpAccepts s 0x53 m .session → m.payload = [] → s.sec.holds m.slot = true →
      let t := s.ncpTaken 0x53 m
      exec (.fwAbort m) s = .next (State.ncpFinish 0x53 m
        (State.fwAnswer { t with sec := { t.sec with stage := 4, fetch := none } } 0))) ∧
    (s.sec.stage = 8 → s.aon.failed = false → (∀ k, k < 12 → (s.stack k).st ≠ .training) →
      exec .initDone s = .next
        (((List.range 16).filter fun e => bit s.pmc.engEn e).foldl State.enableEngine
          (((List.range 256).filter fun t => s.pmc.tileEn.getLsbD t).foldl State.enableTile
            { s with sec := { s.sec with stage := 9, linked := true } }))) ∧
    (NcpAccepts s 0x05 m .session → m.payload = [] →
      let t := s.ncpTaken 0x05 m
      exec (.attest m) s = .next (t.replies 0x05 m 0 (t.report m.slot ++ sliceB (Config.mldsaSign t.fuses.idkSeed
        (ascii "ngutas-attest-v1") (sha3_512 (t.report m.slot))) 0 4627)))

/-- Fuse programming: a command of SEC_FUSE_CTL starts one at READY unless one is under way, the fuses change when it
ends and only then, and what it sets is its own field: the entry's hash and VALID, ADMIN, REVOKED, FW_REVOKE, or the
security version plus one, never past 64 or the image's; a field that is set already is refused (R460, R465,
Table 15.11). -/
def Obligations.FuseProgrammingCompletes : Prop :=
  (∀ (s : State) (k : Nat),
    (exec (.progAgentHash k) s = .next (s.program (k % 8)) ∧ exec (.progAdmin k) s = .next (s.program (0x10 + k % 8)) ∧
      exec (.progRevoked k) s = .next (s.program (0x20 + k % 8)) ∧
      exec (.progFwRevoke k) s = .next (s.program (0x30 + k % 2)) ∧ exec .progSvn s = .next (s.program 0x40)) ∧
    (s.sec.stage = 9 → s.sec.prog = none → ∀ c, s.program c = { s with sec := { s.sec with
      target := c, prog := some (c, (List.range 8).flatMap fun i => leBytes 8 (Tbl.get 0 s.sec.fuseData i).toNat) } }) ∧
    (∀ c, (s.program c).fuses = s.fuses ∧ (s.sec.prog ≠ none → (s.program c).sec.prog = s.sec.prog)) ∧
    (s.sec.prog = none → exec .fuseProgDone s = .next s) ∧
    ∀ c d, s.sec.prog = some (c, d) →
      let r := s.fuses.programmed c (fwSvn s.sec.header) d
      exec .fuseProgDone s = .next { s with fuses := r.1, sec := { s.sec with prog := none, err := r.2 } } ∧
      s.fuses.svn ≤ r.1.svn ∧ (s.fuses.svn < 64 → r.1.svn ≤ 64) ∧ r.1.lifecycle = s.fuses.lifecycle) ∧
  ∀ (f : Fuses) (image : Nat) (d : Bytes),
    (∀ k, k < 8 → let a := f.agent k
      f.programmed k image d =
        (if a.valid then (f, 1) else (f.setAgent k { a with hash := d, valid := true }, 0)) ∧
      f.programmed (0x10 + k) image d = (if a.admin then (f, 1) else (f.setAgent k { a with admin := true }, 0)) ∧
      f.programmed (0x20 + k) image d =
        (if a.revoked then (f, 1) else (f.setAgent k { a with revoked := true }, 0))) ∧
    (∀ k, k < 2 → f.programmed (0x30 + k) image d =
      (if bit f.fwRevoke k then (f, 1) else ({ f with fwRevoke := setFld f.fwRevoke k 1 1 }, 0))) ∧
    (f.svn < image → f.svn < 64 → f.programmed 0x40 image d = ({ f with svn := f.svn + 1 }, 0)) ∧
    (image ≤ f.svn → f.programmed 0x40 image d = (f, 2))

/-! ### Gang switches and lending (12_contexts_scheduling R374 to R383) -/

/-- Contexts change places: a pending switch is done once it is its turn and every tile is at a preemption point, and is
cancelled at its timeout; a stalled tile is lent to the Layby context and comes back when it is reclaimed; an
evaluation takes its parent's tiles at its Milestone and gives them back; a context that does not stop in time loses
what it has in flight (R374 to R383). -/
def Obligations.ContextSwitchesComplete : Prop :=
  ∀ (s : State),
    (∀ c, let x := s.ctx c
      c ∈ s.ctxBlk.switches →
      (∀ b ∈ s.ctxBlk.switches.takeWhile (· != c), ∀ t ∈ s.switchTiles b, t ∉ s.switchTiles c) →
      x.on = true → x.ending = false → s.mayGang c = true →
      exec (.switchExecute c) s = .next (State.answerLater { s.gang c with ctxBlk := { (s.gang c).ctxBlk with
        switches := (s.gang c).ctxBlk.switches.filter (· != c) } } 0x22 c 0)) ∧
    (∀ c, c ∈ s.ctxBlk.switches → s.atPoints c = false → exec (.preemptTimeout c) s = .next (((((c :: s.outsOf c).foldl State.unyield
      { s with ctxBlk := { s.ctxBlk with switches := s.ctxBlk.switches.filter (· != c) } }).logSwitch 5
      ((s.outsOf c).headD 0) c (Config.freeNat s.free)).ev 0x0A7 0 [c]).answerLater 0x22 c 0x0B)) ∧
    (∀ c, s.atPoints c = true → exec (.preemptTimeout c) s = .next s) ∧
    (∀ c, c ∉ s.ctxBlk.switches → exec (.switchExecute c) s = .next s ∧ exec (.preemptTimeout c) s = .next s) ∧
    (∀ t p v, let x := s.tile t
      let l := (s.ctx p).layby
      x.resident = some p → (s.ctx p).vid t = some v → (s.ctx p).kind = 0 → x.lentFrom = none →
      (s.ctx p).laybyEn = true → (s.ctx l).on = true → (s.ctx l).ending = false → (s.ctx l).kind = 1 →
      t ∈ (s.ctx l).map → s.ctxBlk.switches = [] → s.gangPending t = false → x.runs = true →
      s.stalledTile p v = true → s.atPoint p t = true →
      (∀ y ∈ s.sigs, y.ctx = p → y.dstVt ≠ v ∧ y.srcVt ≠ v) → (s.ctx p).ending = false →
      let s1 := (s.saveTile p t).loadTile l t
      exec (.laybyLend t) s = .next ((((s1.setTile t { s1.tile t with lentFrom := some p }).stampUp l).logSwitch 1 p l
        (s.switchCycles [(t, [p, l])])).ev 0x0A5 0 [p, l])) ∧
    (∀ t p l, (s.tile t).lentFrom = some p → (s.tile t).resident = some l → (s.tile t).en.st ≠ .starting →
      s.reclaimable t = true → s.laybyDone l t = true →
      let s1 := (s.saveTile l t).loadTile p t
      exec (.laybyReclaim t) s = .next (((((s1.setTile t { s1.tile t with lentFrom := none }).logSwitch 2 l p
        (s.switchCycles [(t, [l, p])])).ev 0x0A6 0 [l, p]).settleEnding p).settleEnding l)) ∧
    (∀ e, let x := s.ctx e
      let p := x.parent
      x.kind = 2 → x.on = true → x.ending = false → s.evalPending p = true → s.nextEval p = some e →
      (∀ y ∈ s.sigs, y.ctx ≠ p) →
      (∀ t ∈ x.map, (s.tile t).runs = true ∧ (s.tile t).lentFrom = none ∧ (s.tile t).resident = some p ∧
        s.atPoint p t = true) →
      exec (.evaluationSwitchIn e) s = .next ((((x.map.foldl (fun (st : State) t => (st.saveTile p t).loadTile e t)
        s).stampUp e).logSwitch 3 p e (s.switchCycles (x.map.map fun t => (t, [p, e])))).ringHeld e)) ∧
    (∀ e, let x := s.ctx e
      x.kind = 2 → (∃ t ∈ x.map, (s.tile t).resident = some e) → (∀ t ∈ x.map, (s.tile t).en.st ≠ .starting) →
      (∀ f ∈ s.flight, f.ctx ≠ e) → (∀ y ∈ s.sigs, y.ctx ≠ e) →
      (x.en.st = .stopping → exec (.evaluationSwitchOut e) s =
        .next (((s.evalBack e).endContext e).settleEnding x.parent)) ∧
      (x.en.st ≠ .stopping → (∀ v q, v < x.map.length → q < 4 → (s.queue e v q).st = .idle) →
        exec (.evaluationSwitchOut e) s =
          .next ((((s.evalBack e).ctxEvent e 7 [1]).endContext e).settleEnding x.parent))) ∧
    ∀ c, s.isAdmitted c = true → ((s.ctx c).ending = true ∨ (s.ctx c).en.st = .stopping) → s.drained c = false →
      ∃ t, exec (.destroyPreemptionLimit c) s = .next (State.stopContext t c) ∧ (∀ f ∈ t.flight, f.ctx ≠ c) ∧
        (∀ y ∈ t.sigs, y.ctx ≠ c) ∧ ∀ r ∈ t.remotes, r.ctx ≠ c

/-! ### Fault tolerance (13_fault_tolerance) -/

/-- The watchdog expires at its timeout and not before, PET restarts it, and a write of EN starts it once; a tile is fenced by its
bit of AON_FENCE, by its hard events or because it does not answer: its bit is set, and, shown where every context has
a job, it stops, and its instructions in flight are poisoned and their fragments suspect; any other unit that does not
answer makes the device declare itself failed (R394 to R398, R421 to R423). -/
def Obligations.FaultContainmentCompletes : Prop :=
  ∀ (s : State),
    let a := s.aon
    (∀ n, a.wdEn = true → a.wdCount + n < a.timeout →
      exec (.watchdogExpire n) s = .next { s with aon := { a with wdCount := a.wdCount + n } }) ∧
    (∀ n, a.wdEn = true → a.timeout ≤ a.wdCount + n → exec (.watchdogExpire n) s =
      .next (State.declareFailed { s with aon := { a with wdCount := a.wdCount + n, expired := true } })) ∧
    (∀ n, a.wdEn = false → exec (.watchdogExpire n) s = .next s) ∧
    exec .pet s = .next { s with aon := { a with wdCount := 0 } } ∧
    (a.wdEn = false → exec .watchdogEnable s = .next { s with aon := { a with wdEn := true, wdCount := 0 } }) ∧
    (a.wdEn = true → exec .watchdogEnable s = .next s) ∧
    (∀ t, exec (.configNoAnswer (some t)) s = .next (s.fenceTile t)) ∧
    exec (.configNoAnswer none) s = .next s.declareFailed ∧
    (∀ t, a.fenceLimit ≠ 0 → a.fenceLimit ≤ (s.tile t).faultCnt → exec (.tileFence t) s = .next (s.fenceTile t)) ∧
    (∀ t, a.fenceLimit = 0 → exec (.tileFence t) s = .next s) ∧
    (∀ i j, i < 4 → j < 64 → exec (.aonFenceWrite i (BitVec.ofNat 64 (2 ^ j))) s = .next (s.fenceTile (64 * i + j))) ∧
    (∀ t, 256 ≤ t ∨ a.fence.getLsbD t = true → s.fenceTile t = s) ∧
    ∀ t, t < 256 → a.fence.getLsbD t = false →
      (∀ u, u < 256 → (s.fenceTile t).aon.fence.getLsbD u = (decide (u = t) || a.fence.getLsbD u)) ∧
      ((∀ e ∈ s.ctxs, e.2.job.isSome = true) →
        ((s.tile t).en.st ≠ .off → ((s.fenceTile t).tile t).en.st = .stopping) ∧
        (∀ u, u ≠ t → (s.fenceTile t).tile u = s.tile u) ∧
        (s.fenceTile t).flight = s.flight.map fun f =>
          if (s.ctx f.ctx).phys f.vt = some t then { f with poison := true, suspect := true } else f)

/-- Recovery: a device enters it for the first cause that was raised, holds its queues and floods FAIL and ALIVE; when the
window ends it forms its view, and the lead proposes; without a COMMIT in time the next attempt begins; an EPOCH frame
is flooded onwards once; RESUME starts the held queues again and RESTART takes the map of a waiting device (R401 to
R414, R425). -/
def Obligations.RecoveryCommandsComplete : Prop :=
  ∀ (s : State) (c : Nat),
    let x := s.ctx c
    (∀ k rest, x.recov.raised = k :: rest → (s.smap c).isSome = true → x.recov.mayEnter = true →
      let s0 := s.setRecov c { x.recov with raised := rest.filter (· != k) }
      let s1 := (s0.enterRecovery c k.1).floodFail c k.1 (if k.1 = 1 then k.2 else s.fab.devid)
      exec (.recoveryEnter c) s = .next ((s1.traceRecovery c (s1.jobEpoch c + 1)).floodAlive c)) ∧
    (∀ k rest, x.recov.raised = k :: rest → (s.smap c).isSome = true → (x.recov.phase = 1 ∨ x.recov.phase = 2) →
      let s0 := s.setRecov c { x.recov with raised := rest.filter (· != k) }
      let s1 := s0.floodFail c 1 k.2
      (k.1 = 1 → exec (.recoveryEnter c) s =
        .next (if (x.recov.view.getD []).contains k.2 then s1.newAttempt c else s1)) ∧
      (k.1 ≠ 1 → exec (.recoveryEnter c) s = .next s0)) ∧
    (x.recov.raised = [] → exec (.recoveryEnter c) s = .next s) ∧
    (∀ m, s.smap c = some m → x.recov.phase = 1 →
      let view := s.formView c
      let fset := s.formF c view
      let s1 := (s.setRecov c { x.recov with phase := 2, view := some view, fset := fset }).traceRecovery c
        (s.jobEpoch c + 1)
      (∀ k, s1.leadRank c m view fset = some k →
        (m.rankOf s1.fab.devid = some k → exec (.aliveWindowExpire c) s = .next (s1.propose c m k fset)) ∧
        (m.rankOf s1.fab.devid ≠ some k → exec (.aliveWindowExpire c) s = .next s1)) ∧
      (s1.leadRank c m view fset = none → exec (.aliveWindowExpire c) s = .next s1)) ∧
    (x.recov.phase = 2 → exec (.attemptTimeout c) s = .next (s.newAttempt c)) ∧
    (x.recov.phase ≠ 2 → exec (.attemptTimeout c) s = .next s) ∧
    (∀ (p : Nat) (f : Frame) scales, let r := s.linkRx p f
      let s1 := r.1.freeFrame p f
      f.ty = 8 → r.2 = true → frameOk (r.1.port p) f = true →
      (s1.fab.seen.contains (epochKey f.job f.payload) = true → exec (.epochRx p f scales) s = .next s1) ∧
      (s1.fab.seen.contains (epochKey f.job f.payload) = false →
        let s2 := State.flood { s1 with fab := { s1.fab with seen := epochKey f.job f.payload :: s1.fab.seen } } p f
        (s2.ctxOfJob f.job = none → exec (.epochRx p f scales) s = .next s2) ∧
        ∀ d, s2.ctxOfJob f.job = some d →
          exec (.epochRx p f scales) s = .next ((s2.checkE2e [d] p f).epochFrame d f scales))) ∧
    (x.on = true → x.held = true → s.fencedOf c = [] → x.job = none →
      exec (.resume c) s = .next ((s.setCtx c { x with held := false }).startQueues c 15 true)) ∧
    (x.on = true → x.held = true → s.fencedOf c = [] → x.job.isSome = true → x.recov.phase = 3 →
      let s0 := s.reswitch c
      let y := s0.ctx c
      (y.smapCode = 0 ∨ y.switchStep ≠ some y.mstone) →
      let s1 := s0.setCtx c { y with held := false, recov := { y.recov with phase := 0 } }
      exec (.resume c) s = .next (((s1.traceRecovery c (s1.jobEpoch c)).startQueues c 15 true).retryHeld)) ∧
    (x.held = false → exec (.resume c) s = .next s) ∧
    (∀ j, x.job = some j → x.on = true → x.join = true → j.map = none →
      let code := s.checkMap c x.smap (j.epoch + 1) fun _ => false
      (code ≠ 0 → exec (.restart c) s = .next (s.setCtx c { x with smapCode := code })) ∧
      (code = 0 →
        let y := (s.installMap c x.smap).ctx c
        let s2 := (s.installMap c x.smap).setCtx c { y with held := true, recov := { y.recov with phase := 3 } }
        exec (.restart c) s = .next (((s2.resetQueues c j.mstone).retile c).retryHeld))) ∧
    (x.on = true → x.recov.phase = 0 → exec (.replay c) s = .next (s.raise c 6 s.fab.devid)) ∧
    (∀ j, x.job = some j → exec (.mirrorRebuild c) s = .next (j.copies.foldl (fun (st : State) q => st.sendCopy c q)
      (s.setCtx c { x with job := some { j with copies := [] } }))) ∧
    (s.mayArrive c = true → x.diagArmed = true → x.recov.diagDigest = none → exec (.diagnosticReplay c) s =
      .next ((s.setRecov c { x.recov with diagDigest := some (s.writtenDigest c) }).raise c 7 s.fab.devid))

/-! ### Power and clocks (16_power_clocks, 20_electrical_package) -/

/-- Enables of a tile, an engine, a port and the host port: a request sets the enable bit and starts an OFF tile that is
not fenced afresh; a start ends once its clock runs, with a tile's store empty; a tile's stop ends once no admitted
context's map has it, or it is fenced (R476, R477, Table 16.6). Shown on a tile for each, with the other functions
named. -/
def Obligations.EnableCommandsComplete : Prop :=
  ∀ (s : State), s.clocked = true →
    (∀ t, t < 256 → s.sec.stage = 9 → s.aon.fence.getLsbD t = false → (s.tile t).en.st = .off →
      ∃ u, exec (.enableRequest (.tile t)) s = .next u ∧ u.tile t = freshTile (s.tile t).en.request ∧
        (∀ v, v ≠ t → u.tile v = s.tile v) ∧ u.pmc.tileEn = s.pmc.tileEn ||| BitVec.ofNat 256 (2 ^ t)) ∧
    (∀ t, t < 256 → ∃ u, exec (.disableRequest (.tile t)) s = .next u ∧
      u.tile t = { s.tile t with en := (s.tile t).en.drop } ∧ (∀ v, v ≠ t → u.tile v = s.tile v) ∧
      u.pmc.tileEn = s.pmc.tileEn &&& ~~~(BitVec.ofNat 256 (2 ^ t))) ∧
    (∀ e p, exec (.enableRequest (.engine e)) s = .next (s.enableEngine e) ∧
      exec (.enableRequest (.port p)) s = .next (s.enablePort p) ∧ exec (.enableRequest .host) s = .next s.enableHost ∧
      exec (.disableRequest (.engine e)) s = .next (s.disableEngine e) ∧
      exec (.disableRequest (.port p)) s = .next (s.disablePort p) ∧
      exec (.disableRequest .host) s = .next s.disableHost ∧ exec (.startEnds (.engine e)) s = .next (s.startEngine e) ∧
      exec (.startEnds (.port p)) s = .next (s.startPort p) ∧ exec (.stopEnds (.port p)) s = .next (s.stopPort p) ∧
      exec (.stopEnds .host) s = .next s.stopHost) ∧
    (∀ t, (s.tile t).en.st = .starting → bit s.pmc.groupPll (groupOf t) = true → (s.tile t).fll = true →
      let s1 := s.setTile t { s.tile t with en := (s.tile t).en.started, store := [], ecc := [], wbacks := []
                                            level := fld (s.tile t).shapeCtl.toNat 8 4 }
      exec (.startEnds (.tile t)) s = .next (s1.ctxs.keys.foldl State.startContext s1)) ∧
    (∀ t, (s.tile t).en.st = .starting → (s.tile t).fll = false → exec (.startEnds (.tile t)) s = .next s) ∧
    (∀ t, (s.tile t).en.st = .stopping →
      (s.aon.fence.getLsbD t = true ∨ ∀ c ∈ s.ctxs.keys, s.isAdmitted c = true → t ∉ (s.ctx c).map) →
      let s1 := (s.uoa t).held.foldl (fun (st : State) y => st.release y) s
      let s2 : State := { s1 with flight := s1.flight.filter fun f => (s.ctx f.ctx).phys f.vt != some t }
      exec (.stopEnds (.tile t)) s =
        .next (((s2.setTile t (freshTile (s.tile t).en.stopped)).setUoa t {}).settleDetours)) ∧
    (∀ c, exec (.startEnds (.context c)) s = .next (s.startContext c) ∧
      exec (.stopEnds (.context c)) s = .next (s.stopContext c)) ∧
    (∀ c, s.isAdmitted c = true → exec (.disableRequest (.context c)) s = .next (s.askEnd c)) ∧
    ∀ t f, t < 256 → f < 4 → s.pmc.deepState ≠ 2 →
      exec (.pllLock (.field f)) s = .next { s with pmc := { s.pmc with fieldPll := setFld s.pmc.fieldPll f 1 1 } } ∧
      (s.groupBusy (groupOf t) = true → exec (.pllLock (.group (groupOf t))) s =
        .next { s with pmc := { s.pmc with groupPll := setFld s.pmc.groupPll (groupOf t) 1 1 } }) ∧
      (bit s.pmc.groupPll (groupOf t) = true → (s.tile t).en.st = .starting →
        exec (.pllLock (.tile t)) s = .next (s.setTile t { s.tile t with fll := true }))

/-- Clocks and sleep: a slower point is taken at once and a faster one after its settling time; a quiet tile stops its
clock, is retained, and wakes in RUN; deep sleep puts the active stacks into self-refresh and stops the PLLs, and its
exit locks the field PLLs (R471 to R475). -/
def Obligations.ClockCommandsComplete : Prop :=
  ∀ (s : State),
    let k := s.pmc
    (s.clocked = true → k.point < k.required → exec .dvfsChange s = .next (s.setPoint k.required)) ∧
    (s.clocked = true → k.required < k.point → k.raising = none → exec .dvfsChange s =
      .next { s with pmc := { k with raising := some k.required, vid := vidCode k.required } }) ∧
    (∀ a, s.clocked = true → k.raising = some a → a < k.required → k.required < k.point → exec .dvfsChange s =
      .next { s with pmc := { k with raising := some k.required, vid := vidCode k.required } }) ∧
    (∀ a, s.clocked = true → k.raising = some a → k.required = k.point → exec .dvfsChange s =
      .next { s with pmc := { k with raising := none, vid := vidCode k.point } }) ∧
    (∀ r, s.clocked = true → k.raising = some r → exec .vrSettleExpire s = .next (s.setPoint r)) ∧
    (k.raising = none → exec .vrSettleExpire s = .next s) ∧
    (∀ p, (s.setPoint p).pmc = { k with point := p, vid := vidCode p, raising := none,
                                        changes := satInc 16 k.changes }) ∧
    (∀ t, (s.tile t).runs = true → s.quiet t = true → exec (.tileClockStop t) s =
      .next (s.setTile t { s.tile t with sub := .clockStopped, fll := false })) ∧
    (∀ t, s.quiet t = false → exec (.tileClockStop t) s = .next s) ∧
    (∀ t, (s.tile t).en.st = .on → (s.tile t).sub = .clockStopped →
      let s1 := s.setTile t { s.tile t with sub := .retained }
      exec (.tileRetain t) s = .next (if s1.groupBusy (groupOf t) then s1
        else { s1 with pmc := { s1.pmc with groupPll := setFld s1.pmc.groupPll (groupOf t) 1 0 } })) ∧
    (∀ t, s.clocked = true → k.deepState ≠ 2 → (s.tile t).en.st = .on → (s.tile t).sub ≠ .run →
      ∃ u, exec (.tileWake t) s = .next u ∧ (u.tile t).sub = .run ∧ (u.tile t).fll = true ∧
        (u.tile t).store = (s.tile t).store ∧ bit u.pmc.groupPll (groupOf t) = true ∧
        ∀ v, v ≠ t → u.tile v = s.tile v) ∧
    (s.clocked = true → s.sec.stage = 9 → k.deep = true → k.deepState < 2 → s.sleepReady = true →
      ∃ u, exec .deepSleepEnter s = .next u ∧ u.pmc = { k with deepState := 2, fieldPll := 0, groupPll := 0 } ∧
        (∀ n x, Tbl.find s.hbm.stackTbl n = some x → x.st = .active → (u.stack n) = { x with st := .selfRefresh }) ∧
        u.hbm.mem = s.hbm.mem) ∧
    (k.deepState = 3 → exec .deepSleepExit s =
      .next { s with pmc := { k with deepState := 0, deep := false, fieldPll := 15 } })

/-- The board's inputs and rails: a level is taken as it changes and accepted later, RESET_N accepted resets the part but
for the fuses, the fences, the always-on pins and what is on its way out; power-on starts the always-on domain; losing
VDD_AON clears the part, and is a breach while another rail is up (R478 to R480, 20 R546 to R549). -/
def Obligations.BoardInputsComplete : Prop :=
  ∀ (s : State),
    let k := s.pmc
    (∀ level, k.aon = true → exec (.boardInputLevelChange false level) s =
      .next { s with pmc := { k with
        thr := { k.thr with level := level }
        thrGlitch := if k.thr.level ≠ level ∧ level = k.thr.accepted then satInc 16 k.thrGlitch else k.thrGlitch } }) ∧
    (∀ level, k.aon = true → exec (.boardInputLevelChange true level) s =
      .next { s with pmc := k.resetGlitch { k with rst := { k.rst with level := level } } }) ∧
    (∀ len, k.aon = true → k.thr.level ≠ k.thr.accepted →
      let n : Pmc := { k with
        thr := { k.thr with accepted := k.thr.level }
        thrTime := if k.thr.level then min (len / 2 ^ 14) (2 ^ 31 - 1) else 0 }
      (k.stopped = false → exec (.throttleNAccept len) s = .next { s with pmc := n }) ∧
      (k.stopped = true → exec (.throttleNAccept len) s =
        .next { s with pmc := { n with vid := vidCode n.required } })) ∧
    (∀ rail, k.aon = true → rail < 6 →
      exec (.undervoltage rail true) s =
        .next { s with pmc := k.resetGlitch { k with low := k.low.filter (· != rail) ++ [rail] } } ∧
      exec (.undervoltage rail false) s =
        .next { s with pmc := k.resetGlitch { k with low := k.low.filter (· != rail) } }) ∧
    (k.aon = true → k.rst.accepted = true → k.resetLevel = false → ∃ t, exec .resetNAssert s = .next t ∧
      t.fuses = s.fuses ∧ t.aon.fence = s.aon.fence ∧ t.aon.expired = s.aon.expired ∧ t.pending = s.pending ∧
      t.pmc.rst.accepted = false ∧ t.pmc.boardLimit = k.boardLimit ∧ t.ctxs = State.reset.ctxs ∧
      t.tiles = State.reset.tiles ∧ t.hbm = State.reset.hbm ∧ t.host = State.reset.host ∧
      t.flight = State.reset.flight ∧ t.sec = State.reset.sec) ∧
    (∀ addr, k.powered = false → exec (.powerOn addr) s = .next { s.dead with pmc := { s.dead.pmc with
      aon := true, powered := true, smbAddr := addr % 4, vid := 0 } }) ∧
    (k.aon = true → (∀ r, r < 6 → r ∈ k.low) → exec .vddAonRemoved s = .next s.dead) ∧
    (k.aon = true → (∃ r, r < 6 ∧ r ∉ k.low) → exec .vddAonRemoved s = .fault .boardBreach) ∧
    s.dead.fuses = s.fuses ∧ s.dead.tiles = [] ∧ s.dead.pmc.aon = false

/-- A thermal sample updates every sensor, the hottest one and both caps, and two samples in a row at 115 °C or above of
one sensor make a trip due; the trip stops every function until power-on (R482 to R484). -/
def Obligations.ThermalCommandsComplete : Prop :=
  ∀ (s : State),
    let k := s.pmc
    (∀ raw stackTemps w10 w1, k.aon = true → k.powered = true →
      let r := (List.range 20).map fun i => (raw[i]?).getD 0 + s.thermOffset i
      let th := capStep k.thermCap k.thermAge k.coolRun (decide (k.lim < (hottest r).1))
        (decide ((hottest r).1 ≤ k.lim - 24))
      let pw := capStep k.pwrCap k.pwrAge k.lowRun (decide (k.peak < w10) || decide (k.sustained < w1))
        (decide (100 * w10 < 95 * k.peak) && decide (100 * w1 < 95 * k.sustained))
      ∃ t, exec (.thermalSample raw stackTemps w10 w1) s = .next t ∧
        (∀ i v, r[i]? = some v → Tbl.find t.pmc.temps i = some (wrapInt 16 v)) ∧
        t.pmc.tmax = min 255 ((hottest r).1 / 8).toNat ∧
        t.pmc.hotNow = ((List.range 20).filter fun i => decide (920 ≤ (r[i]?).getD 0)) ∧
        (t.pmc.tripDue = true ↔ k.tripDue = true ∨ ∃ i ∈ t.pmc.hotNow, i ∈ k.hotNow) ∧
        t.pmc.thermCap = th.1 ∧ t.pmc.pwrCap = pw.1 ∧ t.pmc.pwr10ms = min w10 0xFFFF ∧ t.pmc.pwr1s = min w1 0xFFFF ∧
        ∀ n, n < 12 → (t.stack n).temp = min 255 ((stackTemps[n]?).getD 0)) ∧
    (k.tripDue = true → k.trip = false → ∃ t, exec .thermalTrip s = .next t ∧ t.pmc.trip = true ∧
      t.pmc.stopped = true ∧ t.tiles = [] ∧ t.host.link = false ∧
      ∀ p x, Tbl.find t.fab.ports p = some x → x.up = false ∧ x.en = {}) ∧
    (k.trip = true → exec .thermalTrip s = .next s)

/-! ### The board bus, counters and trace (16_power_clocks R485, 17_counters_trace R502, R504) -/

/-- The SMBus target answers each read with its data and the packet error code, and with nothing while it has no power;
a write whose code checks is taken and any other ignored (R485, 18 R518). A snapshot copies every counter and sets
MANUAL; setting EN of CNT_TRC_CTL starts the trace at the ring's beginning when it did not run (R502, R504). -/
def Obligations.BoardBusAndCountersComplete : Prop :=
  (∀ (s : State),
      let k := s.pmc
      let reads (code : Byte) (data : Bytes) : State :=
        s.emit (.smbus (data ++ [pecOf ([k.smbByte false, code, k.smbByte true] ++ data)]))
      let r := (List.range 20).map fun i => sext 16 (Tbl.get 0 k.temps i)
      (k.answers = true →
        exec .maxTemp s = .next (reads 0x01 (leBytes 2 (wrapInt 16 (hottest r).1))) ∧
        exec .temps s = .next (reads 0x02 (smbBlock (((List.range 20).flatMap fun i => leBytes 2 (Tbl.get 0 k.temps i)) ++
          (List.range 12).flatMap fun i => leBytes 1 (s.stack i).temp))) ∧
        exec .power s = .next (reads 0x03 (leBytes 2 k.pwr10ms)) ∧
        exec .status s = .next (reads 0x04 (smbBlock (leBytes 1 s.sec.stage ++ leBytes 1 k.point ++ leBytes 1 k.causes ++
          leBytes 1 (b2n k.thr.accepted) ++ leBytes 1 (b2n k.trip) ++ leBytes 1 (b2n (k.deepState == 2)) ++
          leBytes 2 0))) ∧
        exec .boardLimitRead s = .next (reads 0x05 (leBytes 2 k.boardLimit)) ∧
        exec .echoRead s = .next (reads 0x06 (smbBlock k.echo)) ∧ exec .step s = .next (reads 0x07 [0x11])) ∧
      (k.answers = false → exec .maxTemp s = .next s ∧ exec .temps s = .next s ∧ exec .power s = .next s ∧
        exec .status s = .next s ∧ exec .boardLimitRead s = .next s ∧ exec .echoRead s = .next s ∧
        exec .step s = .next s) ∧
      (∀ v pec, (k.pecOk 0x05 (leBytes 2 v) pec = true →
          exec (.boardLimitWrite v pec) s = .next { s with pmc := { k with boardLimit := v % 65536 } }) ∧
        (k.pecOk 0x05 (leBytes 2 v) pec = false → exec (.boardLimitWrite v pec) s = .next s)) ∧
      ∀ data pec, 1 ≤ data.length → data.length ≤ 32 →
        (k.pecOk 0x06 (smbBlock data) pec = true →
          exec (.echoWrite data pec) s = .next { s with pmc := { k with echo := data } }) ∧
        (k.pecOk 0x06 (smbBlock data) pec = false → exec (.echoWrite data pec) s = .next s)) ∧
  ∀ (s : State),
    (exec .snapNow s = .next { s.snapshot with cnt := { s.snapshot.cnt with
      ctl := BitVec.ofNat 32 (setFld s.snapshot.cnt.ctl.toNat 23 1 1) } }) ∧
    ∀ v : W64, bit s.cnt.trcCtl.toNat 63 = false →
      ∃ t, exec (.traceEnable v) s = .next t ∧ bit t.cnt.trcCtl.toNat 63 = true ∧ t.cnt.head = 0 ∧ t.cnt.tail = 0 ∧
        { t with cnt := s.cnt } = s

/-- SMBus command ECHO: a block write of 1 to 32 bytes with a packet error code that checks is stored, a block read
returns the bytes last stored and their count, the count is 0 after power-on, and a write whose code does not check
stores nothing (18 R518). -/
def Obligations.EchoStoresAndReturns : Prop :=
  ∀ (s : State),
    let sum (l : Bytes) : Byte := pecOf ([BitVec.ofNat 8 (2 * (0x58 + s.pmc.smbAddr)), 0x06] ++ l)
    (∀ data pec, s.pmc.answers = true → 1 ≤ data.length → data.length ≤ 32 →
      (pec = sum (leBytes 1 data.length ++ data) → ∃ t u, exec (.echoWrite data pec) s = .next t ∧ t.pmc.echo = data ∧
        { t with pmc := s.pmc } = s ∧ { t.pmc with echo := s.pmc.echo } = s.pmc ∧ exec .echoRead t = .next u ∧
        ∃ check, u.out = s.out ++ [.smbus (leBytes 1 data.length ++ data ++ [check])]) ∧
      (pec ≠ sum (leBytes 1 data.length ++ data) → exec (.echoWrite data pec) s = .next s)) ∧
    (s.pmc.answers = true → ∃ t check, exec .echoRead s = .next t ∧
      t = s.emit (.smbus (leBytes 1 s.pmc.echo.length ++ s.pmc.echo ++ [check]))) ∧
    ∀ addr, s.pmc.powered = false → ∃ t, exec (.powerOn addr) s = .next t ∧ t.pmc.echo.length = 0

/-! ### Test and calibration (18_test_calibration) -/

/-- Loop-back runs start by RUN, unless they are refused, and end with the errors that they found, and what they held goes
on: a port starts again
when its enable was asked for, a stack is trained again after a DRAM run and what stands in the stacks left out stays
after any other (R514 to R517). Background calibration: a step of each loop moves it by one, the droop threshold and
the thermal offset toward their aims, unless TST_CAL_CTL freezes it or it may not run, and a droop lengthens the
group's core cycle until it ends (R519 to R523, R528). -/
def Obligations.TestCommandsComplete : Prop :=
  (∀ (s : State),
      (∀ (n : Nat) (v : W64), s.clocked = true →
        exec (.portLoopbackRun n v) s = .next (s.writePortLb n (setFld v.toNat 63 1 1)) ∧
        exec (.hbmLoopbackRun n v) s = .next (s.writeHbmLb n (setFld v.toNat 63 1 1)) ∧
        exec (.meshLoopbackRun v) s = .next (s.writeMeshLb (setFld v.toNat 63 1 1))) ∧
      (∀ n v, n < 25 → s.sec.stage = 9 → bit v 63 = true → (s.lb n).run = false →
        let en := if n = 24 then s.host.en else (s.port n).en
        (s.writePortLb n v).lb n = { s.lb n with depth := fld v 58 2, dur := fld v 53 5, run := true, done := false,
                                                 want := en.wants, waits := en.st != .off, runDepth := fld v 58 2 }) ∧
      (∀ k v, k < 12 → bit v 63 = true → (s.hbmLb k).run = false →
        ((bit s.hbm.layout.toNat (25 + k) = true ∨ (s.stack k).st = .lost) →
          s.writeHbmLb k v = s.setHbmLb k { s.hbmLb k with depth := fld v 59 2, refused := true }) ∧
        (bit s.hbm.layout.toNat (25 + k) = false → (s.stack k).st ≠ .lost →
          ((s.writeHbmLb k v).hbmLb k).run = true ∧ (fld v 59 2 ≠ 3 → (s.stack k).st = .active →
            ((s.writeHbmLb k v).stack k).st = .selfRefresh))) ∧
      (∀ v, bit v 63 = true → s.tst.mesh.run = false → (s.writeMeshLb v).tst.mesh.run =
        (s.loopTile (fld v 40 8) && s.loopTile (fld v 32 8))) ∧
      (∀ n errors, (s.lb n).run = true → (s.lb n).waits = false →
        let l := s.lb n
        let s1 := s.setLb n { l with run := false, done := true, want := false,
                                     errors := if l.runDepth = 3 then 0 else min errors (2 ^ 32 - 1) }
        (l.want = false → exec (.portLoopbackEnd n errors) s = .next s1) ∧
        (l.want = true → n = 24 → exec (.portLoopbackEnd n errors) s = .next (s1.startHost { st := .starting })) ∧
        (l.want = true → n ≠ 24 → exec (.portLoopbackEnd n errors) s =
          .next (s1.setPort n (s1.freshPort n { st := .starting })))) ∧
      (∀ k errors, (s.hbmLb k).run = true → ∃ t, exec (.hbmLoopbackEnd k errors) s = .next t ∧
        t.hbmLb k = { s.hbmLb k with run := false, done := true, errors := min errors (2 ^ 32 - 1) } ∧
        ((s.hbmLb k).runDepth = 3 → t.stack k = { s.stack k with st := .training }) ∧ t.hbm.mem = s.hbm.mem ∧
        ((s.hbmLb k).runDepth ≠ 3 → t.hbm.aside = s.hbm.aside)) ∧
      ∀ corr errors, (s.tst.mesh.run = true → exec (.meshLoopbackEnd corr errors) s = .next { s with tst := { s.tst with
          mesh := { s.tst.mesh with run := false, done := true, corr := min corr 0xFFFF, errors := min errors 0xFFFF } } }) ∧
        (s.tst.mesh.run = false → exec (.meshLoopbackEnd corr errors) s = .next s)) ∧
  ∀ (s : State),
    (∀ k pc byte up margin at_, s.tst.frozen 0 = false → k < 12 → (s.stack k).st = .active → byte < 32 → pc < 32 →
      ∃ t, exec (.hbmReadEyeStep k pc byte up margin at_) s = .next t ∧
        Tbl.get 0 t.tst.delays (1024 * k + 32 * pc + byte) =
          Tbl.get 0 s.tst.delays (1024 * k + 32 * pc + byte) + (if up then 1 else -1) ∧
        (∀ i, i ≠ 1024 * k + 32 * pc + byte → Tbl.get 0 t.tst.delays i = Tbl.get 0 s.tst.delays i) ∧
        { t with tst := s.tst } = s) ∧
    (∀ n lane setting eye conv, s.tst.frozen 1 = false → lane < 4 → s.adapts n = true →
      ∃ t, exec (.serdesAdaptStep n lane setting eye conv) s = .next t ∧
        Tbl.find t.tst.adapt (4 * n + lane) = some setting ∧ { t with tst := s.tst } = s) ∧
    (∀ g code, s.tst.frozen 2 = false → g < 16 → s.calmGroup g = true → code < 256 →
      ((s.droop g).thresh < code → exec (.droopThresholdStep g code false) s =
        .next (s.setDroop g { s.droop g with thresh := (s.droop g).thresh + 1 })) ∧
      (code < (s.droop g).thresh → exec (.droopThresholdStep g code false) s =
        .next (s.setDroop g { s.droop g with thresh := (s.droop g).thresh - 1 })) ∧
      exec (.droopThresholdStep g code true) s = .next (s.setDroop g { s.droop g with thresh := code })) ∧
    (∀ g, g < 16 →
      exec (.droopEvent g) s = .next (s.setDroop g { s.droop g with
        events := satInc 16 (s.droop g).events, long := true }) ∧
      exec (.droopEnd g) s = .next (s.setDroop g { s.droop g with long := false })) ∧
    (∀ k diff, s.tst.frozen 3 = false → k < 20 → ∃ t y, exec (.thermalOffsetStep k diff) s = .next t ∧
      t = { s with tst := { s.tst with therm := Tbl.set s.tst.therm k y } } ∧
      (y.fault = true ↔ 32 < diff ∨ diff < -32) ∧
      let o := (Tbl.get ({} : Therm) s.tst.therm k).offset
      let aim := max (-32) (min 32 diff)
      y.offset = if o < aim then o + 1 else if aim < o then o - 1 else o) ∧
    (∀ k diff, s.tst.frozen 3 = true → exec (.thermalOffsetStep k diff) s = .next s) ∧
    ∀ v : W32, exec (.calFreezeWrite v) s = .next { s with tst := { s.tst with calCtl := v &&& 0xF } }

/-- The JTAG port: an instruction is selected, and the ones that hold the lands reset the part; IDCODE shifts out the
part's code; MBIST, SCAN and FUSE_PROG work on a BLANK part and are BYPASS on any other; a read of the configuration
space shifts out the register's 64 bits; TRST_N selects IDCODE and nothing else (R524, R525). What is shifted from the
boundary register and at a misaligned address is a free value (log 60, log 61), and the state of a captured BYPASS is the
model's choice (log 60). -/
def Obligations.TestPortCompletes : Prop :=
  ∀ (s : State), s.tapOn = true →
    exec .idcode s = .next ((s.selectIr 0x01).emit (.jtag 32 0x1C351553)) ∧
    (∀ code, jtagCodes.contains (code % 256) = false → exec (.bypass code) s = .next (s.bypass (code % 256))) ∧
    exec .samplePreload s = .next (s.selectIr 0x02).shiftFree ∧
    exec .extest s = .next (s.hold 0x03).shiftFree ∧
    exec .clamp s = .next ((s.hold 0x04).emit (.jtag 1 0)) ∧ exec .highz s = .next ((s.hold 0x05).emit (.jtag 1 0)) ∧
    exec .extestPulse s = .next (s.hold 0x06).shiftFree ∧ exec .extestTrain s = .next (s.hold 0x07).shiftFree ∧
    (s.fuses.lifecycle = 0 →
      exec .mbist s = .next (s.selectIr 0x20).shiftFree ∧ exec .scan s = .next (s.selectIr 0x21).shiftFree ∧
      ∀ w, ∃ t, exec (.fuseProg w) s = .next t ∧ t.fuses = s.fuses.blow w ∧
        { t with fuses := (s.selectIr 0x22).fuses } = s.selectIr 0x22) ∧
    (s.fuses.lifecycle ≠ 0 →
      exec .mbist s = .next (s.bypass 0x20) ∧ exec .scan s = .next (s.bypass 0x21) ∧
      (∀ w, exec (.fuseProg w) s = .next (s.bypass 0x22)) ∧ (s.bypass 0x22).fuses = s.fuses) ∧
    (∀ addr, addr < 2 ^ 26 → addr % 8 = 0 →
      let r := (s.selectIr 0x10).cfgRead (fun _ _ => false) addr 8
      exec (.jtagCfgRead addr) s = .next (r.s.emit (.jtag 64 r.val))) ∧
    (∀ addr, addr < 2 ^ 26 → addr % 8 ≠ 0 → ∃ v, v < 2 ^ 64 ∧ exec (.jtagCfgRead addr) s =
      .next (State.emit { s.selectIr 0x10 with free := s.free + 1 } (.jtag 64 v))) ∧
    exec .trstN s = .next (s.selectIr 0x01)

/-! ### The configuration space (19_config_space R13 to R17) -/

/-- A register write of the core at an address of its width acts on the register there, in the part that the access
covers, and an address of no register, a misaligned one and one beyond the space change nothing (R13, R15). -/
def Obligations.RegisterWritesComplete : Prop :=
  ∀ (s : State) (addr : Nat) (v : W64),
    (∀ r o, s.clocked = true → addr % 8 = 0 → addr + 8 ≤ 2 ^ 26 → s.regOf addr = some (r, o) → r.bytes = 8 →
      exec (.registerWrite addr true v) s = .next (s.writePart r (8 * o) 64 v.toNat)) ∧
    (∀ r o, s.clocked = true → addr % 4 = 0 → addr + 4 ≤ 2 ^ 26 → s.regOf addr = some (r, o) → r.bytes = 8 →
      exec (.registerWrite addr false v) s = .next (s.writePart r (8 * o) 32 (v.toNat % 2 ^ 32))) ∧
    (∀ r o, s.clocked = true → addr % 4 = 0 → addr + 4 ≤ 2 ^ 26 → s.regOf addr = some (r, o) → r.bytes ≠ 8 →
      exec (.registerWrite addr false v) s = .next (s.writePart r 0 32 (v.toNat % 2 ^ 32))) ∧
    (s.clocked = true → addr % 4 = 0 → addr + 4 ≤ 2 ^ 26 → s.regOf addr = none →
      exec (.registerWrite addr false v) s = .next s) ∧
    ∀ wide : Bool, let width := if wide then 8 else 4
      addr % width ≠ 0 ∨ 2 ^ 26 < addr + width ∨ s.clocked = false →
        exec (.registerWrite addr wide v) s = .next s

/-! ### Reset and the invariants (15_boot_security R451, R460; 16_power_clocks R480) -/

/-- The part right after reset: every tile, engine and port is OFF, no context is admitted, the boot is at RESET, and
the registers hold the reset values that their rules give (R109, R295, R298, R359, R360, R386, R421 to R423, R446,
R486, R489, R490, R493); the fuses hold legal values, and every memory is in its canonical form. -/
def Obligations.ResetLeavesTheReset : Prop :=
  let s := State.reset
  s.sec.stage = 0 ∧ s.pending = [] ∧ s.flight = [] ∧ s.sigs = [] ∧
  (∀ t, (s.tile t).en.st = .off ∧ (s.tile t).resident = none ∧ (s.tile t).storeCtl = 0x10A ∧
    ∀ a, memRead (s.tile t).store a = 0) ∧
  (∀ e, (s.engine e).en.st = .off ∧ (s.engine e).ctl = 0x2000) ∧
  (∀ p, (s.port p).en.st = .off ∧ (s.port p).up = false ∧ (s.port p).peer = 0xFFFF) ∧
  (∀ c, s.isAdmitted c = false) ∧ (∀ k, (s.stack k).st = .training) ∧
  s.fab.id = 0xFFFF0000 ∧ s.fab.ctl = 0x88B50001 ∧ s.hbm.ctl = 0x0010010C ∧ s.hbm.layout = 0x1FFF0C388D ∧
  s.ctxBlk.ctl = 0x00171000 ∧ s.aon.recCtl = 0x05EC4400 ∧ s.aon.wdExp = 0x16 ∧ s.aon.wdEn = false ∧ s.aon.fence = 0 ∧
  s.host.ctl = 0x6E63000007AE0300 ∧ s.pmc.dvfsCtl = 0x13880030 ∧ s.pmc.sleepCtl = 0x00110C00 ∧
  s.pmc.tileEn = BitVec.allOnes 256 ∧ s.pmc.engEn = 0xFFFF ∧ s.pmc.limitCtl = 0x0E100BB800000064 ∧
  s.pmc.trip = false ∧ s.cnt.trcCtl = 0x0000FF0000000000 ∧ s.fuses.legal ∧ s.memsWf

/-- Every step keeps the fuses legal and only ever adds to them: no command, no reset and no loss of power clears a fuse,
lowers the security version or changes the hash of a valid entry (R460, Table 15.6). -/
def Obligations.StepKeepsFuses : Prop :=
  ∀ s t : State, s.fuses.legal → Machine.step s = .next t → t.fuses.legal ∧ s.fuses.grow t.fuses
end

