-- ==== Sys2Proof/Laws/Memory.lean ====
section
/-! SUPPORT. What the memory operations do: a write shows in reads of its bytes and in no others, and keeps the
canonical form. -/

namespace Sys2Proof.Machine

theorem memRead_append (m n : Mem) (a : Nat) :
    memRead (m ++ n) a = if m.any (fun c => c.1 == a) then memRead m a else memRead n a := by
  induction m with
  | nil => simp
  | cons c m ih =>
    simp only [List.cons_append, memRead, List.any_cons, ih]
    by_cases h : a = c.1
    · subst h; simp
    · have : (c.1 == a) = false := by simp [Ne.symm h]
      simp [h, this]

theorem memRead_absent (m : Mem) (a : Nat) (h : m.any (fun c => c.1 == a) = false) :
    memRead m a = memDefault := by
  induction m with
  | nil => rfl
  | cons c m ih =>
    simp only [List.any_cons, Bool.or_eq_false_iff, beq_eq_false_iff_ne] at h
    simp [memRead, Ne.symm h.1, ih h.2]

/-- Cells dropped elsewhere leave the reading of an address that is kept. -/
theorem memRead_filter (m : Mem) (p : Nat → Bool) (a : Nat) (h : p a = true) :
    memRead (m.filter fun c => p c.1) a = memRead m a := by
  induction m with
  | nil => rfl
  | cons c m ih =>
    by_cases hc : p c.1 = true
    · simp [hc, memRead, ih]
    · have : a ≠ c.1 := by intro e; subst e; exact hc h
      simp [hc, memRead, this, ih]

theorem memRead_filter_out (m : Mem) (p : Nat → Bool) (a : Nat) (h : p a = false) :
    (m.filter fun c => p c.1).any (fun c => c.1 == a) = false := by
  rw [List.any_eq_false]
  intro c hc
  have := (List.mem_filter.mp hc).2
  intro e
  have e' : c.1 = a := by simpa using e
  simp [e', h] at this

theorem memRead_cells (a : Nat) (bs : Bytes) (x : Nat) :
    memRead (cellsFrom a bs) x = if a ≤ x then (bs[x - a]?).getD memDefault else memDefault := by
  induction bs generalizing a with
  | nil => simp [cellsFrom, memRead]
  | cons b bs ih =>
    have step : memRead (cellsFrom (a + 1) bs) x =
        if a + 1 ≤ x then (bs[x - (a + 1)]?).getD memDefault else memDefault := ih (a + 1)
    simp only [cellsFrom]
    by_cases hx : x = a
    · subst hx
      split
      · rename_i hb
        have : ¬ x + 1 ≤ x := by omega
        simp [step, hb, this]
      · simp [memRead]
    · by_cases hl : a ≤ x
      · have h1 : a + 1 ≤ x := by omega
        have h2 : x - a = (x - (a + 1)) + 1 := by omega
        split <;> simp [memRead, hx, step, h1, h2]
      · have h1 : ¬ a + 1 ≤ x := by omega
        split <;> simp [memRead, hx, step, h1]

/-- A byte read after a write: one of the bytes written, or what was there before. -/
theorem memRead_memWriteBytes (m : Mem) (a : Nat) (bs : Bytes) (x : Nat) :
    memRead (memWriteBytes m a bs) x =
      if a ≤ x ∧ x < a + bs.length then (bs[x - a]?).getD memDefault else memRead m x := by
  have outL := memRead_filter_out m (fun n => decide (n < a)) x
  have outR := memRead_filter_out m (fun n => decide (a + bs.length ≤ n)) x
  have inL := memRead_filter m (fun n => decide (n < a)) x
  have inR := memRead_filter m (fun n => decide (a + bs.length ≤ n)) x
  simp only [memWriteBytes, memRead_append, List.any_append]
  by_cases h1 : a ≤ x
  · have hL := outL (by simp [h1])
    simp only [hL, Bool.false_or]
    by_cases h2 : x < a + bs.length
    · have hR := outR (by simp [h2])
      simp only [h1, h2, and_self, if_true]
      split
      · simp [memRead_cells, h1]
      · rename_i hc
        rw [memRead_absent _ _ hR]
        have := memRead_cells a bs x
        rw [memRead_absent _ _ (eq_false_of_ne_true hc)] at this
        simpa [h1] using this
    · simp only [h1, h2, and_false, if_false]
      split
      · rename_i hc
        exfalso
        have key : ∀ (bs : Bytes) (b : Nat) (c : Host.Cell), c ∈ cellsFrom b bs → c.1 < b + bs.length := by
          intro bs
          induction bs with
          | nil => intro b c h; simp [cellsFrom] at h
          | cons y ys ih =>
            intro b c h
            simp only [cellsFrom] at h
            split at h
            · have := ih (b + 1) c h; simp; omega
            · cases List.mem_cons.mp h with
              | inl e => subst e; simp
              | inr e => have := ih (b + 1) c e; simp; omega
        obtain ⟨c, hm, he⟩ := List.any_eq_true.mp hc
        have e' : c.1 = x := by simpa using he
        have := key bs a c hm
        omega
      · exact inR (by simp; omega)
  · have hL := inL (by simp; omega)
    simp only [h1, false_and, if_false]
    split
    · rename_i hc
      split
      · exact hL
      · rename_i hcl
        have hcl' : (m.filter fun c => decide (c.1 < a)).any (fun c => c.1 == x) = false :=
          eq_false_of_ne_true hcl
        rw [hcl'] at hc
        simp only [Bool.false_or] at hc
        exfalso
        have key : ∀ (bs : Bytes) (b : Nat) (c : Host.Cell), c ∈ cellsFrom b bs → b ≤ c.1 := by
          intro bs
          induction bs with
          | nil => intro b c h; simp [cellsFrom] at h
          | cons y ys ih =>
            intro b c h
            simp only [cellsFrom] at h
            split at h
            · have := ih (b + 1) c h; omega
            · cases List.mem_cons.mp h with
              | inl e => subst e; simp
              | inr e => have := ih (b + 1) c e; omega
        obtain ⟨c, hm, he⟩ := List.any_eq_true.mp hc
        have e' : c.1 = x := by simpa using he
        have := key bs a c hm
        omega
    · rename_i hc
      have hc' : ((m.filter fun c => decide (c.1 < a)).any (fun c => c.1 == x)) = false := by
        cases hq : (m.filter fun c => decide (c.1 < a)).any (fun c => c.1 == x) with
        | false => rfl
        | true => rw [hq] at hc; simp at hc
      rw [← hL, memRead_absent _ _ hc', memRead_absent _ _ (outR (by simp; omega))]

/-- The bytes of a read, one by one. -/
theorem memReadBytes_get (m : Mem) (a n i : Nat) (h : i < n) : (memReadBytes m a n)[i]? = some (memRead m (a + i)) := by
  have := memRead_filter m (fun x => decide (a ≤ x) && decide (x < a + n)) (a + i) (by simp [h])
  simp [memReadBytes, h, this]

@[simp] theorem memReadBytes_length (m : Mem) (a n : Nat) : (memReadBytes m a n).length = n := by
  simp [memReadBytes]

/-! ### The canonical form -/

/-- The canonical form as a statement about all cells: rising addresses, and no cell equal to the default. -/
theorem memWf_iff (m : Mem) :
    memWf m = true ↔ m.Pairwise (fun c d => c.1 < d.1) ∧ ∀ c ∈ m, c.2 ≠ memDefault := by
  induction m with
  | nil => simp [memWf]
  | cons c m ih =>
    cases m with
    | nil => simp [memWf]
    | cons d t =>
      simp only [memWf, Bool.and_eq_true, bne_iff_ne, decide_eq_true_eq, ih]
      constructor
      · rintro ⟨⟨h1, h2⟩, h3, h4⟩
        refine ⟨List.pairwise_cons.mpr ⟨?_, h3⟩, ?_⟩
        · intro e he
          cases List.mem_cons.mp he with
          | inl q => subst q; exact h2
          | inr q => have := (List.pairwise_cons.mp h3).1 e q; omega
        · intro e he
          cases List.mem_cons.mp he with
          | inl q => subst q; exact h1
          | inr q => exact h4 e q
      · rintro ⟨h1, h2⟩
        have hp := List.pairwise_cons.mp h1
        exact ⟨⟨h2 c (by simp), hp.1 d (by simp)⟩, hp.2, fun e he => h2 e (by simp [he])⟩

theorem cellsFrom_wf (a : Nat) (bs : Bytes) :
    (cellsFrom a bs).Pairwise (fun c d => c.1 < d.1) ∧
      ∀ c ∈ cellsFrom a bs, c.2 ≠ memDefault ∧ a ≤ c.1 ∧ c.1 < a + bs.length := by
  induction bs generalizing a with
  | nil => simp [cellsFrom]
  | cons b bs ih =>
    have h := ih (a + 1)
    simp only [cellsFrom]
    split
    · refine ⟨h.1, fun c hc => ?_⟩
      have := h.2 c hc
      simp; refine ⟨this.1, ?_, ?_⟩ <;> omega
    · rename_i hb
      refine ⟨List.pairwise_cons.mpr ⟨fun c hc => ?_, h.1⟩, fun c hc => ?_⟩
      · have := h.2 c hc; simp; omega
      · cases List.mem_cons.mp hc with
        | inl e => subst e; simp [hb]
        | inr e => have := h.2 c e; simp; refine ⟨this.1, ?_, ?_⟩ <;> omega

/-- A write keeps the canonical form. -/
theorem memWriteBytes_wf (m : Mem) (a : Nat) (bs : Bytes) (h : memWf m = true) :
    memWf (memWriteBytes m a bs) = true := by
  rw [memWf_iff] at h ⊢
  have hc := cellsFrom_wf a bs
  refine ⟨?_, ?_⟩
  · simp only [memWriteBytes, List.pairwise_append, List.mem_append, List.mem_filter, decide_eq_true_eq]
    refine ⟨⟨h.1.filter _, hc.1, fun c hx d hd => ?_⟩, h.1.filter _, fun c hx d hd => ?_⟩
    · have := (hc.2 d hd).2.1; omega
    · cases hx with
      | inl q => omega
      | inr q => have := (hc.2 c q).2.2; omega
  · intro c hx
    simp only [memWriteBytes, List.mem_append, List.mem_filter] at hx
    rcases hx with (q | q) | q
    · exact h.2 c q.1
    · exact (hc.2 c q).1
    · exact h.2 c q.1

/-- A byte written keeps the canonical form. -/
theorem memWrite_wf (m : Mem) (a : Nat) (b : Byte) (h : memWf m = true) : memWf (memWrite m a b) = true :=
  memWriteBytes_wf m a [b] h

end Sys2Proof.Machine
end

