-- ==== Sys2Proof/Laws/Tbl.lean ====
section
/-! SUPPORT. What the operations on tables do. -/

namespace Sys2Proof.Machine

theorem Tbl.find_set {α : Type} (t : Tbl α) (k j : Nat) (v : α) :
    Tbl.find (Tbl.set t k v) j = if j = k then some v else Tbl.find t j := by
  induction t with
  | nil => simp [Tbl.set, Tbl.find]
  | cons e t ih =>
    obtain ⟨i, w⟩ := e
    simp only [Tbl.set]
    split
    · simp [Tbl.find]
    · split
      · rename_i _ h; subst h; simp [Tbl.find]; split <;> rfl
      · rename_i h; simp only [Tbl.find, ih]
        by_cases hj : j = i
        · subst hj; simp [Ne.symm h]
        · simp [hj]

/-- A key that is set reads as its value, every other key as before. -/
theorem Tbl.get_set {α : Type} (d : α) (t : Tbl α) (k j : Nat) (v : α) :
    Tbl.get d (Tbl.set t k v) j = if j = k then v else Tbl.get d t j := by
  simp only [Tbl.get, Tbl.find_set]; split <;> rfl

@[simp] theorem Tbl.get_set_self {α : Type} (d : α) (t : Tbl α) (k : Nat) (v : α) :
    Tbl.get d (Tbl.set t k v) k = v := by simp [Tbl.get_set]

@[simp] theorem Tbl.get_set_ne {α : Type} (d : α) (t : Tbl α) {k j : Nat} (v : α) (h : j ≠ k) :
    Tbl.get d (Tbl.set t k v) j = Tbl.get d t j := by simp [Tbl.get_set, h]

/-- Setting a key twice keeps the second value alone. -/
@[simp] theorem Tbl.set_set {α : Type} (t : Tbl α) (k : Nat) (v w : α) :
    Tbl.set (Tbl.set t k v) k w = Tbl.set t k w := by
  induction t with
  | nil => simp [Tbl.set]
  | cons e t ih =>
    obtain ⟨i, x⟩ := e
    simp only [Tbl.set]
    split
    · simp [Tbl.set]
    · split
      · simp [Tbl.set]
      · rename_i h1 h2; simp [Tbl.set, h1, h2, ih]

@[simp] theorem Tbl.get_nil {α : Type} (d : α) (k : Nat) : Tbl.get d [] k = d := rfl

theorem Tbl.find_mapv {α : Type} (f : Nat → α → α) (t : Tbl α) (k : Nat) :
    Tbl.find (t.mapv f) k = (Tbl.find t k).map (f k) := by
  induction t with
  | nil => rfl
  | cons e t ih =>
    obtain ⟨i, w⟩ := e
    simp only [Tbl.mapv, List.map_cons, Tbl.find]
    split
    · rename_i h; subst h; rfl
    · exact ih

end Sys2Proof.Machine
end

