-- ==== Sys2Proof/Laws/State.lean ====
section
/-! SUPPORT. The state's accessors and updates: what an update leaves as it is, field by field, and what it shows. -/

namespace Sys2Proof.Machine

variable (s : State)

/-! ### `setTile` -/

@[simp] theorem State.setTile_pending (t : Nat) (x : Tile) : (s.setTile t x).pending = s.pending := rfl
@[simp] theorem State.setTile_tctx (t : Nat) (x : Tile) : (s.setTile t x).tctx = s.tctx := rfl
@[simp] theorem State.setTile_flight (t : Nat) (x : Tile) : (s.setTile t x).flight = s.flight := rfl
@[simp] theorem State.setTile_sigs (t : Nat) (x : Tile) : (s.setTile t x).sigs = s.sigs := rfl
@[simp] theorem State.setTile_uoas (t : Nat) (x : Tile) : (s.setTile t x).uoas = s.uoas := rfl
@[simp] theorem State.setTile_uoaDev (t : Nat) (x : Tile) : (s.setTile t x).uoaDev = s.uoaDev := rfl
@[simp] theorem State.setTile_ctxs (t : Nat) (x : Tile) : (s.setTile t x).ctxs = s.ctxs := rfl
@[simp] theorem State.setTile_engines (t : Nat) (x : Tile) : (s.setTile t x).engines = s.engines := rfl
@[simp] theorem State.setTile_installs (t : Nat) (x : Tile) : (s.setTile t x).installs = s.installs := rfl
@[simp] theorem State.setTile_foldLog (t : Nat) (x : Tile) : (s.setTile t x).foldLog = s.foldLog := rfl
@[simp] theorem State.setTile_fab (t : Nat) (x : Tile) : (s.setTile t x).fab = s.fab := rfl
@[simp] theorem State.setTile_remotes (t : Nat) (x : Tile) : (s.setTile t x).remotes = s.remotes := rfl
@[simp] theorem State.setTile_nextTag (t : Nat) (x : Tile) : (s.setTile t x).nextTag = s.nextTag := rfl
@[simp] theorem State.setTile_hbm (t : Nat) (x : Tile) : (s.setTile t x).hbm = s.hbm := rfl
@[simp] theorem State.setTile_cnt (t : Nat) (x : Tile) : (s.setTile t x).cnt = s.cnt := rfl
@[simp] theorem State.setTile_host (t : Nat) (x : Tile) : (s.setTile t x).host = s.host := rfl
@[simp] theorem State.setTile_ctxBlk (t : Nat) (x : Tile) : (s.setTile t x).ctxBlk = s.ctxBlk := rfl
@[simp] theorem State.setTile_aon (t : Nat) (x : Tile) : (s.setTile t x).aon = s.aon := rfl
@[simp] theorem State.setTile_fuses (t : Nat) (x : Tile) : (s.setTile t x).fuses = s.fuses := rfl
@[simp] theorem State.setTile_sec (t : Nat) (x : Tile) : (s.setTile t x).sec = s.sec := rfl
@[simp] theorem State.setTile_pmc (t : Nat) (x : Tile) : (s.setTile t x).pmc = s.pmc := rfl
@[simp] theorem State.setTile_tst (t : Nat) (x : Tile) : (s.setTile t x).tst = s.tst := rfl
@[simp] theorem State.setTile_out (t : Nat) (x : Tile) : (s.setTile t x).out = s.out := rfl
@[simp] theorem State.setTile_free (t : Nat) (x : Tile) : (s.setTile t x).free = s.free := rfl

/-! ### `setTc` -/

@[simp] theorem State.setTc_pending (c v : Nat) (x : TileCtx) : (s.setTc c v x).pending = s.pending := rfl
@[simp] theorem State.setTc_tiles (c v : Nat) (x : TileCtx) : (s.setTc c v x).tiles = s.tiles := rfl
@[simp] theorem State.setTc_flight (c v : Nat) (x : TileCtx) : (s.setTc c v x).flight = s.flight := rfl
@[simp] theorem State.setTc_sigs (c v : Nat) (x : TileCtx) : (s.setTc c v x).sigs = s.sigs := rfl
@[simp] theorem State.setTc_uoas (c v : Nat) (x : TileCtx) : (s.setTc c v x).uoas = s.uoas := rfl
@[simp] theorem State.setTc_uoaDev (c v : Nat) (x : TileCtx) : (s.setTc c v x).uoaDev = s.uoaDev := rfl
@[simp] theorem State.setTc_ctxs (c v : Nat) (x : TileCtx) : (s.setTc c v x).ctxs = s.ctxs := rfl
@[simp] theorem State.setTc_engines (c v : Nat) (x : TileCtx) : (s.setTc c v x).engines = s.engines := rfl
@[simp] theorem State.setTc_installs (c v : Nat) (x : TileCtx) : (s.setTc c v x).installs = s.installs := rfl
@[simp] theorem State.setTc_foldLog (c v : Nat) (x : TileCtx) : (s.setTc c v x).foldLog = s.foldLog := rfl
@[simp] theorem State.setTc_fab (c v : Nat) (x : TileCtx) : (s.setTc c v x).fab = s.fab := rfl
@[simp] theorem State.setTc_remotes (c v : Nat) (x : TileCtx) : (s.setTc c v x).remotes = s.remotes := rfl
@[simp] theorem State.setTc_nextTag (c v : Nat) (x : TileCtx) : (s.setTc c v x).nextTag = s.nextTag := rfl
@[simp] theorem State.setTc_hbm (c v : Nat) (x : TileCtx) : (s.setTc c v x).hbm = s.hbm := rfl
@[simp] theorem State.setTc_cnt (c v : Nat) (x : TileCtx) : (s.setTc c v x).cnt = s.cnt := rfl
@[simp] theorem State.setTc_host (c v : Nat) (x : TileCtx) : (s.setTc c v x).host = s.host := rfl
@[simp] theorem State.setTc_ctxBlk (c v : Nat) (x : TileCtx) : (s.setTc c v x).ctxBlk = s.ctxBlk := rfl
@[simp] theorem State.setTc_aon (c v : Nat) (x : TileCtx) : (s.setTc c v x).aon = s.aon := rfl
@[simp] theorem State.setTc_fuses (c v : Nat) (x : TileCtx) : (s.setTc c v x).fuses = s.fuses := rfl
@[simp] theorem State.setTc_sec (c v : Nat) (x : TileCtx) : (s.setTc c v x).sec = s.sec := rfl
@[simp] theorem State.setTc_pmc (c v : Nat) (x : TileCtx) : (s.setTc c v x).pmc = s.pmc := rfl
@[simp] theorem State.setTc_tst (c v : Nat) (x : TileCtx) : (s.setTc c v x).tst = s.tst := rfl
@[simp] theorem State.setTc_out (c v : Nat) (x : TileCtx) : (s.setTc c v x).out = s.out := rfl
@[simp] theorem State.setTc_free (c v : Nat) (x : TileCtx) : (s.setTc c v x).free = s.free := rfl

/-! ### `setCtx` -/

@[simp] theorem State.setCtx_pending (c : Nat) (x : Ctx) : (s.setCtx c x).pending = s.pending := rfl
@[simp] theorem State.setCtx_tiles (c : Nat) (x : Ctx) : (s.setCtx c x).tiles = s.tiles := rfl
@[simp] theorem State.setCtx_tctx (c : Nat) (x : Ctx) : (s.setCtx c x).tctx = s.tctx := rfl
@[simp] theorem State.setCtx_flight (c : Nat) (x : Ctx) : (s.setCtx c x).flight = s.flight := rfl
@[simp] theorem State.setCtx_sigs (c : Nat) (x : Ctx) : (s.setCtx c x).sigs = s.sigs := rfl
@[simp] theorem State.setCtx_uoas (c : Nat) (x : Ctx) : (s.setCtx c x).uoas = s.uoas := rfl
@[simp] theorem State.setCtx_uoaDev (c : Nat) (x : Ctx) : (s.setCtx c x).uoaDev = s.uoaDev := rfl
@[simp] theorem State.setCtx_engines (c : Nat) (x : Ctx) : (s.setCtx c x).engines = s.engines := rfl
@[simp] theorem State.setCtx_installs (c : Nat) (x : Ctx) : (s.setCtx c x).installs = s.installs := rfl
@[simp] theorem State.setCtx_foldLog (c : Nat) (x : Ctx) : (s.setCtx c x).foldLog = s.foldLog := rfl
@[simp] theorem State.setCtx_fab (c : Nat) (x : Ctx) : (s.setCtx c x).fab = s.fab := rfl
@[simp] theorem State.setCtx_remotes (c : Nat) (x : Ctx) : (s.setCtx c x).remotes = s.remotes := rfl
@[simp] theorem State.setCtx_nextTag (c : Nat) (x : Ctx) : (s.setCtx c x).nextTag = s.nextTag := rfl
@[simp] theorem State.setCtx_hbm (c : Nat) (x : Ctx) : (s.setCtx c x).hbm = s.hbm := rfl
@[simp] theorem State.setCtx_cnt (c : Nat) (x : Ctx) : (s.setCtx c x).cnt = s.cnt := rfl
@[simp] theorem State.setCtx_host (c : Nat) (x : Ctx) : (s.setCtx c x).host = s.host := rfl
@[simp] theorem State.setCtx_ctxBlk (c : Nat) (x : Ctx) : (s.setCtx c x).ctxBlk = s.ctxBlk := rfl
@[simp] theorem State.setCtx_aon (c : Nat) (x : Ctx) : (s.setCtx c x).aon = s.aon := rfl
@[simp] theorem State.setCtx_fuses (c : Nat) (x : Ctx) : (s.setCtx c x).fuses = s.fuses := rfl
@[simp] theorem State.setCtx_sec (c : Nat) (x : Ctx) : (s.setCtx c x).sec = s.sec := rfl
@[simp] theorem State.setCtx_pmc (c : Nat) (x : Ctx) : (s.setCtx c x).pmc = s.pmc := rfl
@[simp] theorem State.setCtx_tst (c : Nat) (x : Ctx) : (s.setCtx c x).tst = s.tst := rfl
@[simp] theorem State.setCtx_out (c : Nat) (x : Ctx) : (s.setCtx c x).out = s.out := rfl
@[simp] theorem State.setCtx_free (c : Nat) (x : Ctx) : (s.setCtx c x).free = s.free := rfl

/-! ### `setUoa` -/

@[simp] theorem State.setUoa_pending (t : Nat) (x : Uoa) : (s.setUoa t x).pending = s.pending := rfl
@[simp] theorem State.setUoa_tiles (t : Nat) (x : Uoa) : (s.setUoa t x).tiles = s.tiles := rfl
@[simp] theorem State.setUoa_tctx (t : Nat) (x : Uoa) : (s.setUoa t x).tctx = s.tctx := rfl
@[simp] theorem State.setUoa_flight (t : Nat) (x : Uoa) : (s.setUoa t x).flight = s.flight := rfl
@[simp] theorem State.setUoa_sigs (t : Nat) (x : Uoa) : (s.setUoa t x).sigs = s.sigs := rfl
@[simp] theorem State.setUoa_uoaDev (t : Nat) (x : Uoa) : (s.setUoa t x).uoaDev = s.uoaDev := rfl
@[simp] theorem State.setUoa_ctxs (t : Nat) (x : Uoa) : (s.setUoa t x).ctxs = s.ctxs := rfl
@[simp] theorem State.setUoa_engines (t : Nat) (x : Uoa) : (s.setUoa t x).engines = s.engines := rfl
@[simp] theorem State.setUoa_installs (t : Nat) (x : Uoa) : (s.setUoa t x).installs = s.installs := rfl
@[simp] theorem State.setUoa_foldLog (t : Nat) (x : Uoa) : (s.setUoa t x).foldLog = s.foldLog := rfl
@[simp] theorem State.setUoa_fab (t : Nat) (x : Uoa) : (s.setUoa t x).fab = s.fab := rfl
@[simp] theorem State.setUoa_remotes (t : Nat) (x : Uoa) : (s.setUoa t x).remotes = s.remotes := rfl
@[simp] theorem State.setUoa_nextTag (t : Nat) (x : Uoa) : (s.setUoa t x).nextTag = s.nextTag := rfl
@[simp] theorem State.setUoa_hbm (t : Nat) (x : Uoa) : (s.setUoa t x).hbm = s.hbm := rfl
@[simp] theorem State.setUoa_cnt (t : Nat) (x : Uoa) : (s.setUoa t x).cnt = s.cnt := rfl
@[simp] theorem State.setUoa_host (t : Nat) (x : Uoa) : (s.setUoa t x).host = s.host := rfl
@[simp] theorem State.setUoa_ctxBlk (t : Nat) (x : Uoa) : (s.setUoa t x).ctxBlk = s.ctxBlk := rfl
@[simp] theorem State.setUoa_aon (t : Nat) (x : Uoa) : (s.setUoa t x).aon = s.aon := rfl
@[simp] theorem State.setUoa_fuses (t : Nat) (x : Uoa) : (s.setUoa t x).fuses = s.fuses := rfl
@[simp] theorem State.setUoa_sec (t : Nat) (x : Uoa) : (s.setUoa t x).sec = s.sec := rfl
@[simp] theorem State.setUoa_pmc (t : Nat) (x : Uoa) : (s.setUoa t x).pmc = s.pmc := rfl
@[simp] theorem State.setUoa_tst (t : Nat) (x : Uoa) : (s.setUoa t x).tst = s.tst := rfl
@[simp] theorem State.setUoa_out (t : Nat) (x : Uoa) : (s.setUoa t x).out = s.out := rfl
@[simp] theorem State.setUoa_free (t : Nat) (x : Uoa) : (s.setUoa t x).free = s.free := rfl

/-! ### `setStack` -/

@[simp] theorem State.setStack_pending (k : Nat) (x : Stack) : (s.setStack k x).pending = s.pending := rfl
@[simp] theorem State.setStack_tiles (k : Nat) (x : Stack) : (s.setStack k x).tiles = s.tiles := rfl
@[simp] theorem State.setStack_tctx (k : Nat) (x : Stack) : (s.setStack k x).tctx = s.tctx := rfl
@[simp] theorem State.setStack_flight (k : Nat) (x : Stack) : (s.setStack k x).flight = s.flight := rfl
@[simp] theorem State.setStack_sigs (k : Nat) (x : Stack) : (s.setStack k x).sigs = s.sigs := rfl
@[simp] theorem State.setStack_uoas (k : Nat) (x : Stack) : (s.setStack k x).uoas = s.uoas := rfl
@[simp] theorem State.setStack_uoaDev (k : Nat) (x : Stack) : (s.setStack k x).uoaDev = s.uoaDev := rfl
@[simp] theorem State.setStack_ctxs (k : Nat) (x : Stack) : (s.setStack k x).ctxs = s.ctxs := rfl
@[simp] theorem State.setStack_engines (k : Nat) (x : Stack) : (s.setStack k x).engines = s.engines := rfl
@[simp] theorem State.setStack_installs (k : Nat) (x : Stack) : (s.setStack k x).installs = s.installs := rfl
@[simp] theorem State.setStack_foldLog (k : Nat) (x : Stack) : (s.setStack k x).foldLog = s.foldLog := rfl
@[simp] theorem State.setStack_fab (k : Nat) (x : Stack) : (s.setStack k x).fab = s.fab := rfl
@[simp] theorem State.setStack_remotes (k : Nat) (x : Stack) : (s.setStack k x).remotes = s.remotes := rfl
@[simp] theorem State.setStack_nextTag (k : Nat) (x : Stack) : (s.setStack k x).nextTag = s.nextTag := rfl
@[simp] theorem State.setStack_cnt (k : Nat) (x : Stack) : (s.setStack k x).cnt = s.cnt := rfl
@[simp] theorem State.setStack_host (k : Nat) (x : Stack) : (s.setStack k x).host = s.host := rfl
@[simp] theorem State.setStack_ctxBlk (k : Nat) (x : Stack) : (s.setStack k x).ctxBlk = s.ctxBlk := rfl
@[simp] theorem State.setStack_aon (k : Nat) (x : Stack) : (s.setStack k x).aon = s.aon := rfl
@[simp] theorem State.setStack_fuses (k : Nat) (x : Stack) : (s.setStack k x).fuses = s.fuses := rfl
@[simp] theorem State.setStack_sec (k : Nat) (x : Stack) : (s.setStack k x).sec = s.sec := rfl
@[simp] theorem State.setStack_pmc (k : Nat) (x : Stack) : (s.setStack k x).pmc = s.pmc := rfl
@[simp] theorem State.setStack_tst (k : Nat) (x : Stack) : (s.setStack k x).tst = s.tst := rfl
@[simp] theorem State.setStack_out (k : Nat) (x : Stack) : (s.setStack k x).out = s.out := rfl
@[simp] theorem State.setStack_free (k : Nat) (x : Stack) : (s.setStack k x).free = s.free := rfl

/-! ### `setSlot` -/

@[simp] theorem State.setSlot_pending (k : Nat) (x : AgentSlot) : (s.setSlot k x).pending = s.pending := rfl
@[simp] theorem State.setSlot_tiles (k : Nat) (x : AgentSlot) : (s.setSlot k x).tiles = s.tiles := rfl
@[simp] theorem State.setSlot_tctx (k : Nat) (x : AgentSlot) : (s.setSlot k x).tctx = s.tctx := rfl
@[simp] theorem State.setSlot_flight (k : Nat) (x : AgentSlot) : (s.setSlot k x).flight = s.flight := rfl
@[simp] theorem State.setSlot_sigs (k : Nat) (x : AgentSlot) : (s.setSlot k x).sigs = s.sigs := rfl
@[simp] theorem State.setSlot_uoas (k : Nat) (x : AgentSlot) : (s.setSlot k x).uoas = s.uoas := rfl
@[simp] theorem State.setSlot_uoaDev (k : Nat) (x : AgentSlot) : (s.setSlot k x).uoaDev = s.uoaDev := rfl
@[simp] theorem State.setSlot_ctxs (k : Nat) (x : AgentSlot) : (s.setSlot k x).ctxs = s.ctxs := rfl
@[simp] theorem State.setSlot_engines (k : Nat) (x : AgentSlot) : (s.setSlot k x).engines = s.engines := rfl
@[simp] theorem State.setSlot_installs (k : Nat) (x : AgentSlot) : (s.setSlot k x).installs = s.installs := rfl
@[simp] theorem State.setSlot_foldLog (k : Nat) (x : AgentSlot) : (s.setSlot k x).foldLog = s.foldLog := rfl
@[simp] theorem State.setSlot_fab (k : Nat) (x : AgentSlot) : (s.setSlot k x).fab = s.fab := rfl
@[simp] theorem State.setSlot_remotes (k : Nat) (x : AgentSlot) : (s.setSlot k x).remotes = s.remotes := rfl
@[simp] theorem State.setSlot_nextTag (k : Nat) (x : AgentSlot) : (s.setSlot k x).nextTag = s.nextTag := rfl
@[simp] theorem State.setSlot_hbm (k : Nat) (x : AgentSlot) : (s.setSlot k x).hbm = s.hbm := rfl
@[simp] theorem State.setSlot_cnt (k : Nat) (x : AgentSlot) : (s.setSlot k x).cnt = s.cnt := rfl
@[simp] theorem State.setSlot_ctxBlk (k : Nat) (x : AgentSlot) : (s.setSlot k x).ctxBlk = s.ctxBlk := rfl
@[simp] theorem State.setSlot_aon (k : Nat) (x : AgentSlot) : (s.setSlot k x).aon = s.aon := rfl
@[simp] theorem State.setSlot_fuses (k : Nat) (x : AgentSlot) : (s.setSlot k x).fuses = s.fuses := rfl
@[simp] theorem State.setSlot_sec (k : Nat) (x : AgentSlot) : (s.setSlot k x).sec = s.sec := rfl
@[simp] theorem State.setSlot_pmc (k : Nat) (x : AgentSlot) : (s.setSlot k x).pmc = s.pmc := rfl
@[simp] theorem State.setSlot_tst (k : Nat) (x : AgentSlot) : (s.setSlot k x).tst = s.tst := rfl
@[simp] theorem State.setSlot_out (k : Nat) (x : AgentSlot) : (s.setSlot k x).out = s.out := rfl
@[simp] theorem State.setSlot_free (k : Nat) (x : AgentSlot) : (s.setSlot k x).free = s.free := rfl

/-! ### `emit` -/

@[simp] theorem State.emit_pending (o : Out) : (s.emit o).pending = s.pending := rfl
@[simp] theorem State.emit_tiles (o : Out) : (s.emit o).tiles = s.tiles := rfl
@[simp] theorem State.emit_tctx (o : Out) : (s.emit o).tctx = s.tctx := rfl
@[simp] theorem State.emit_flight (o : Out) : (s.emit o).flight = s.flight := rfl
@[simp] theorem State.emit_sigs (o : Out) : (s.emit o).sigs = s.sigs := rfl
@[simp] theorem State.emit_uoas (o : Out) : (s.emit o).uoas = s.uoas := rfl
@[simp] theorem State.emit_uoaDev (o : Out) : (s.emit o).uoaDev = s.uoaDev := rfl
@[simp] theorem State.emit_ctxs (o : Out) : (s.emit o).ctxs = s.ctxs := rfl
@[simp] theorem State.emit_engines (o : Out) : (s.emit o).engines = s.engines := rfl
@[simp] theorem State.emit_installs (o : Out) : (s.emit o).installs = s.installs := rfl
@[simp] theorem State.emit_foldLog (o : Out) : (s.emit o).foldLog = s.foldLog := rfl
@[simp] theorem State.emit_fab (o : Out) : (s.emit o).fab = s.fab := rfl
@[simp] theorem State.emit_remotes (o : Out) : (s.emit o).remotes = s.remotes := rfl
@[simp] theorem State.emit_nextTag (o : Out) : (s.emit o).nextTag = s.nextTag := rfl
@[simp] theorem State.emit_hbm (o : Out) : (s.emit o).hbm = s.hbm := rfl
@[simp] theorem State.emit_cnt (o : Out) : (s.emit o).cnt = s.cnt := rfl
@[simp] theorem State.emit_host (o : Out) : (s.emit o).host = s.host := rfl
@[simp] theorem State.emit_ctxBlk (o : Out) : (s.emit o).ctxBlk = s.ctxBlk := rfl
@[simp] theorem State.emit_aon (o : Out) : (s.emit o).aon = s.aon := rfl
@[simp] theorem State.emit_fuses (o : Out) : (s.emit o).fuses = s.fuses := rfl
@[simp] theorem State.emit_sec (o : Out) : (s.emit o).sec = s.sec := rfl
@[simp] theorem State.emit_pmc (o : Out) : (s.emit o).pmc = s.pmc := rfl
@[simp] theorem State.emit_tst (o : Out) : (s.emit o).tst = s.tst := rfl
@[simp] theorem State.emit_free (o : Out) : (s.emit o).free = s.free := rfl

/-! ### `setQueue` -/

@[simp] theorem State.setQueue_pending (c v q : Nat) (x : Queue) : (s.setQueue c v q x).pending = s.pending := rfl
@[simp] theorem State.setQueue_tiles (c v q : Nat) (x : Queue) : (s.setQueue c v q x).tiles = s.tiles := rfl
@[simp] theorem State.setQueue_flight (c v q : Nat) (x : Queue) : (s.setQueue c v q x).flight = s.flight := rfl
@[simp] theorem State.setQueue_sigs (c v q : Nat) (x : Queue) : (s.setQueue c v q x).sigs = s.sigs := rfl
@[simp] theorem State.setQueue_uoas (c v q : Nat) (x : Queue) : (s.setQueue c v q x).uoas = s.uoas := rfl
@[simp] theorem State.setQueue_uoaDev (c v q : Nat) (x : Queue) : (s.setQueue c v q x).uoaDev = s.uoaDev := rfl
@[simp] theorem State.setQueue_ctxs (c v q : Nat) (x : Queue) : (s.setQueue c v q x).ctxs = s.ctxs := rfl
@[simp] theorem State.setQueue_engines (c v q : Nat) (x : Queue) : (s.setQueue c v q x).engines = s.engines := rfl
@[simp] theorem State.setQueue_installs (c v q : Nat) (x : Queue) : (s.setQueue c v q x).installs = s.installs := rfl
@[simp] theorem State.setQueue_foldLog (c v q : Nat) (x : Queue) : (s.setQueue c v q x).foldLog = s.foldLog := rfl
@[simp] theorem State.setQueue_fab (c v q : Nat) (x : Queue) : (s.setQueue c v q x).fab = s.fab := rfl
@[simp] theorem State.setQueue_remotes (c v q : Nat) (x : Queue) : (s.setQueue c v q x).remotes = s.remotes := rfl
@[simp] theorem State.setQueue_nextTag (c v q : Nat) (x : Queue) : (s.setQueue c v q x).nextTag = s.nextTag := rfl
@[simp] theorem State.setQueue_hbm (c v q : Nat) (x : Queue) : (s.setQueue c v q x).hbm = s.hbm := rfl
@[simp] theorem State.setQueue_cnt (c v q : Nat) (x : Queue) : (s.setQueue c v q x).cnt = s.cnt := rfl
@[simp] theorem State.setQueue_host (c v q : Nat) (x : Queue) : (s.setQueue c v q x).host = s.host := rfl
@[simp] theorem State.setQueue_ctxBlk (c v q : Nat) (x : Queue) : (s.setQueue c v q x).ctxBlk = s.ctxBlk := rfl
@[simp] theorem State.setQueue_aon (c v q : Nat) (x : Queue) : (s.setQueue c v q x).aon = s.aon := rfl
@[simp] theorem State.setQueue_fuses (c v q : Nat) (x : Queue) : (s.setQueue c v q x).fuses = s.fuses := rfl
@[simp] theorem State.setQueue_sec (c v q : Nat) (x : Queue) : (s.setQueue c v q x).sec = s.sec := rfl
@[simp] theorem State.setQueue_pmc (c v q : Nat) (x : Queue) : (s.setQueue c v q x).pmc = s.pmc := rfl
@[simp] theorem State.setQueue_tst (c v q : Nat) (x : Queue) : (s.setQueue c v q x).tst = s.tst := rfl
@[simp] theorem State.setQueue_out (c v q : Nat) (x : Queue) : (s.setQueue c v q x).out = s.out := rfl
@[simp] theorem State.setQueue_free (c v q : Nat) (x : Queue) : (s.setQueue c v q x).free = s.free := rfl

/-! ### `sendSig` -/

@[simp] theorem State.sendSig_pending (x : SigInc) : (s.sendSig x).pending = s.pending := rfl
@[simp] theorem State.sendSig_tiles (x : SigInc) : (s.sendSig x).tiles = s.tiles := rfl
@[simp] theorem State.sendSig_tctx (x : SigInc) : (s.sendSig x).tctx = s.tctx := rfl
@[simp] theorem State.sendSig_flight (x : SigInc) : (s.sendSig x).flight = s.flight := rfl
@[simp] theorem State.sendSig_uoas (x : SigInc) : (s.sendSig x).uoas = s.uoas := rfl
@[simp] theorem State.sendSig_uoaDev (x : SigInc) : (s.sendSig x).uoaDev = s.uoaDev := rfl
@[simp] theorem State.sendSig_ctxs (x : SigInc) : (s.sendSig x).ctxs = s.ctxs := rfl
@[simp] theorem State.sendSig_engines (x : SigInc) : (s.sendSig x).engines = s.engines := rfl
@[simp] theorem State.sendSig_installs (x : SigInc) : (s.sendSig x).installs = s.installs := rfl
@[simp] theorem State.sendSig_foldLog (x : SigInc) : (s.sendSig x).foldLog = s.foldLog := rfl
@[simp] theorem State.sendSig_fab (x : SigInc) : (s.sendSig x).fab = s.fab := rfl
@[simp] theorem State.sendSig_remotes (x : SigInc) : (s.sendSig x).remotes = s.remotes := rfl
@[simp] theorem State.sendSig_nextTag (x : SigInc) : (s.sendSig x).nextTag = s.nextTag := rfl
@[simp] theorem State.sendSig_hbm (x : SigInc) : (s.sendSig x).hbm = s.hbm := rfl
@[simp] theorem State.sendSig_cnt (x : SigInc) : (s.sendSig x).cnt = s.cnt := rfl
@[simp] theorem State.sendSig_host (x : SigInc) : (s.sendSig x).host = s.host := rfl
@[simp] theorem State.sendSig_ctxBlk (x : SigInc) : (s.sendSig x).ctxBlk = s.ctxBlk := rfl
@[simp] theorem State.sendSig_aon (x : SigInc) : (s.sendSig x).aon = s.aon := rfl
@[simp] theorem State.sendSig_fuses (x : SigInc) : (s.sendSig x).fuses = s.fuses := rfl
@[simp] theorem State.sendSig_sec (x : SigInc) : (s.sendSig x).sec = s.sec := rfl
@[simp] theorem State.sendSig_pmc (x : SigInc) : (s.sendSig x).pmc = s.pmc := rfl
@[simp] theorem State.sendSig_tst (x : SigInc) : (s.sendSig x).tst = s.tst := rfl
@[simp] theorem State.sendSig_out (x : SigInc) : (s.sendSig x).out = s.out := rfl
@[simp] theorem State.sendSig_free (x : SigInc) : (s.sendSig x).free = s.free := rfl

/-! ### Reading what was written -/

theorem State.tile_setTile (t u : Nat) (x : Tile) : (s.setTile t x).tile u = if u = t then x else s.tile u := by
  simp [State.tile, State.setTile, Tbl.get_set]
@[simp] theorem State.tile_setTile_self (t : Nat) (x : Tile) : (s.setTile t x).tile t = x := by
  simp [State.tile_setTile]
theorem State.tc_setTc (c v d w : Nat) (x : TileCtx) :
    (s.setTc c v x).tc d w = if tcKey d w = tcKey c v then x else s.tc d w := by
  simp [State.tc, State.setTc, Tbl.get_set]
@[simp] theorem State.tc_setTc_self (c v : Nat) (x : TileCtx) : (s.setTc c v x).tc c v = x := by
  simp [State.tc_setTc]
theorem State.ctx_setCtx (c d : Nat) (x : Ctx) : (s.setCtx c x).ctx d = if d = c then x else s.ctx d := by
  simp [State.ctx, State.setCtx, Tbl.get_set]
@[simp] theorem State.ctx_setCtx_self (c : Nat) (x : Ctx) : (s.setCtx c x).ctx c = x := by
  simp [State.ctx_setCtx]
theorem State.uoa_setUoa (t u : Nat) (x : Uoa) : (s.setUoa t x).uoa u = if u = t then x else s.uoa u := by
  simp [State.uoa, State.setUoa, Tbl.get_set]
@[simp] theorem State.uoa_setUoa_self (t : Nat) (x : Uoa) : (s.setUoa t x).uoa t = x := by
  simp [State.uoa_setUoa]
theorem State.stack_setStack (k j : Nat) (x : Stack) : (s.setStack k x).stack j = if j = k then x else s.stack j := by
  simp [State.stack, State.setStack, Tbl.get_set]
@[simp] theorem State.stack_setStack_self (k : Nat) (x : Stack) : (s.setStack k x).stack k = x := by
  simp [State.stack_setStack]
theorem State.slot_setSlot (k j : Nat) (x : AgentSlot) : (s.setSlot k x).slot j = if j = k then x else s.slot j := by
  simp [State.slot, State.setSlot, Tbl.get_set]
@[simp] theorem State.slot_setSlot_self (k : Nat) (x : AgentSlot) : (s.setSlot k x).slot k = x := by
  simp [State.slot_setSlot]

@[simp] theorem State.tc_setTile (t : Nat) (x : Tile) (c v : Nat) : (s.setTile t x).tc c v = s.tc c v := rfl
@[simp] theorem State.ctx_setTile (t : Nat) (x : Tile) (c : Nat) : (s.setTile t x).ctx c = s.ctx c := rfl
@[simp] theorem State.uoa_setTile (t : Nat) (x : Tile) (u : Nat) : (s.setTile t x).uoa u = s.uoa u := rfl
@[simp] theorem State.stack_setTile (t : Nat) (x : Tile) (k : Nat) : (s.setTile t x).stack k = s.stack k := rfl
@[simp] theorem State.slot_setTile (t : Nat) (x : Tile) (k : Nat) : (s.setTile t x).slot k = s.slot k := rfl
@[simp] theorem State.tile_setTc (c v : Nat) (x : TileCtx) (t : Nat) : (s.setTc c v x).tile t = s.tile t := rfl
@[simp] theorem State.ctx_setTc (c v : Nat) (x : TileCtx) (d : Nat) : (s.setTc c v x).ctx d = s.ctx d := rfl
@[simp] theorem State.uoa_setTc (c v : Nat) (x : TileCtx) (u : Nat) : (s.setTc c v x).uoa u = s.uoa u := rfl
@[simp] theorem State.stack_setTc (c v : Nat) (x : TileCtx) (k : Nat) : (s.setTc c v x).stack k = s.stack k := rfl
@[simp] theorem State.slot_setTc (c v : Nat) (x : TileCtx) (k : Nat) : (s.setTc c v x).slot k = s.slot k := rfl
@[simp] theorem State.tile_setCtx (c : Nat) (x : Ctx) (t : Nat) : (s.setCtx c x).tile t = s.tile t := rfl
@[simp] theorem State.tc_setCtx (c : Nat) (x : Ctx) (d v : Nat) : (s.setCtx c x).tc d v = s.tc d v := rfl
@[simp] theorem State.uoa_setCtx (c : Nat) (x : Ctx) (u : Nat) : (s.setCtx c x).uoa u = s.uoa u := rfl
@[simp] theorem State.stack_setCtx (c : Nat) (x : Ctx) (k : Nat) : (s.setCtx c x).stack k = s.stack k := rfl
@[simp] theorem State.slot_setCtx (c : Nat) (x : Ctx) (k : Nat) : (s.setCtx c x).slot k = s.slot k := rfl
@[simp] theorem State.tile_setUoa (t : Nat) (x : Uoa) (u : Nat) : (s.setUoa t x).tile u = s.tile u := rfl
@[simp] theorem State.tc_setUoa (t : Nat) (x : Uoa) (c v : Nat) : (s.setUoa t x).tc c v = s.tc c v := rfl
@[simp] theorem State.ctx_setUoa (t : Nat) (x : Uoa) (d : Nat) : (s.setUoa t x).ctx d = s.ctx d := rfl
@[simp] theorem State.stack_setUoa (t : Nat) (x : Uoa) (k : Nat) : (s.setUoa t x).stack k = s.stack k := rfl
@[simp] theorem State.slot_setUoa (t : Nat) (x : Uoa) (k : Nat) : (s.setUoa t x).slot k = s.slot k := rfl
@[simp] theorem State.tile_setStack (k : Nat) (x : Stack) (u : Nat) : (s.setStack k x).tile u = s.tile u := rfl
@[simp] theorem State.tc_setStack (k : Nat) (x : Stack) (c v : Nat) : (s.setStack k x).tc c v = s.tc c v := rfl
@[simp] theorem State.ctx_setStack (k : Nat) (x : Stack) (d : Nat) : (s.setStack k x).ctx d = s.ctx d := rfl
@[simp] theorem State.uoa_setStack (k : Nat) (x : Stack) (u : Nat) : (s.setStack k x).uoa u = s.uoa u := rfl
@[simp] theorem State.slot_setStack (k : Nat) (x : Stack) (j : Nat) : (s.setStack k x).slot j = s.slot j := rfl
@[simp] theorem State.tile_setSlot (k : Nat) (x : AgentSlot) (u : Nat) : (s.setSlot k x).tile u = s.tile u := rfl
@[simp] theorem State.tc_setSlot (k : Nat) (x : AgentSlot) (c v : Nat) : (s.setSlot k x).tc c v = s.tc c v := rfl
@[simp] theorem State.ctx_setSlot (k : Nat) (x : AgentSlot) (d : Nat) : (s.setSlot k x).ctx d = s.ctx d := rfl
@[simp] theorem State.uoa_setSlot (k : Nat) (x : AgentSlot) (u : Nat) : (s.setSlot k x).uoa u = s.uoa u := rfl
@[simp] theorem State.stack_setSlot (k : Nat) (x : AgentSlot) (j : Nat) : (s.setSlot k x).stack j = s.stack j := rfl
@[simp] theorem State.tile_emit (o : Out) (u : Nat) : (s.emit o).tile u = s.tile u := rfl
@[simp] theorem State.tc_emit (o : Out) (c v : Nat) : (s.emit o).tc c v = s.tc c v := rfl
@[simp] theorem State.ctx_emit (o : Out) (d : Nat) : (s.emit o).ctx d = s.ctx d := rfl
@[simp] theorem State.uoa_emit (o : Out) (u : Nat) : (s.emit o).uoa u = s.uoa u := rfl
@[simp] theorem State.stack_emit (o : Out) (j : Nat) : (s.emit o).stack j = s.stack j := rfl
@[simp] theorem State.slot_emit (o : Out) (j : Nat) : (s.emit o).slot j = s.slot j := rfl

/-! ### Sequencer state of a tile and context -/

variable (tc : TileCtx)

theorem TileCtx.q_setQ (q j : Nat) (x : Queue) : (tc.setQ q x).q j = if j = q then x else tc.q j := by
  simp [TileCtx.q, TileCtx.setQ, Tbl.get_set]
@[simp] theorem TileCtx.q_setQ_self (q : Nat) (x : Queue) : (tc.setQ q x).q q = x := by simp [TileCtx.q_setQ]
@[simp] theorem TileCtx.sig_setQ (q n : Nat) (x : Queue) : (tc.setQ q x).sig n = tc.sig n := rfl
@[simp] theorem TileCtx.vreg_setQ (q r : Nat) (x : Queue) : (tc.setQ q x).vreg r = tc.vreg r := rfl
theorem TileCtx.sig_setSig (n j v : Nat) : (tc.setSig n v).sig j = if j = n then v else tc.sig j := by
  simp [TileCtx.sig, TileCtx.setSig, Tbl.get_set]
@[simp] theorem TileCtx.q_setSig (n v q : Nat) : (tc.setSig n v).q q = tc.q q := rfl
theorem TileCtx.vreg_setVreg (r j : Nat) (v : List W32) :
    (tc.setVreg r v).vreg j = if j = r then v else tc.vreg j := by
  unfold TileCtx.vreg TileCtx.setVreg; exact Tbl.get_set _ _ _ _ _
@[simp] theorem TileCtx.q_setVreg (r q : Nat) (v : List W32) : (tc.setVreg r v).q q = tc.q q := rfl
@[simp] theorem TileCtx.sig_setVreg (r n : Nat) (v : List W32) : (tc.setVreg r v).sig n = tc.sig n := rfl
theorem Queue.ireg_setIreg (q : Queue) (i j : Nat) (v : W32) :
    (q.setIreg i v).ireg j = if j = i ∧ i ≠ 0 then v else q.ireg j := by
  unfold Queue.setIreg Queue.ireg
  by_cases hi : i = 0
  · simp [hi]
  · by_cases hj : j = i
    · subst hj; simp [hi]
    · by_cases h0 : j = 0
      · simp [hi, h0, Ne.symm hi]
      · simp [hi, hj, h0]
theorem State.queue_setQueue (c v q : Nat) (x : Queue) (j : Nat) :
    (s.setQueue c v q x).queue c v j = if j = q then x else s.queue c v j := by
  simp [State.queue, State.setQueue, TileCtx.q_setQ]
@[simp] theorem State.queue_setQueue_self (c v q : Nat) (x : Queue) : (s.setQueue c v q x).queue c v q = x := by
  simp [State.queue_setQueue]

/-! ### Events, trace and tile store -/

/-- A pulse event changes nothing but counters. -/
theorem State.ev_only (e u : Nat) (l : List Nat) (n : Nat) :
    { s.ev e u l n with cnt := s.cnt, tiles := s.tiles } = s := by
  unfold State.ev; split <;> rfl
/-- A pulse event that is not of scope tile leaves the tiles. -/
theorem State.ev_tiles (e u : Nat) (l : List Nat) (n : Nat) (h : isTileEvent e = false) :
    (s.ev e u l n).tiles = s.tiles := by simp [State.ev, h]
/-- A tile keeps all but its counters at an event. -/
theorem State.ev_tile (e u : Nat) (l : List Nat) (n t : Nat) :
    { (s.ev e u l n).tile t with counters := (s.tile t).counters } = s.tile t := by
  unfold State.ev
  split
  · by_cases h : t = u
    · subst h; rw [State.tile_setTile_self]; rfl
    · rw [State.tile_setTile, if_neg h]; rfl
  · rfl

@[simp] theorem State.ev_pending (e u : Nat) (l : List Nat) (n : Nat) : (s.ev e u l n).pending = s.pending := by
  unfold State.ev; split <;> rfl
@[simp] theorem State.ev_tctx (e u : Nat) (l : List Nat) (n : Nat) : (s.ev e u l n).tctx = s.tctx := by
  unfold State.ev; split <;> rfl
@[simp] theorem State.ev_flight (e u : Nat) (l : List Nat) (n : Nat) : (s.ev e u l n).flight = s.flight := by
  unfold State.ev; split <;> rfl
@[simp] theorem State.ev_sigs (e u : Nat) (l : List Nat) (n : Nat) : (s.ev e u l n).sigs = s.sigs := by
  unfold State.ev; split <;> rfl
@[simp] theorem State.ev_uoas (e u : Nat) (l : List Nat) (n : Nat) : (s.ev e u l n).uoas = s.uoas := by
  unfold State.ev; split <;> rfl
@[simp] theorem State.ev_uoaDev (e u : Nat) (l : List Nat) (n : Nat) : (s.ev e u l n).uoaDev = s.uoaDev := by
  unfold State.ev; split <;> rfl
@[simp] theorem State.ev_ctxs (e u : Nat) (l : List Nat) (n : Nat) : (s.ev e u l n).ctxs = s.ctxs := by
  unfold State.ev; split <;> rfl
@[simp] theorem State.ev_engines (e u : Nat) (l : List Nat) (n : Nat) : (s.ev e u l n).engines = s.engines := by
  unfold State.ev; split <;> rfl
@[simp] theorem State.ev_installs (e u : Nat) (l : List Nat) (n : Nat) : (s.ev e u l n).installs = s.installs := by
  unfold State.ev; split <;> rfl
@[simp] theorem State.ev_foldLog (e u : Nat) (l : List Nat) (n : Nat) : (s.ev e u l n).foldLog = s.foldLog := by
  unfold State.ev; split <;> rfl
@[simp] theorem State.ev_fab (e u : Nat) (l : List Nat) (n : Nat) : (s.ev e u l n).fab = s.fab := by
  unfold State.ev; split <;> rfl
@[simp] theorem State.ev_remotes (e u : Nat) (l : List Nat) (n : Nat) : (s.ev e u l n).remotes = s.remotes := by
  unfold State.ev; split <;> rfl
@[simp] theorem State.ev_nextTag (e u : Nat) (l : List Nat) (n : Nat) : (s.ev e u l n).nextTag = s.nextTag := by
  unfold State.ev; split <;> rfl
@[simp] theorem State.ev_hbm (e u : Nat) (l : List Nat) (n : Nat) : (s.ev e u l n).hbm = s.hbm := by
  unfold State.ev; split <;> rfl
@[simp] theorem State.ev_host (e u : Nat) (l : List Nat) (n : Nat) : (s.ev e u l n).host = s.host := by
  unfold State.ev; split <;> rfl
@[simp] theorem State.ev_ctxBlk (e u : Nat) (l : List Nat) (n : Nat) : (s.ev e u l n).ctxBlk = s.ctxBlk := by
  unfold State.ev; split <;> rfl
@[simp] theorem State.ev_aon (e u : Nat) (l : List Nat) (n : Nat) : (s.ev e u l n).aon = s.aon := by
  unfold State.ev; split <;> rfl
@[simp] theorem State.ev_fuses (e u : Nat) (l : List Nat) (n : Nat) : (s.ev e u l n).fuses = s.fuses := by
  unfold State.ev; split <;> rfl
@[simp] theorem State.ev_sec (e u : Nat) (l : List Nat) (n : Nat) : (s.ev e u l n).sec = s.sec := by
  unfold State.ev; split <;> rfl
@[simp] theorem State.ev_pmc (e u : Nat) (l : List Nat) (n : Nat) : (s.ev e u l n).pmc = s.pmc := by
  unfold State.ev; split <;> rfl
@[simp] theorem State.ev_tst (e u : Nat) (l : List Nat) (n : Nat) : (s.ev e u l n).tst = s.tst := by
  unfold State.ev; split <;> rfl
@[simp] theorem State.ev_out (e u : Nat) (l : List Nat) (n : Nat) : (s.ev e u l n).out = s.out := by
  unfold State.ev; split <;> rfl
@[simp] theorem State.ev_free (e u : Nat) (l : List Nat) (n : Nat) : (s.ev e u l n).free = s.free := by
  unfold State.ev; split <;> rfl

end Sys2Proof.Machine
end

