-- ==== Sys2Proof/Laws/Issue.lean ====
section
/-! SUPPORT. What issuing an instruction comes to, and the tile store accesses that meet no bad word. -/

namespace Sys2Proof.Machine

/-- An assigned instruction that issues does what its body says. -/
theorem State.issue_of_issues {s : State} {i : Issue} {cls op : Nat} {e : Env} {body : Env → State → Act}
    (h : Issues s i cls op e) (ha : opAssigned cls op = true) : s.issue cls op i body = s.act e (body e s) := by
  obtain ⟨h1, h2, h3, h4, h5, h6, h7⟩ := h
  have hw : (wWaits e.w && decide ((s.tc e.c e.v).leftBelow e.q (wWSig e.w) < wWCount e.w)) = false := by
    cases hw : wWaits e.w
    · rfl
    · have := h5 hw
      simp; omega
  unfold State.issue State.issueWord
  simp only [h1, h2, ha, h3, h4, h6, hw]
  cases hs : wSigs e.w <;> simp_all

/-- An instruction word is fetched from an image whose bytes have no bad burst. -/
theorem State.fetch_clean {s : State} {c pc a : Nat} (h : pc + 16 ≤ (s.ctx c).plen)
    (hx : s.xlate c ((s.ctx c).program + pc) 16 false = some a) (hb : s.badBursts a 16 = []) :
    s.fetch c pc = ⟨s, some (leNat (memReadBytes s.hbm.mem a 16))⟩ := by
  simp [State.fetch, Nat.not_lt.mpr h, State.ctxRead, hx, State.hbmRead, hb]

/-- The place at which an instruction issues. -/
theorem State.issueEnv_some {s : State} {i : Issue} {e : Env} (h : s.issueEnv i = some e) :
    (s.tile i.tile).resident = some e.c ∧ (s.ctx e.c).vid i.tile = some e.v ∧
      e = ⟨i.tile, i.queue, e.c, e.v, s.queue e.c e.v i.queue, i.word.toNat⟩ := by
  unfold State.issueEnv at h
  simp only at h
  split at h
  · cases h
  · rename_i c hc
    split at h
    · cases h
    · rename_i v hv
      split at h
      · cases h; exact ⟨hc, hv, rfl⟩
      · cases h

/-- A tile without bad words is read without a further effect. -/
theorem State.storeRead_clean (s : State) (t req a n : Nat) (h : (s.tile t).ecc = []) :
    s.storeRead t req a n = ⟨s, memReadBytes (s.tile t).store a n, false⟩ := by
  simp [State.storeRead, Tile.badWords, h]

/-- A tile without bad words is written without a further effect. -/
theorem State.storeWrite_clean (s : State) (t req a : Nat) (bs : Bytes) (h : (s.tile t).ecc = []) :
    s.storeWrite t req a bs = s.setTile t { s.tile t with
      store := memWriteBytes (s.tile t).store a bs
      wbacks := (s.tile t).wbacks.filter fun w =>
        !(decide (a / 64 ≤ w.addr / 64) && decide (64 * (w.addr / 64) < a + bs.length)) } := by
  unfold State.storeWrite
  simp only [h, List.filter_nil, List.foldl_nil]

end Sys2Proof.Machine
end

