-- ==== Sys2Proof/Laws/Ncp.lean ====
section
/-! SUPPORT. What a request of the host port comes to when it is accepted. -/

namespace Sys2Proof.Machine

/-- The end of deep sleep leaves the host port alone. -/
@[simp] theorem State.wakeDeep_host (s : State) : s.wakeDeep.host = s.host := rfl
@[simp] theorem State.wakeDeep_sec (s : State) : s.wakeDeep.sec = s.sec := rfl
@[simp] theorem State.wakeDeep_ctxs (s : State) : s.wakeDeep.ctxs = s.ctxs := rfl

@[simp] theorem State.wakeDeep_qp (s : State) (n : Nat) : s.wakeDeep.qp n = s.qp n := rfl
@[simp] theorem State.wakeDeep_slot (s : State) (a : Nat) : s.wakeDeep.slot a = s.slot a := rfl

/-- Taking a tag leaves the contexts and the boot stage alone. -/
@[simp] theorem State.ncpTaken_ctxs (s : State) (ty : Nat) (m : Ncp) : (s.ncpTaken ty m).ctxs = s.ctxs := by
  unfold State.ncpTaken; split <;> rfl
@[simp] theorem State.ncpTaken_sec (s : State) (ty : Nat) (m : Ncp) : (s.ncpTaken ty m).sec = s.sec := by
  unfold State.ncpTaken; split <;> rfl

/-- The slot of the sender after its tag is taken. -/
theorem State.ncpTaken_slot (s : State) (ty : Nat) (m : Ncp) : (s.ncpTaken ty m).slot m.slot =
    { s.slot m.slot with high := m.tag, cache := ((m.tag, none) :: (s.slot m.slot).cache).take 256 } := by
  unfold State.ncpTaken
  split <;> simp [State.slot, State.setSlot, State.wakeDeep]

/-- The permission of a sender is the same after its tag is taken. -/
theorem State.permStatus_taken (s : State) (ty : Nat) (m : Ncp) (p : Perm) :
    (s.ncpTaken ty m).permStatus p m = s.permStatus p m := by
  have hs := State.ncpTaken_slot s ty m
  cases p <;> simp [State.permStatus, hs, State.isAdmitted, State.ctx]

/-- An accepted request acts on the state in which its tag is taken. -/
theorem State.ncp_of_accepts {s : State} {ty : Nat} {m : Ncp} {p : Perm} (h : NcpAccepts s ty m p)
    (body : State → NcpAct) : s.ncp ty m p true body = State.ncpFinish ty m (body (s.ncpTaken ty m)) := by
  obtain ⟨h1, h2, h3, ⟨h4, h5⟩, ⟨h6, h7, h8, h9⟩, h10, h11⟩ := h
  have hp := State.permStatus_taken s ty m p
  have hr : (s.ncpTaken ty m).romServes = s.romServes := by simp [State.romServes]
  have hslot : (if wakesDeep ty = true then s.wakeDeep else s).slot m.slot = s.slot m.slot := by
    split <;> rfl
  unfold State.ncp
  simp only [h1, h2, Bool.not_true, Bool.false_eq_true, if_false]
  simp only [hslot, h3, h4, h5, and_self, if_true]
  have ht : (if wakesDeep ty = true then s.wakeDeep else s).setSlot m.slot
      { s.slot m.slot with high := m.tag, cache := ((m.tag, none) :: (s.slot m.slot).cache).take 256 } =
      s.ncpTaken ty m := by
    unfold State.ncpTaken; simp only [hslot]
  rw [ht]
  unfold State.ncpAct
  rw [hr, hp, h11, h6, h7, h8, h10]
  have : ¬ 64 ≤ m.ctx := by omega
  cases s.romServes <;> simp [this]

end Sys2Proof.Machine
end

