-- ==== Sys2Proof/Tests/Slice0.lean ====
section
/-! SUPPORT. The model's own tests: the well-formedness checks refuse, values worked out by hand from the spec come
out, and for each statement a concrete state and operands meet its hypotheses, clause by clause. -/

namespace Sys2Proof.Machine

set_option Elab.async false

/-! ### Well-formedness refuses -/

theorem test_wf_issue : (Instr.nop ⟨256, 0, 0⟩).wf = false ∧ (Instr.nop ⟨0, 4, 0⟩).wf = false ∧
    (Instr.nop ⟨255, 3, 0⟩).wf = true := by decide
theorem test_wf_units : (Instr.tapSample 256).wf = false ∧ (Instr.resume 64).wf = false ∧
    (Instr.refreshStart 16).wf = false ∧ (Instr.missedBeat 24).wf = false ∧ (Instr.selfRefreshExit 12).wf = false ∧
    (Instr.agentTimeout 8).wf = false ∧ (Instr.bypass 256).wf = false ∧ (Instr.queueCreditReturn 64).wf = false ∧
    (Instr.echoRequest (2 ^ 128) []).wf = false := by decide
theorem test_wf_pairs : (Instr.instructionComplete 0 4 0).wf = false ∧ (Instr.tileArrive 0 256).wf = false ∧
    (Instr.tapSubtileReceive 0 64).wf = false ∧ (Instr.eccWriteback (some 256)).wf = false ∧
    (Instr.workItem 16 0).wf = false ∧ (Instr.updateApply 0 32).wf = false ∧ (Instr.normSum 0 (2 ^ 24)).wf = false ∧
    (Instr.fabSwitchAtWrite 0 (2 ^ 64)).wf = false ∧ (Instr.stackLost 0 8).wf = false := by decide
theorem test_wf_frames : (Instr.ackRx 0 { ver := 16 }).wf = false ∧ (Instr.ackRx 0 { ty := 16 }).wf = false ∧
    (Instr.ackRx 0 { vc := 4 }).wf = false ∧ (Instr.ackRx 0 { dst := 65536 }).wf = false ∧
    (Instr.ackRx 0 { lseq := 65536 }).wf = false ∧ (Instr.ackRx 24 {}).wf = false ∧ (Instr.ackRx 23 {}).wf = true := by
  decide
theorem test_wf_requests : (Instr.keepalive { slot := 256 }).wf = false ∧
    (Instr.keepalive { slot := 0, tag := 2 ^ 32 }).wf = false ∧ (Instr.ncpAuthDiscard 256 { slot := 0 }).wf = false ∧
    (Instr.rdmaPacketRx { op := .write, qpn := 2 ^ 24, psn := 0 }).wf = false ∧ (Instr.keepalive { slot := 7 }).wf = true
    := by decide
theorem test_wf_functions : (Instr.enableRequest (.tile 256)).wf = false ∧ (Instr.enableRequest (.engine 16)).wf = false ∧
    (Instr.enableRequest (.port 24)).wf = false ∧ (Instr.enableRequest (.context 64)).wf = false ∧
    (Instr.pllLock (.field 4)).wf = false ∧ (Instr.pllLock (.group 16)).wf = false := by decide
theorem test_wf_ranges : (Instr.aonFenceWrite 4 0).wf = false ∧ (Instr.progAdmin 8).wf = false ∧
    (Instr.progFwRevoke 2).wf = false ∧ (Instr.bootStart 8).wf = false ∧ (Instr.powerOn 128).wf = false ∧
    (Instr.undervoltage 6 true).wf = false ∧ (Instr.hostLinkUp 8).wf = false ∧
    (Instr.boardLimitWrite 65536 0).wf = false ∧ (Instr.portLoopbackEnd 25 0).wf = false := by decide
theorem test_wf_calibration : (Instr.hbmReadEyeStep 0 32 0 true 0 0).wf = false ∧
    (Instr.serdesAdaptStep 0 4 0 0 true).wf = false ∧ (Instr.droopEvent 16).wf = false ∧
    (Instr.thermalOffsetStep 20 0).wf = false ∧ (Instr.registerWrite (2 ^ 26) true 0).wf = false ∧
    (Instr.tileStoreLiveWrite 0 4 0).wf = false ∧ (Instr.portRetrainEnd 0 true 65536 true).wf = false ∧
    (Instr.roceRateRecovery (2 ^ 24)).wf = false ∧ (Instr.pfcFrame 8 0).wf = false := by decide

/-! ### A small part -/

/-- A tile that runs, with a resident context. -/
def tOn (c : Nat) : Tile := { en := { st := .on }, resident := some c, fll := true }

/-- A context descriptor: a kind, flags, a program of 64 KiB, and other fields from byte 120 on. -/
def tDesc (kind flags : Nat) (more : Bytes) : Bytes :=
  leBytes 1 kind ++ leBytes 1 flags ++ List.replicate 110 0 ++ leBytes 8 65536 ++ more

/-- A segment table whose first segment is the first gibibyte of HBM, writable. -/
def tSegs : Bytes := leBytes 8 (2 ^ 63 + 2 ^ 62 + 2 ^ 19)

/-- A context that is ON, on tiles 0 and 1. -/
def tCtx : Ctx := { en := { st := .on }, desc := tDesc 0 1 [], segs := tSegs, map := [0, 1] }

/-- The part at READY with one context on two tiles and queue 0 of the first running, from the fields that a test
changes. -/
def tSt (tc : TileCtx) (x : Ctx) : State :=
  { tiles := [(0, tOn 0), (1, tOn 0)], tctx := [(0, tc)], ctxs := [(0, x)], sec := { stage := 9 },
    pmc := { stopped := false, fieldPll := 15, groupPll := 0xFFFF } }

/-- The queue of a test, at a step number and with index register I1. -/
def tQueue : Queue := { st := .running, started := true, step := 2, idx := [(1, 5)] }
def tTc : TileCtx := { queues := [(0, tQueue)], sigs := [(3, 7)] }
def tS : State := tSt tTc tCtx

/-- An instruction of queue 0 of tile 0: class, opcode, payload. -/
def tI (cls op pl : Nat) : Issue := ⟨0, 0, BitVec.ofNat 128 (cls * 2 ^ 124 + op * 2 ^ 118 + pl)⟩
/-- The same that waits for a count of a signal. -/
def tIW (cls op sig n : Nat) : Issue :=
  ⟨0, 0, BitVec.ofNat 128 (cls * 2 ^ 124 + op * 2 ^ 118 + 2 ^ 117 + sig * 2 ^ 112 + n * 2 ^ 104)⟩
/-- Its place. -/
def tE (s : State) (i : Issue) : Env := ⟨0, 0, 0, 0, s.queue 0 0 0, i.word.toNat⟩

/-- The state with an instruction's word in the image at queue 0's program counter: the image of context 0 begins at
address 0 of HBM. -/
def tAt (s : State) (i : Issue) : State :=
  { s with hbm := { s.hbm with mem := memWriteBytes s.hbm.mem (s.queue 0 0 0).pc (leBytes 16 i.word.toNat) } }

/-- The program counter of `e` lies in the image of its context, whose bytes there are its word, with no bad burst. -/
abbrev TFetch (s : State) (e : Env) : Prop :=
  e.qu.pc + 16 ≤ (s.ctx e.c).plen ∧ s.xlate e.c ((s.ctx e.c).program + e.qu.pc) 16 false = some e.qu.pc ∧
    s.badBursts e.qu.pc 16 = [] ∧ leNat (memReadBytes s.hbm.mem e.qu.pc 16) = e.w

theorem fetch_of {s : State} {e : Env} (h : TFetch s e) : s.fetch e.c e.qu.pc = ⟨s, some e.w⟩ := by
  rw [State.fetch_clean h.1 h.2.1 h.2.2.1, h.2.2.2]

theorem issues_of {s : State} {i : Issue} {cls op : Nat} {e : Env}
    (h : s.issueEnv i = some e ∧ TFetch s e ∧ e.cls = cls ∧ e.op = op ∧
      (wWaits e.w = true → wWCount e.w ≤ (s.tc e.c e.v).leftBelow e.q (wWSig e.w)) ∧ wHdrOk e.w = true ∧
      (wSigs e.w = true → s.vtOk e (wSTile e.w) = true)) : Issues s i cls op e :=
  ⟨h.1, fetch_of h.2.1, h.2.2.1, h.2.2.2.1, h.2.2.2.2.1, h.2.2.2.2.2.1, h.2.2.2.2.2.2⟩

/-- The instruction issues in the small part, in whose image it stands. -/
abbrev TIssues (s : State) (cls op pl : Nat) : Prop :=
  Issues (tAt s (tI cls op pl)) (tI cls op pl) cls op (tE s (tI cls op pl))

theorem witness_QueueInstructionsComplete :
    TIssues tS 7 0 0 ∧ TIssues tS 6 1 0 ∧ TIssues tS 7 1 (2 ^ 84 + 9) ∧ TIssues tS 7 2 (2 ^ 84 + 2 ^ 80 + 9) ∧
    TIssues tS 6 2 (2 ^ 84 + 3 * 2 ^ 79) ∧ wWaits (tI 6 2 0).word.toNat = false ∧ TIssues tS 7 6 (2 ^ 84 + 2 ^ 83) ∧
    TIssues tS 7 5 0 ∧ TIssues tS 7 7 0 := by
  refine ⟨?_, ?_, ?_, ?_, ?_, by decide +kernel, ?_, ?_, ?_⟩ <;> exact issues_of (by decide +kernel)

/-- Queue 0 with loops, the next instruction ending the innermost body. -/
def tLoops (n : Nat) : State :=
  tSt { tTc with queues := [(0, { tQueue with pc := 32, loops := List.replicate n ⟨16, 2, 1⟩ })] } tCtx

theorem witness_BranchesComplete :
    TIssues tS 7 3 (2 ^ 84 + 3 * 2 ^ 76) ∧ TIssues tS 7 3 (2 * 2 ^ 84 + 60 * 2 ^ 76) ∧
    (tE tS (tI 7 3 0)).qu.loops.length < 4 ∧ TIssues (tLoops 4) 7 3 (2 ^ 84 + 2 ^ 76) ∧
    TIssues (tLoops 1) 7 3 (2 ^ 84 + 2 ^ 76) ∧ loopPast ((tLoops 1).queue 0 0 0).loops (48 + 16) = true ∧
    TIssues (tLoops 1) 7 4 (2 ^ 32 - 1) ∧ brOut ((tLoops 1).queue 0 0 0).loops 16 = false ∧
    TIssues (tLoops 1) 7 4 (2 ^ 83 + 2 * 2 ^ 84 + 1) ∧ ((tLoops 1).queue 0 0 0).ireg 2 = 0 ∧
    TIssues (tLoops 1) 7 4 (2 ^ 83 + 2 ^ 84 + 1) ∧ brOut ((tLoops 1).queue 0 0 0).loops 48 = true ∧
    (let q := (tLoops 2).queue 0 0 0
     q.loops = ⟨16, 2, 1⟩ :: [⟨16, 2, 1⟩] ∧ q.pc + 16 = 16 + 16 * 2 ∧ q.ireg 1 ≠ 1) ∧
    (let q := ((tLoops 1).queue 0 0 0).setIreg 1 1
     q.loops = ⟨16, 2, 1⟩ :: [] ∧ q.pc + 16 = 16 + 16 * 2 ∧ q.ireg 1 = 1) := by
  refine ⟨?_, ?_, by decide, ?_, ?_, by decide +kernel, ?_, by decide +kernel, ?_, by decide +kernel, ?_,
    by decide +kernel, by decide +kernel, by decide +kernel⟩ <;> exact issues_of (by decide +kernel)

/-- A context of a job at Milestone 2, whose step has begun. -/
def tJob : Ctx := { tCtx with job := some { mstone := 2 } }
/-- An instruction of queue 0 that is in flight. -/
def tFlight : Flight := { ctx := 0, vt := 0, queue := 0, seq := 0, step := 2, cls := 2, op := 0 }

theorem witness_SynchronisationComplete :
    TIssues tS 6 0 (2 ^ 80 + 3 * 2 ^ 75 + 65535 * 2 ^ 59) ∧ (tAt tS (tI 6 0 0)).vtOk (tE tS (tI 6 0 0)) 1 = true ∧
    TIssues tS 6 3 0 ∧ ((tAt tS (tI 6 3 0)).ctx 0).kind = 0 ∧ TIssues (tSt tTc tJob) 6 4 0 ∧
    ((tAt (tSt tTc tJob) (tI 6 4 0)).ctx 0).reached 2 = true ∧ TIssues tS 6 4 0 ∧
    ((tAt tS (tI 6 4 0)).ctx 0).reached 2 = false ∧ TIssues tS 6 5 0 ∧
    (∀ f ∈ (tAt tS (tI 6 5 0)).flight, f.ofQueue 0 0 0 = false) ∧
    TIssues { tS with flight := [tFlight] } 6 5 0 ∧ tFlight.ofQueue 0 0 0 = true := by
  refine ⟨?_, by decide +kernel, ?_, by decide +kernel, ?_, by decide +kernel, ?_, by decide +kernel, ?_,
    by decide +kernel, ?_, by decide⟩ <;> exact issues_of (by decide +kernel)

theorem witness_TableInstructionsComplete :
    TIssues tS 7 9 (254 * 2 ^ 80 + 2 ^ 72 + 2 ^ 71) ∧ TIssues tS 7 8 (62 * 2 ^ 82 + 2 ^ 76 + 64 * 2 ^ 53) ∧
    64 + 16 * 2 ≤ storeSize ∧ ∀ i, ((tAt tS i).tile 0).ecc = [] := by
  refine ⟨issues_of (by decide +kernel), issues_of (by decide +kernel), by decide, fun _ => rfl⟩

theorem witness_IssueStops :
    (let i := tI 7 0 0
     let s := tSt { tTc with queues := [(0, { tQueue with pc := 65536 })] } tCtx
     s.issueEnv i = some (tE s i) ∧ (s.fetch 0 65536).word = none) ∧
    (let i := tI 7 0 0
     tS.issueEnv i = some (tE tS i) ∧ ∃ w, (tS.fetch 0 0).word = some w ∧ w ≠ (tE tS i).w) ∧
    (let i := tIW 7 0 3 8
     let s := tAt tS i
     s.issueEnv i = some (tE s i) ∧ TFetch s (tE s i) ∧ (tE s i).cls = 7 ∧ (tE s i).op = 0 ∧ wWaits i.word.toNat = true ∧
       (s.tc 0 0).leftBelow 0 3 < wWCount i.word.toNat) ∧
    (let i := tI 15 0 0
     let s := tAt tS i
     s.issueEnv i = some (tE s i) ∧ TFetch s (tE s i) ∧ opAssigned (tE s i).cls (tE s i).op = false ∧
       wWaits i.word.toNat = false) ∧
    TIssues tS 7 0 1 ∧ (tE tS (tI 7 0 1)).pl ≠ 0 := by
  refine ⟨by decide +kernel, ⟨by decide +kernel, 0, by decide +kernel, by decide +kernel⟩, by decide +kernel,
    by decide +kernel, issues_of (by decide +kernel), by decide +kernel⟩

/-- A wait that an earlier queue's wait on the same counter leaves too little for. -/
theorem test_wait_order :
    let q1 : Queue := { tQueue with st := .waiting, waits := .signal 3 4 }
    ({ queues := [(0, q1), (1, tQueue)], sigs := [(3, 7)] } : TileCtx).leftBelow 1 3 = 3 ∧
    ({ queues := [(0, q1), (1, tQueue)], sigs := [(3, 3)] } : TileCtx).leftBelow 1 3 = 3 := by decide

/-- A tile whose exception log is valid. -/
def tLogged : State := { tS with tiles := [(0, { tOn 0 with excLog := BitVec.ofNat 64 (2 ^ 63) })] }

theorem witness_ExceptionLogHoldsFirst :
    (tLogged.tile 0).excLog.getLsbD 63 = true ∧ (tS.tile 255).excLog.getLsbD 63 = false ∧
    (tS.tile 0).answers = true := by decide +kernel

/-! ### Vector instructions -/

/-- A payload: VD 1, VA 2, VB 3, VC 4, with a format in bits 63:60 and a sub-code in bits 10:0. -/
def tV (fmt sub : Nat) : Nat := 2 ^ 83 + 2 * 2 ^ 78 + 3 * 2 ^ 73 + 4 * 2 ^ 68 + fmt * 2 ^ 60 + sub

theorem witness_VectorLanesComplete :
    (∀ x ∈ laneOps, TIssues tS 2 x.2.1 (tV 0 0)) ∧ (vpay (tV 0 0)).rnd < 2 ∧ (vpay (tV 0 0)).sub = 0 := by
  refine ⟨?_, by decide, by decide⟩
  intro x hx
  simp only [laneOps, List.mem_cons, List.not_mem_nil, or_false] at hx
  rcases hx with h | h | h | h | h | h | h | h | h | h | h | h <;> subst h <;> exact issues_of (by decide +kernel)

theorem witness_SelectLogicConvertComplete :
    TIssues tS 2 0x07 (tV 0 0) ∧ TIssues tS 2 0x0A (tV 0 3) ∧ TIssues tS 2 0x08 (tV 3 1) ∧
    (vpay (tV 0 3)).sub < 4 ∧ (vpay (tV 3 1)).sub < 2 ∧ (vpay (tV 3 1)).fmt ≠ 0xF := by
  refine ⟨issues_of (by decide +kernel), issues_of (by decide +kernel), issues_of (by decide +kernel), by decide,
    by decide, by decide⟩

theorem witness_CompareReduceComplete :
    TIssues tS 2 0x06 (tV 0 5) ∧ (vpay (tV 0 5)).vd < 8 ∧ fld (vpay (tV 0 5)).sub 0 3 < 6 ∧
    fld (vpay (tV 0 5)).sub 4 7 = 0 ∧ (∀ w on a b, badAttention w (vpay (tV 0 5)) on a b = false) ∧
    TIssues tS 2 0x18 (tV 0 2) ∧ (vpay (tV 0 2)).sub < 3 := by
  refine ⟨issues_of (by decide +kernel), by decide, by decide, by decide, ?_, issues_of (by decide +kernel), by decide⟩
  intro w on a b
  have h : bit (vpay (tV 0 5)).sub 3 = false := by decide
  simp [badAttention, h]

/-- An integer comparison of a position that is out of range, in a state where it issues; whether its word is one of
attention's is free (log 50), so one of the two clauses about it holds of this state. -/
theorem witness_CompareReduceComplete_attention :
    TIssues (tSt { tTc with vregs := [(2, List.replicate 256 0x01000000)] } tCtx) 2 0x06 (tV 0 8) ∧
    bit (vpay (tV 0 8)).sub 3 = true ∧
    badPosition (({ vregs := [(2, List.replicate 256 0x01000000)] } : TileCtx).lanesOn (vpay (tV 0 8)))
      (({ vregs := [(2, List.replicate 256 0x01000000)] } : TileCtx).vreg 2) = true := by
  refine ⟨issues_of (by decide +kernel), by decide, by decide +kernel⟩

/-- A payload of a softmax merge: VD 1, VA 5, VB 0, VC 7. -/
def tSm : Nat := 2 ^ 83 + 5 * 2 ^ 78 + 7 * 2 ^ 68

theorem witness_SoftmaxMergeComplete :
    TIssues tS 2 0x28 tSm ∧ TIssues tS 2 0x29 tSm ∧ (vpay tSm).vc ≤ 29 ∧
    (vpay tSm).vd ≤ 30 ∧ (vpay tSm).va ≤ 30 ∧ (vpay tSm).sub = 0 := by
  refine ⟨issues_of (by decide +kernel), issues_of (by decide +kernel), by decide, by decide, by decide, by decide⟩

/-- Elements of 16 bits at the end of the store: the base that leaves room for 256 of them, in bits 44:23. -/
def tVm : Nat := tV 3 0 + (storeSize - 512) * 2 ^ 23

theorem witness_VectorLoadsComplete :
    TIssues tS 2 0x20 tVm ∧ TIssues tS 2 0x22 tVm ∧ (∀ i, ((tAt tS i).tile 0).ecc = []) ∧
    (∀ b ∈ laneBits (fmtWidth 3) (storeSize - 512) false ((tS.tc 0 0).vreg 3), bitsIn (fmtWidth 3) b = true) ∧
    (∀ b ∈ laneBits (fmtWidth 3) (storeSize - 512) true ((tS.tc 0 0).vreg 3), bitsIn (fmtWidth 3) b = true) := by
  refine ⟨issues_of (by decide +kernel), issues_of (by decide +kernel), fun _ => rfl, by decide +kernel,
    by decide +kernel⟩

/-- Every lane's element lies within the store. -/
theorem elemsIn_of {s : State} {e : Env} {indexed : Bool}
    (h : ∀ b ∈ elemBits s e indexed, bitsIn (fmtWidth (vpay e.pl).fmt) b = true) : elemsIn s e indexed :=
  fun _ b _ _ hb => h b (List.mem_of_getElem? hb)

theorem witness_VectorStoreCompletes :
    TIssues tS 2 0x21 tVm ∧ (vpay tVm).rnd = 0 ∧ (vpay tVm).sub = 0 ∧ (vpay tVm).fmt ≠ 0xF ∧
    ((tAt tS (tI 2 0x21 tVm)).ctx 0).classW = true ∧
    elemsIn (tAt tS (tI 2 0x21 tVm)) (tE tS (tI 2 0x21 tVm)) false := by
  refine ⟨issues_of (by decide +kernel), by decide, by decide, by decide, by decide +kernel,
    elemsIn_of (by decide +kernel)⟩

/-- One byte too far. -/
def tVx : Nat := tV 3 0 + (storeSize - 511) * 2 ^ 23
/-- The same of a scatter, whose offsets are 0. -/
def tVy : Nat := tV 3 0 + (storeSize - 1) * 2 ^ 23

/-- The small part with a context of class N. -/
def tSn : State := tSt tTc { tCtx with desc := tDesc 0 0 [] }

theorem witness_VectorAccessChecks :
    TIssues tS 2 0x23 tVm ∧ ((tAt tS (tI 2 0x23 tVm)).ctx 0).classW = true ∧
    elemsIn (tAt tS (tI 2 0x23 tVm)) (tE tS (tI 2 0x23 tVm)) true ∧
    (∀ op ∈ [0x22, 0x23], TIssues tS 2 op tVy ∧ ¬ elemsIn (tAt tS (tI 2 op tVy)) (tE tS (tI 2 op tVy)) true) ∧
    (∀ op ∈ [0x20, 0x21], TIssues tS 2 op tVx ∧ ¬ elemsIn (tAt tS (tI 2 op tVx)) (tE tS (tI 2 op tVx)) false) ∧
    (∀ op ∈ [0x21, 0x23], TIssues tSn 2 op (tV 0 0) ∧ ((tAt tSn (tI 2 op (tV 0 0))).ctx 0).classW = false) ∧
    (vpay (tV 0 0)).fmt = 0 := by
  refine ⟨issues_of (by decide +kernel), by decide +kernel, elemsIn_of (by decide +kernel), ?_, ?_, ?_, by decide⟩
  · intro op h
    simp only [List.mem_cons, List.not_mem_nil, or_false] at h
    rcases h with h | h <;> subst h <;>
      exact ⟨issues_of (by decide +kernel), fun k => absurd (k 0 (8 * (storeSize - 1)) (by decide) (by intro h; cases h)
        (by decide +kernel)) (by decide)⟩
  · intro op h
    simp only [List.mem_cons, List.not_mem_nil, or_false] at h
    rcases h with h | h <;> subst h <;>
      exact ⟨issues_of (by decide +kernel), fun k => absurd (k 255 (8 * (storeSize - 1)) (by decide) (by intro h; cases h)
        (by decide +kernel)) (by decide)⟩
  · intro op h
    simp only [List.mem_cons, List.not_mem_nil, or_false] at h
    rcases h with h | h <;> subst h <;> exact ⟨issues_of (by decide +kernel), by decide +kernel⟩

/-! ### Posts -/

/-- The small part with bytes at address 64 of tile 0's store and cells of HBM, each a base and its bytes. -/
def tPut (x : Ctx) (d : Bytes) (hbm : List (Nat × Bytes)) : State :=
  let s := tSt tTc x
  { s with tiles := [(0, { tOn 0 with store := memWriteBytes [] 64 d }), (1, tOn 0)], fab := { s.fab with id := 0 },
           hbm := { s.hbm with mem := hbm.foldl (fun m c => memWriteBytes m c.1 c.2) [] } }

theorem posts_of {s : State} {i : Issue} {cls op : Nat} {e : Env} {d : Bytes}
    (h : s.issueEnv i = some e ∧ TFetch s e ∧ e.cls = cls ∧ e.op = op ∧
      (wWaits e.w = true → wWCount e.w ≤ (s.tc e.c e.v).leftBelow e.q (wWSig e.w)) ∧ wHdrOk e.w = true ∧
      (wSigs e.w = true → s.vtOk e (wSTile e.w) = true))
    (k : postOk e.pl = true ∧ postAddr e.pl e.qu % 64 = 0 ∧ postAddr e.pl e.qu + 64 ≤ storeSize ∧
      s.posts e.c e.v < 64 ∧ (s.tile e.t).ecc = [] ∧
      d = memReadBytes (s.tile e.t).store (postAddr e.pl e.qu) 64) : PostsDesc s i cls op e d :=
  ⟨issues_of h, k.1, k.2.1, k.2.2.1, k.2.2.2.1, k.2.2.2.2.1, k.2.2.2.2.2⟩

/-- A post of the descriptor at address 64. -/
def tP (cls op : Nat) : Issue := tI cls op (64 * 2 ^ 66)
/-- `tPut` with that post in the image. -/
def tPs (cls op : Nat) (x : Ctx) (d : Bytes) (hbm : List (Nat × Bytes)) : State := tAt (tPut x d hbm) (tP cls op)
abbrev TPosts (s : State) (cls op : Nat) (d : Bytes) : Prop := PostsDesc s (tP cls op) cls op (tE s (tP cls op)) d

/-- A move descriptor. -/
def tMove (src dst rows rowbytes pitch srcSpace dstSpace tid : Nat) : Bytes :=
  leBytes 8 src ++ leBytes 8 dst ++ leBytes 4 rows ++ leBytes 4 rowbytes ++ leBytes 4 pitch ++ leBytes 4 pitch ++
    leBytes 1 srcSpace ++ leBytes 1 dstSpace ++ List.replicate 6 0 ++ leBytes 4 tid ++ List.replicate 12 0 ++
    leBytes 4 0x3FFFF8 ++ List.replicate 4 0

def tMove1 : Bytes := tMove 0x1000 (storeSize - 80) 2 16 64 0 0 0

/-- An earlier move of queue 0 within its tile's store that has not been done. -/
def tOwed : Flight := { tFlight with cls := 3, posted := true, work := .post tMove1 }

theorem witness_MoveWithinStoreCopies :
    (∀ l ∈ [[], [tOwed]],
      let s : State := { tPs 3 0 { tCtx with desc := tDesc 0 1 [] } tMove1 [] with
        flight := l, tctx := [(0, { tTc with queues := [(0, { tQueue with seq := 1 })] })] }
      let e := tE s (tP 3 0)
      TPosts s 3 0 tMove1 ∧ moveOk tMove1 = true ∧ (moveOf tMove1).srcSpace = 0 ∧
      (moveOf tMove1).dstSpace = 0 ∧ (moveOf tMove1).flags = 0 ∧ storeRowsOk 0x1000 64 2 16 = true ∧
      storeRowsOk (moveOf tMove1).dst (moveOf tMove1).dpitch 2 16 = true ∧ (moveOf tMove1).status + 8 ≤ storeSize ∧
      (moveOf tMove1).rowbytes ≤ (moveOf tMove1).dpitch ∧ (s.tile 0).runs = true ∧
      s.owedBefore e.c e.v e.q e.qu.seq e.v e.v = !l.isEmpty) := by
  intro l h
  simp only [List.mem_cons, List.not_mem_nil, or_false] at h
  rcases h with h | h <;> subst h <;> exact ⟨posts_of (by decide +kernel) (by decide +kernel), by decide +kernel⟩

def tMove2 : Bytes := tMove 0x1000 (2 ^ 30 - 16) 1 16 64 0 2 0

theorem witness_MoveToMemoryWrites :
    (let s := tPs 3 0 tCtx tMove2 []
     let e := tE s (tP 3 0)
     let m := moveOf tMove2
     TPosts s 3 0 tMove2 ∧ moveOk tMove2 = true ∧ m.status + 8 ≤ storeSize ∧ m.srcSpace = 0 ∧
     m.dstSpace = 2 ∧ m.flags = 0 ∧ m.rows = 1 ∧ storeRowsOk m.src m.spitch m.rows m.rowbytes = true ∧
     s.xlate 0 m.dst 16 true = some (2 ^ 30 - 16) ∧ s.jobCtxs = [] ∧ s.untraced e ∧
     s.endOk e m.srcSpace m.src m.spitch m.rows m.rowbytes [m.srcVt] false = true ∧
     s.endOk e m.dstSpace m.dst m.dpitch m.rows m.rowbytes (m.dstTiles e.v) true = true ∧
     s.sendAct e.c m = .none ∧ s.receiveAct e.c m = .none) := by
  refine ⟨posts_of (by decide +kernel) (by decide +kernel), by decide +kernel, by decide +kernel, by decide +kernel,
    by decide +kernel, by decide +kernel, by decide +kernel, by decide +kernel, by decide +kernel, by decide +kernel,
    Or.inl (by decide +kernel), ?_⟩
  decide +kernel

/-- A factor record of FID 1: one block of 64 × 64 at 0x10000, its home this device. -/
def tFac : Bytes :=
  leBytes 3 1 ++ leBytes 1 0 ++ leBytes 4 64 ++ leBytes 1 0 ++ leBytes 1 0 ++ leBytes 2 0 ++ List.replicate 12 0 ++
    leBytes 8 0x10000 ++ List.replicate 32 0

/-- A context of a job at Milestone 2 with its tables: map at 0x1000, groups at 0x2000, tensors at 0x3000, factors at
0x5000, page tables at 0x6000, frames at 0x7000, and the Wayside ring at 0x8000. -/
def tWork (kind : Nat) : Ctx :=
  { tCtx with
    desc := tDesc kind 1 (leBytes 8 0x1000 ++ leBytes 8 0x3000 ++ leBytes 8 0x5000 ++ leBytes 8 0 ++ leBytes 8 0x2000 ++
      leBytes 8 0 ++ leBytes 8 0x6000 ++ leBytes 8 0x7000 ++ leBytes 8 0x8000)
    job := some { mstone := 2, map := some 0x1000, epoch := 3 } }

/-- The header of a map of one device and two tensors. -/
def tHdr : Bytes :=
  leBytes 2 1 ++ leBytes 2 1 ++ leBytes 4 3 ++ leBytes 2 0x300 ++ List.replicate 22 0 ++ leBytes 8 0x1100 ++ leBytes 8 0x1200 ++
    List.replicate 32 0 ++ leBytes 2 2 ++ List.replicate 6 0 ++
    (List.range 5).flatMap (fun a => leBytes 2 (a % 3) ++ leBytes 2 1 ++ leBytes 4 1)

/-- A tensor record: TID 5, 64 × 128, BF16, EXPECT 1. -/
def tTen : Bytes :=
  leBytes 4 5 ++ leBytes 4 64 ++ leBytes 4 128 ++ leBytes 1 3 ++ leBytes 1 1 ++ leBytes 2 0 ++ leBytes 4 1 ++
    List.replicate 4 0 ++ leBytes 8 0x20000 ++ leBytes 8 0x24000 ++ leBytes 8 0x28000 ++ leBytes 8 0x2C000 ++
    List.replicate 72 0

/-- A paged tensor: TID 6, pages of one fragment, its logs at 0x40000, its slot for step 3 WRITTEN. -/
def tTenP : Bytes :=
  putRec (putRec (putRec (putRec (putRec tTen 0 4 6) 22 1 1) 64 8 0x40000) 88 8 3) 96 1 0x40

/-- The tables in HBM: the header, the device, the tensor entries, group 0 with this device alone, the tensors and the
factor, a valid root in slot 0, and two pages of tensor 6. -/
def tTables : List (Nat × Bytes) :=
  [(0x1000, tHdr), (0x1200, leBytes 4 5 ++ List.replicate 8 0 ++ leBytes 4 1),
   (0x1220, leBytes 4 6 ++ List.replicate 8 0 ++ leBytes 4 1), (0x3300, tTenP), (0x6060, leBytes 8 0x6800 ++ leBytes 4 2),
   (0x2002, leBytes 2 1 ++ leBytes 1 2 ++
    leBytes 1 1 ++ leBytes 2 0 ++ leBytes 8 0x2100), (0x3280, tTen), (0x5040, tFac), (0x12000 + 16, [1])]

def tMove3 : Bytes := tMove 0 0x1000 64 128 128 0 0 1

theorem witness_MrootCompletes :
    TIssues tS 3 1 0 ∧ ((tAt tS (tI 3 1 0)).ctx 0).mstone < (tE tS (tI 3 1 0)).qu.step ∧
    (let s := tPs 3 1 (tWork 0) tMove3 tTables
     let e := tE s (tP 3 1)
     TPosts s 3 1 tMove3 ∧ e.qu.step ≤ (s.ctx 0).mstone ∧ moveOk tMove3 = true ∧
     s.factor 0 (moveOf tMove3).tid = some tFac ∧
     (let m := moveOf tMove3
      m.status + 8 ≤ storeSize ∧ mrootBlock m.src < facBlocks tFac ∧
      (m.rows - 1) * m.spitch + 2 * mrootCol m.src + m.rowbytes ≤ 2 * facSize tFac 0 * facSize tFac 0 ∧
      s.endOk e m.dstSpace m.dst m.dpitch m.rows m.rowbytes (m.dstTiles e.v) true = true ∧
      s.rootSel 0 tFac 0 2 = some 0) ∧
     (let m1 := moveOf (mrootMove tFac tMove3 0)
      s.endOk e 2 m1.src m1.spitch m1.rows m1.rowbytes [] false = true)) := by
  refine ⟨issues_of (by decide +kernel), by decide +kernel, posts_of (by decide +kernel) (by decide +kernel), ?_⟩
  decide +kernel

/-- A collective descriptor of an OP on group 0: BF16, from 0x3000 to 0x4000 of the store, tables in HBM. -/
def tColl (op count flow epoch : Nat) : Bytes :=
  leBytes 1 op ++ leBytes 1 0 ++ leBytes 1 3 ++ leBytes 5 0 ++ leBytes 8 0x3000 ++ leBytes 8 0x4000 ++ leBytes 4 count ++
    leBytes 4 4 ++ leBytes 8 0x6000 ++ leBytes 8 0x7000 ++ leBytes 4 epoch ++ leBytes 4 flow ++ leBytes 4 0x3FFFF8 ++
    leBytes 4 0

/-- The descriptor that a test posts for an OP: a PERMUTE moves nothing in the next epoch. -/
def tCollOf (op : Nat) : Bytes := if op = 5 then tColl 5 0 0 4 else tColl op 4 0 3
def tCollS (op : Nat) : State := tPs 4 0 (tWork 0) (tCollOf op) tTables

theorem begins_of {s : State} {e : Env} {d : Bytes} {g : Group}
    (h : (s.ctx e.c).kind = 0 ∧ cpostOk d = true ∧ cStatus d + 8 ≤ storeSize ∧ (s.smap e.c).isSome = true ∧
      g = (s.group e.c (cGroup d)).getD ⟨[], 2⟩ ∧ ranksIn s.fab.devid g.members ≠ [] ∧ cGroup d = 0 ∧
      s.collRanges e.c e.t d g.members.length (s.nextRank e.c (cGroup d) (ranksIn s.fab.devid g.members)) = true ∧
      s.epochOk e.c d = true ∧ s.versionLow e.c d g.members = false) : CollBegins s e d g :=
  ⟨h.1, h.2.1, h.2.2.1, h.2.2.2.1, h.2.2.2.2.1, h.2.2.2.2.2.1, Or.inl h.2.2.2.2.2.2.1, h.2.2.2.2.2.2.2.1,
    h.2.2.2.2.2.2.2.2.1, h.2.2.2.2.2.2.2.2.2⟩

theorem witness_GroupPostsComplete :
    (∀ x ∈ groupPosts, TPosts (tCollS x.2) 4 0 (tCollOf x.2) ∧ cOp (tCollOf x.2) = x.2 ∧
      CollBegins (tCollS x.2) (tE (tCollS x.2) (tP 4 0)) (tCollOf x.2) ⟨[0], 2⟩) ∧
    TPosts (tPs 4 0 tCtx (tCollOf 0) []) 4 0 (tCollOf 0) ∧ ((tPs 4 0 tCtx (tCollOf 0) []).smap 0).isNone = true ∧
    cpostOk (tCollOf 0) = true ∧ cStatus (tCollOf 0) + 8 ≤ storeSize := by
  refine ⟨?_, posts_of (by decide +kernel) (by decide +kernel), by decide +kernel, by decide +kernel, by decide +kernel⟩
  intro x hx
  simp only [groupPosts, List.mem_cons, List.not_mem_nil, or_false] at hx
  rcases hx with h | h | h | h | h | h | h <;> subst h <;>
    exact ⟨posts_of (by decide +kernel) (by decide +kernel), by decide +kernel, begins_of (by decide +kernel)⟩

/-- A stream descriptor, sending or receiving; FRAG_EMPTY's names tensor 5. -/
def tStream (send : Nat) : Bytes := putRec (tColl 7 1 9 3) 1 1 (2 * send)
def tEmpty : Bytes := tColl 8 1 5 3

theorem witness_StreamPostsAndManagedPath :
    (∀ k < 2, let s := tPs 4 0 (tWork 0) (tStream k) tTables
      let e := tE s (tP 4 0)
      let d := tStream k
      TPosts s 4 0 d ∧ (s.ctx 0).kind = 0 ∧ cpostOk d = true ∧ cStatus d + 8 ≤ storeSize ∧ (s.smap 0).isSome = true ∧
      s.collRanges 0 0 d 1 0 = true ∧ s.epochOk 0 d = true ∧ s.versionLow 0 d [0] = false ∧ cOp d = 7 ∧
      s.entryUsed (cFlow d) = false ∧ cSend d = (k == 1) ∧ s.group 0 (cGroup d) = some ⟨[0], 2⟩ ∧ e.c = 0) ∧
    (let s := tPs 4 0 (tWork 0) tEmpty tTables
     TPosts s 4 0 tEmpty ∧ CollBegins s (tE s (tP 4 0)) tEmpty ⟨[0], 2⟩ ∧ cOp tEmpty = 8 ∧
      (s.tensor 0 (cTid tEmpty)).isSome = true ∧
      (((s.smap 0).bind fun m => m.tensorEntry (cTid tEmpty)).isSome = true)) ∧
    (let k : Coll := { ctx := 0, vt := 0, queue := 0, seq := 0, rank := 0, desc := [], cseq := 1, entry := none, queued := true }
     let s : State := { tS with fab := { tS.fab with colls := [k] } }
     (∀ j ∈ s.fab.colls, j.entry = none → j.queued = true) ∧ s.fab.colls.find? (·.queued) = some k) ∧
    (let s : State := { tS with fab := { tS.fab with endpoints := [(63, { valid := true, sends := 1 })] } }
     (s.endpoint 63).valid = true ∧ (s.endpoint 63).receiver = false ∧ (s.endpoint 63).credits < (s.endpoint 63).sends) := by
  refine ⟨?_, ⟨posts_of (by decide +kernel) (by decide +kernel), begins_of (by decide +kernel), by decide +kernel⟩,
    by decide +kernel, by decide +kernel⟩
  intro k hk
  rcases k with _ | _ | k
  · exact ⟨posts_of (by decide +kernel) (by decide +kernel), by decide +kernel⟩
  · exact ⟨posts_of (by decide +kernel) (by decide +kernel), by decide +kernel⟩
  · omega

/-- A solver descriptor: OP, engine 0, entry FIRST, images at 0x6000, FID 1. -/
def tSolv (op first : Nat) : Bytes :=
  leBytes 1 op ++ leBytes 1 0 ++ leBytes 2 first ++ leBytes 4 0 ++ leBytes 8 0x6000 ++ leBytes 4 1 ++ List.replicate 36 0 ++
    leBytes 4 0x3FFFF8 ++ leBytes 4 0
/-- The part with engine 0 ON, or OFF, which holds entry 3 for block 0 of FID 1. -/
def tSolvS (on : Bool) (d : Bytes) : State :=
  { tPs 5 0 (tWork 0) d tTables with
    engines := [(0, { en := { st := if on then .on else .off }, table := [(3, leBytes 3 1)], owner := [(3, 0)] })] }

theorem witness_SolverPostsComplete :
    (∀ op < 3, ∀ on : Bool, TPosts (tSolvS on (tSolv op 510)) 5 0 (tSolv op 510) ∧ spostOk (tSolv op 510) = true ∧
      recN (tSolv op 510) 56 4 + 8 ≤ storeSize ∧ recN (tSolv op 510) 0 1 = op ∧
      ((tSolvS on (tSolv op 510)).engine 0).en.st = (if on then .on else .off) ∧
      ((tSolvS on (tSolv op 510)).ctx 0).kind = 0) ∧
    (let s := tSolvS true (tSolv 0 510)
     s.entries 0 0x6000 32 1 = some [List.replicate 32 0] ∧ s.factor 0 1 = some tFac ∧ s.entryOf 0 1 0 = some (0, 3) ∧
     510 + 0 ≤ 511 ∧ (s.engine 0).run = none) := by
  refine ⟨?_, by decide +kernel⟩
  intro op h on
  rcases op with _ | _ | _ | op
  · cases on <;> exact ⟨posts_of (by decide +kernel) (by decide +kernel), by decide +kernel⟩
  · cases on <;> exact ⟨posts_of (by decide +kernel) (by decide +kernel), by decide +kernel⟩
  · cases on <;> exact ⟨posts_of (by decide +kernel) (by decide +kernel), by decide +kernel⟩
  · omega

/-! ### The matrix array and the taps -/

/-- An operand descriptor in the store: format 3, an address and a pitch in bytes. -/
def tOpd (addr pitch : Nat) : BitVec 128 := BitVec.ofNat 128 (3 * 2 ^ 120 + addr * 2 ^ 86 + pitch / 16 * 2 ^ 48)
/-- A payload: descriptors 0, 1 and 2, four rows, and TAPA of slot 0. -/
def tMma (tapA : Nat) : Nat := 1 * 2 ^ 76 + 2 * 2 ^ 70 + 3 * 2 ^ 44 + tapA * 2 ^ 37
/-- The part with these descriptors and slot 0 bound, holding samples of a step, and an MMA or MMAP in the image. -/
def tMatS (op tapA : Nat) (step : Option Nat) : State :=
  let tab : Tbl (BitVec 128) := [(0, tOpd 0 128), (1, tOpd 0x8000 256), (2, tOpd 0x10000 256)]
  let slots : Tbl TapSlot := [(0, { bound := true, fid := 1, step := step })]
  tAt (tSt { tTc with arrivedAt := some 2, opTab := tab, slots := slots } tCtx) (tI 0 op (tMma tapA))

theorem witness_MatrixAndLevelComplete :
    (∀ op < 2, ∀ k ∈ [(0, none), (1, none), (1, some 1)],
      let s := tMatS op k.1 k.2
      let i := tI 0 op (tMma k.1)
      let e := tE s i
      let m := e.matrixInst (s.tc 0 0) op
      Issues s i 0 op e ∧ m.p.bad op = false ∧ m.badDescriptor = false ∧
      badCombo m (s.ctx 0).classW (s.minor e) 0 (fun k =>
        if ((s.tc 0 0).slot k).bound then some ((s.tc 0 0).slot k).log2s else none) = false ∧ s.badAccess e m = false ∧
      m.p.slots.any (s.slotBusy e) = (k.2 == some 1)) ∧
    (tS.tile 0).runs = true ∧ (tS.tile 2).runs = false := by
  refine ⟨?_, by decide +kernel⟩
  intro op h k hk
  have hop : op = 0 ∨ op = 1 := by omega
  simp only [List.mem_cons, List.not_mem_nil, or_false] at hk
  rcases hop with h1 | h1 <;> rcases hk with h2 | h2 | h2 <;> subst h1 <;> subst h2 <;>
    exact ⟨issues_of (by decide +kernel), by decide +kernel⟩

theorem witness_MatrixElementIsOrderedSum :
    ([[fvPos0], [fvPos0]] : List (List Fv))[1]? = some [fvPos0] ∧ ([[fvPos0]] : List (List Fv))[0]? = some [fvPos0] := by
  decide

/-- A binding of slot 15 to FID 1, and one that names the step of a register field that is reserved. -/
def tTcfg (log2s : Nat) : Nat := 15 * 2 ^ 84 + 1 * 2 ^ 60 + log2s * 2 ^ 38

theorem witness_TapInstructionsComplete :
    (let s := tAt (tPut (tWork 0) [] tTables) (tI 1 0 (tTcfg 0))
     TIssues (tPut (tWork 0) [] tTables) 1 0 (tTcfg 0) ∧ s.badTcfg (tE s (tI 1 0 (tTcfg 0))) 15 (tcfgSlot (tTcfg 0)) = false ∧
     fld (tTcfg 0) 38 3 ≠ 7 ∧ s.minor (tE s (tI 1 0 (tTcfg 0))) = false) ∧
    TIssues tS 1 0 (tTcfg 7) ∧ fld (tTcfg 7) 38 3 = 7 ∧ TIssues tS 1 0 (tTcfg 0) ∧
    (tAt tS (tI 1 0 (tTcfg 0))).badTcfg (tE tS (tI 1 0 (tTcfg 0))) 15 (tcfgSlot (tTcfg 0)) = true ∧ TIssues tS 1 1 (15 * 2 ^ 84) ∧
    (tcfgSlot (tTcfg 0)).sameBinding (tcfgSlot (tTcfg 0)) = true ∧
    (({} : TileCtx).slot 15).sameBinding (tcfgSlot (tTcfg 0)) = false := by
  refine ⟨⟨issues_of (by decide +kernel), by decide +kernel⟩, issues_of (by decide +kernel), by decide +kernel,
    issues_of (by decide +kernel), by decide +kernel, issues_of (by decide +kernel), by decide +kernel,
    by decide +kernel⟩

/-- A tile whose one active queue has arrived at step 2. -/
def tArr : TileCtx := { tTc with queues := [(0, { tQueue with arrived := some 2 })] }

theorem witness_TapCommandsComplete :
    (let s := tSt { tTc with latch := [⟨0, 0, []⟩] } tCtx
     (s.tile 0).resident = some 0 ∧ (s.ctx 0).vid 0 = some 0 ∧ (s.tc 0 0).latch = ⟨0, 0, []⟩ :: []) ∧
    (let s := tSt tArr tJob
     (s.ctx 0).on = true ∧ (s.tc 0 0).arrivedAt = none ∧ s.tileReady 0 0 ((s.ctx 0).mstone + 1) = true) ∧
    (let y : SubTile := ⟨0, 0, 0, 2, 1, 0, 0, 0, 1, false, []⟩
     let s : State := { tSt { tArr with arrivedAt := some 3 } { tJob with map := [0] } with
       engines := [(15, { subtiles := [y] })] }
     ((s.engine 15).subtiles.filter fun z => z.ctx == 0 && z.step == (s.ctx 0).mstone) = [y] ∧
     s.allArrived 0 ((s.ctx 0).mstone + 1) = true) := by
  decide +kernel

/-! ### Completion and upkeep -/

/-- Instructions in flight: one that is done, and one before it in its class. -/
def tDone : Flight := { tFlight with seq := 1, statusAt := some 0x100, sig := some (0, 3) }

theorem witness_InstructionCompletes :
    (let s : State := { tS with flight := [tDone] }
     s.flightAt 0 0 1 = some tDone ∧ tDone.cls ≠ 3 ∧ s.mayComplete tDone = true ∧ tDone.endpoint = none ∧
     (s.tile 0).ecc = [] ∧ tDone.poison = false ∧ bit (fld s.cnt.trcCtl.toNat 40 8) tDone.cls = true ∧
     ∀ g ∈ s.flight, g.work = .done) ∧
    (let s : State := { tS with flight := [tDone], cnt := { tS.cnt with trcCtl := 0 } }
     s.flightAt 0 0 1 = some tDone ∧ s.mayComplete tDone = true ∧ bit (fld s.cnt.trcCtl.toNat 40 8) tDone.cls = false) ∧
    (let s : State := { tS with flight := [tFlight, tDone] }
     s.flightAt 0 0 1 = some tDone ∧ s.mayComplete tDone = false) := by
  decide +kernel

theorem witness_SignalIncrementsArrive :
    (let x (n : Nat) : SigInc := { ctx := 0, srcVt := 0, srcQ := 0, dstVt := 0, sig := 3, amount := n }
     let s : State := { tS with sigs := [x 0, x (sigMax - 7), x (sigMax - 6)] }
     let ahead (k : Nat) := (s.sigs.take k).any fun y => y.ctx == 0 && y.srcVt == 0 && y.srcQ == 0 && y.dstVt == 0
     ahead 0 = false ∧ ahead 1 = true ∧ s.sigs[1]? = some (x (sigMax - 7)) ∧ (s.tc 0 0).sig 3 + (sigMax - 7) ≤ sigMax ∧
     sigMax < (s.tc 0 0).sig 3 + (sigMax - 6)) := by
  decide +kernel

/-- A tile whose last line has a bad word, with a correction queued. -/
def tBad : Tile := { tOn 0 with ecc := [(8 * 65535 + 7, .single)], scrubNext := 65535, wbacks := [⟨storeSize - 8, [1]⟩] }

theorem witness_MemoryUpkeepCompletes :
    ((tS.tile 0).runs = true ∧ bit (tS.tile 0).storeCtl.toNat 8 = true ∧
      (tS.tile 0).badWords (64 * (tS.tile 0).scrubNext) 64 = []) ∧
    (tBad.runs = true ∧ bit tBad.storeCtl.toNat 8 = true ∧
      tBad.badWords (64 * tBad.scrubNext) 64 = [(8 * 65535 + 7, .single)] ∧ tBad.wbacks = ⟨storeSize - 8, [1]⟩ :: []) ∧
    (let s : State := { tS with hbm := { tS.hbm with wbacks := [⟨0, [1]⟩] } }
     s.hbm.wbacks = ⟨0, [1]⟩ :: []) ∧
    (let s : State := { tS with hbm := { tS.hbm with
        stackTbl := [(0, { st := .active, scrubNext := hbmC - 1 }), (1, { st := .selfRefresh }), (2, { st := .active })] } }
     (s.stack 0).st = .active ∧ bit s.hbm.ctl.toNat 8 = true ∧ s.badInChunk 0 (hbmC - 1) = [] ∧
     s.badInChunk 2 0 = [] ∧ (s.stack 1).st = .selfRefresh ∧ s.pmc.deepState ≠ 2 ∧ (s.stack 11).st = .training ∧
     s.sec.stage = 9 ∧ (s.stack 2).st ≠ .lost ∧ s.losable 2 3 = true) := by
  decide +kernel

theorem witness_TileRegistersComplete :
    (let s : State := { State.reset with tiles := [(5, { en := { st := .starting } })] }
     (s.tile 5).en.st = .starting ∧ ((s.tileAccess 5).tile 5).en.st = .on) ∧
    (let s := (tSt { tTc with queues := [(0, tQueue), (3, { st := .halted, started := true, exc := 1 })] } tCtx).tileAccess 0
     s.residentOf 0 = some (0, 0) ∧ (s.queue 0 0 3).st = .halted ∧ (s.queue 0 0 1).st = .idle ∧
     (s.queue 0 0 0).st = .running ∧ (s.queue 0 0 3).started = true ∧ (s.tile 0).answers = true ∧ s.isAdmitted 0 = true ∧
     0 ∈ s.ctxs.keys ∧ (segList (s.ctx 0).segs).isEmpty = false) ∧
    ((∀ c ∈ State.reset.ctxs.keys, State.reset.isAdmitted c = true → (segList (State.reset.ctx c).segs).isEmpty = true) ∧
      fld (BitVec.ofNat 64 hbmC).toNat 0 25 ≤ hbmC) := by
  decide +kernel

/-! ### The root engines -/

def tPost : Post := ⟨3, 0, 1, 0, 4⟩
/-- An entry of one row for block 0 of FID 1. -/
def tEnt : Bytes := leBytes 3 1 ++ List.replicate 5 0 ++ leBytes 2 1 ++ List.replicate 54 0
/-- A refresh of `n` rows by a method. -/
def tRun (n method : Nat) : Refresh := { post := tPost, entryB := tEnt, n := n, pcode := 0, method := method }
/-- The part with engine 0 ON and a refresh that runs. -/
def tEng (r : Option Refresh) : State :=
  let q : List Post := if r.isNone then [tPost] else []
  let x : Engine := { en := { st := .on }, table := [(3, tEnt)], owner := [(3, 0)], queue := q, run := r }
  { tPut (tWork 0) [] tTables with engines := [(0, x)] }

/-- `tEng none` with the factor's blocks beyond the context's segments. -/
def tEngFar : State :=
  { tPut (tWork 0) [] (tTables ++ [(0x5040, putRec tFac 24 8 (2 ^ 40))]) with engines := (tEng none).engines }

theorem witness_RefreshEventsComplete :
    (let s := tEng none
     let x := s.engine 0
     let w := s.warmStart tPost tFac tEnt
     x.en.st = .on ∧ bit x.ctl.toNat 0 = false ∧ x.run = none ∧ nextPost x.queue = some tPost ∧
     Tbl.find x.table 3 = some tEnt ∧ s.factor 0 1 = some tFac ∧ w.2.2 = false ∧
     (w.1.readBlock 0 (facBlockAddr tFac 0) (entN tEnt)).any (fun rd => !rd.2.2) = true) ∧
    (let f := putRec tFac 24 8 (2 ^ 40)
     let w := tEngFar.warmStart tPost f tEnt
     tEngFar.factor 0 1 = some f ∧ (w.1.readBlock 0 (facBlockAddr f 0) (entN tEnt)).isNone = true) ∧
    (∀ n ∈ [512, 513], ∀ p : Bool, let r := { tRun n 1 with pending := p }
      ((tEng (some r)).engine 0).run = some r ∧ r.outcome = none ∧ r.method ≠ 0 ∧ r.prods = [] ∧ r.pending = p) ∧
    (∀ st ∈ [1, 4], let r := { tRun 64 1 with outcome := some st, dist := if st = 1 then .ended else .none }
      ((tEng (some r)).engine 0).run = some r ∧ r.outcome = some st ∧ (installs st = true → r.dist = .ended)) := by
  decide +kernel

theorem witness_RefreshEventsComplete_cholesky (a : W32) :
    let r := { tRun 1 0 with mats := [(0, [[a]])] }
    ((tEng (some r)).engine 0).run = some r ∧ r.outcome = none ∧ r.method = 0 ∧ r.n = 1 ∧ r.mat 0 = [[a]] :=
  ⟨rfl, rfl, rfl, rfl, rfl⟩

theorem witness_RefreshEventsComplete_pivots :
    (cholInverse 1 [[0xBF800000]]).isNone = true ∧ (cholInverse 1 [[0x3F800000]]).isNone = false := by
  decide +kernel

/-- Tile 1 lent to Layby context 5, which engine 0 uses, with a refresh of 257 rows that has products to run and some
panels of the first done; a bad burst in the scratch or none. -/
def tLay (panels : List Nat) (prods : List Prod) (bad : Bool) : State :=
  let r := { tRun 257 1 with prods := prods, panels := panels }
  let x : Ctx := { tCtx with desc := tDesc 1 1 [], map := [1] }
  let s := tSt tTc tCtx
  { s with ctxs := [(0, tCtx), (5, x)], tiles := [(0, tOn 0), (1, { tOn 5 with lentFrom := some 0 })],
           hbm := { s.hbm with ecc := if bad then [(8224, .uncorrectable)] else [] }
           engines := [(0, { en := { st := .on }, ctl := BitVec.ofNat 32 (2 ^ 22 + 5 * 2 ^ 16), run := some r })] }

/-- An exchange of the control flows that has come: the answers or the data of devices. -/
def tCtl (kind : Nat) (key : List Nat) (inputs : List (Nat × Bytes)) (s : State) : State :=
  let x : Control := { ctx := 0, kind := kind, key := key, inputs := inputs.map fun i => (0, i.1, i.2) }
  { s with fab := { s.fab with controls := [x] } }

theorem witness_WorkItemsDeadlinesRoots :
    (∀ k ∈ [([], false), ([0, 1, 2], true), ([0, 1, 2], false)], let s := tLay k.1 [⟨0, 1, 2⟩] k.2
     let x := s.engine 0
     let r := { tRun 257 1 with prods := [⟨0, 1, 2⟩], panels := k.1 }
     x.run = some r ∧ r.prods = ⟨0, 1, 2⟩ :: [] ∧ r.outcome = none ∧ bit x.ctl.toNat 22 = true ∧
     (s.tile 1).lentFrom.isSome = true ∧ (s.tile 1).resident = some x.layby ∧ (s.tile 1).runs = true ∧
     (⟨0, 1, 2⟩ : Prod).target = (⟨0, 1, 2⟩ : Prod).dst) := by
  decide +kernel

theorem witness_WorkItemsDeadlinesRoots_panels :
    ((tLay [0, 1, 2] [⟨0, 1, 2⟩] true).panelOperands ((tLay [0, 1, 2] [⟨0, 1, 2⟩] true).engine 0) 257 3
      ⟨0, 1, 2⟩).2.2.2 = true ∧
    ((tLay [0, 1, 2] [⟨0, 1, 2⟩] false).panelOperands ((tLay [0, 1, 2] [⟨0, 1, 2⟩] false).engine 0) 257 3
      ⟨0, 1, 2⟩).2.2.2 = false := by
  decide +kernel

theorem witness_WorkItemsDeadlinesRoots_roots :
    (let s := tSt { tArr with arrivedAt := some 3 } { tJob with map := [0] }
     (s.ctx 0).on = true ∧ (s.ctx 0).deadline < (s.ctx 0).mstone + 1 ∧ s.allArrived 0 ((s.ctx 0).mstone + 1) = true) ∧
    (let r := { tRun 64 1 with outcome := some 1 }
     let s := tEng (some r)
     (s.engine 0).run = some r ∧ installs 1 = true ∧ s.factor 0 1 = some tFac ∧ r.dist = .none ∧
     (hdrValid (s.hdr 0 tFac 0 (s.rootFree 0 tFac 0)) && hdrPending (s.hdr 0 tFac 0 (s.rootFree 0 tFac 0))) = false) ∧
    (∀ v ∈ [0, 1], let r := { tRun 64 1 with outcome := some 1, dist := .sent [0] }
     let s := tCtl ctlRootReply [1, 0, 4] [(0, [v])] (tEng (some r))
     (s.engine 0).run = some r ∧ s.rootReplies ctlRootReply r.post = [(0, v == 1)]) ∧
    (let r := { tRun 64 1 with outcome := some 1, dist := .withdrawn [0] }
     let s := tCtl ctlDropReply [1, 0, 4] [(0, [1])] (tEng (some r))
     (s.engine 0).run = some r ∧ s.rootReplies ctlDropReply r.post = [(0, true)]) ∧
    ∀ k ∈ [ctlRoot, ctlRootDrop], ∀ mode ∈ [0, 1],
     let s := tCtl k [mode, 1, 0, 4, 3, 0] [(0, [])] (tEng none)
     let y : Control := { ctx := 0, kind := k, key := [mode, 1, 0, 4, 3, 0], inputs := [(0, 0, [])] }
     s.fab.controls.find? (fun y => y.ctx == 0 && (y.kind == ctlRoot || y.kind == ctlRootDrop) && s.rootOpen 0 y) =
       some y ∧ s.factor 0 1 = some tFac ∧ s.installs.length < 8192 ∧
     8192 ≤ ({ s with installs := List.replicate 8192 ⟨0, 0, 0, 0⟩ } : State).installs.length := by
  decide +kernel

/-! ### Update on arrival, Milestones, the Wayside tier and bundles -/

/-- The part with its tables, the parameters of step 2, page 0 of tensor 6 in a state with a frame, page 1 in another, and
more cells of HBM. -/
def tPage (x : Ctx) (st0 st1 : Nat) (more : List (Nat × Bytes)) : State :=
  tPut x [] (tTables ++ [(2080, [2]), (0x6800, leBytes 4 st0 ++ leBytes 4 3), (0x6820, leBytes 4 st1 ++ leBytes 4 3),
    (0x7018, leBytes 4 (2 ^ 32 - 1))] ++ more)

/-- A complete entry of step 2 of a tensor. -/
def tRb (tid : Nat) : RbEntry := { st := .applying, ctx := 0, tid := tid, mstone := 2, recv := 1, elems := [] }
def tUoa (s : State) (u : Uoa) : State := { s with uoas := [(0, u)] }

theorem witness_UpdateCommandsComplete :
    (∀ tid ∈ [5, 6], let s1 := (tUoa (tPage (tWork 0) 2 0 []) { entries := [(31, tRb tid)] }).settleEntry 0 31
      (s1.tensor 0 tid).isSome = true ∧ (s1.rb 0 31).st = .applying ∧ (s1.rb 0 31).tid = tid ∧
      ((s1.tensor 0 tid).any fun x => s1.entryAway 0 x 0) = (tid == 6)) ∧
    (let s := tPage (tWork 0) 2 0 [(0x40008, [4]), (0x40048, [1])]
     (s.tensor 0 6).any (fun x => (s.pageAt 0 x 0).isSome && s.forcedDue 0 x 0) = true ∧
     s.uoaDev.stalls.contains (0, 6, 0) = false) ∧
    (∀ write fails : Bool,
     let r : Remote := { tag := 0, ctx := 0, key := [1, 6, 0, 0], off := 0, host := true, write := write, len := 0,
                         answered := true, failed := fails }
     let s : State := { tPage (tWork 0) 2 0 [] with uoaDev := { stalls := [(0, 6, 0)] }, remotes := [r] }
     s.uoaDev.stalls.contains (0, 6, 0) = true ∧ s.remoteOver 0 [1, 6, 0] = true ∧ r.ctx = 0 ∧
     [1, 6, 0].isPrefixOf r.key = true ∧ r.write = write ∧ (s.remoteFails 0 [1, 6, 0]).isEmpty = !fails) ∧
    (∀ gone : Bool, let l : List (Nat × Nat × Nat) := if gone then [(0, 6, 0)] else []
     let s : State := { tPage (tWork 0) 2 0 [] with uoaDev := { stalls := [(0, 6, 0)], discarded := l }, remotes := [] }
     s.remoteOver 0 [1, 6, 0] = true ∧ s.remoteFails 0 [1, 6, 0] = [] ∧ s.remotes = [] ∧
     s.uoaDev.discarded.contains (0, 6, 0) = gone ∧
     (s.tensor 0 6).any (fun x => (s.pageAt 0 x 0).isSome && (s.logHead 0 x 0).length == 128) = true) ∧
    (let s := tPage (tWork 0) 0 0 []
     (s.tensor 0 6).any (fun x => !x.frozen && s.fragsDone 0 x && !(s.normRanks 0 x).isEmpty) = true ∧
     ((s.ctx 0).job.any fun j => !j.norms.contains 6) = true) ∧
    (let s : State := { tPage (tWork 0) 0 0 [(0x328E, [2])] with uoaDev := { period := 2 } }
     s.digestDue 0 = true ∧ ((s.ctx 0).job.any fun j => j.digest != some j.mstone) = true) ∧
    (let y : Contribution := ⟨0, ⟨5, 0, 2, 1, 1, 0, 3, false, false, 0, false, []⟩, none, none⟩
     let full : Tbl RbEntry := (List.range 32).map fun k => (k, { tRb 6 with fidx := k })
     ({ entries := [(31, tRb 5)], waiting := [y] } : Uoa).find 0 y.frag = some 31 ∧
     ({ waiting := [y] } : Uoa).find 0 y.frag = none ∧ ({ waiting := [y] } : Uoa).freeSlot = some 0 ∧
     ({ entries := full, waiting := [y] } : Uoa).find 0 y.frag = none ∧
     ({ entries := full, waiting := [y] } : Uoa).freeSlot = none ∧
     (let u : Uoa := { entries := full, waiting := [y, { y with frag := { y.frag with tid := 6, fidx := 4 } }] }
      u.freeSlot = none ∧ u.find 0 y.frag = none ∧ (u.nextServed.map (·.frag.fidx)) = some 4 ∧
      (u.nextServed.bind fun z => u.find 0 z.frag) = some 4)) := by
  decide +kernel

theorem witness_MilestoneCommandsComplete :
    (let s := tSt { tArr with arrivedAt := some 3 } { tJob with map := [0], deadline := 3 }
     (s.ctx 0).job = some { mstone := 2 } ∧ s.mayArrive 0 = true ∧ (s.ctx 0).diagArmed = false ∧
     (s.ctx 0).recov.phase = 0) ∧
    ((tSt tTc tJob).mayArrive 0 = false) ∧
    (let s := tPut { tWork 0 with job := some { mstone := 2, map := some 0x1000, agreed := true, resync := true },
                                  switchStep := some 2 } [] tTables
     (s.ctx 0).switchStep = some 2 ∧ (s.ctx 0).mstone = 2 ∧ s.permutesDue 0 ≤ (s.ctx 0).permutes ∧
     ((s.ctx 0).job.any fun j => j.agreed && j.resync) = true ∧ ∀ x ∈ s.jobTensors 0, x.replica = false) ∧
    (let s := tPut { tWork 0 with job := some { mstone := 2, map := some 0x1000, resync := true } } []
       (tTables ++ [(0x328E, [2])])
     ((s.jobTensors 0).filter (·.replica)).map (·.tid) = [5] ∧ ((s.ctx 0).job.any fun j => j.resync) = true) ∧
    (let y : Recov := { diagAt := 2, diagDigest := some [], diagSecond := some [] }
     let s := tSt { tArr with arrivedAt := some 3 } { tJob with map := [0], deadline := 3, recov := y }
     s.mayArrive 0 = true ∧ (s.ctx 0).diagArmed = true ∧ (s.ctx 0).recov.diagDigest.isSome = true ∧
     (s.ctx 0).recov.diagSecond.isSome = true) := by
  decide +kernel

/-- A ring that holds a REST or a FETCH of page 0 of tensor 6. -/
def tWcmd (op : Nat) : State :=
  tPage { tWork 0 with wTail := 1 } 2 2 [(0x8000, leBytes 4 op ++ leBytes 4 6 ++ leBytes 4 0 ++ leBytes 4 1)]

theorem witness_WaysideCommandsComplete :
    ((tWork 0).wHead = (tWork 0).wTail) ∧
    (∀ op ∈ [1, 2], let s := tWcmd op
      (s.ctx 0).wHead ≠ (s.ctx 0).wTail ∧ recN (s.wcmd 0 0) 0 1 = op ∧ (s.tensor 0 (recN (s.wcmd 0 0) 4 4)).isSome = true) ∧
    (∀ st ∈ [1, 2, 3], let s := tPage (tWork 0) st st []
      (s.tensor 0 6).any (fun y => (s.pageAt 0 y 0).any fun pg => pgState pg.2 == st && !pgReadable pg.2) = true ∧
      s.remoteOver 0 [1, 6, 0] = true ∧ s.remoteFails 0 [1, 6, 0] = [] ∧
      (s.tensor 0 6).any (fun y => y.pageFrags (s.heldFrags 0 y).length 1 == 0) = true) ∧
    (let s := tPage { tWork 0 with wFetches := [(6, 0, true)] } 2 2 []
     (s.ctx 0).wFetches.find? (fun g => g.1 == 6 && g.2.1 == 0) = some (6, 0, true) ∧ s.frameOwner 0 3 = none ∧
     (s.frameOwner 0 4).isSome = true) ∧
    (let d := putRec (tMove 0x20000 0x1000 1 16 64 2 0 6) 36 1 2
     let q : Queue := { tQueue with st := .waiting, waits := .version d }
     let s : State := { tPage (tWork 0) 2 2 [] with tctx := [(0, { tTc with queues := [(0, q)] })] }
     0 < (s.ctx 0).map.length ∧ (s.queue 0 0 0).st = .waiting ∧ (s.queue 0 0 0).waits = .version d ∧ (s.tensor 0 6).any (fun y => s.pageState 0 y 0 == 2) = true ∧
     (s.ctx 0).wFetches.any (fun f => f.1 == 6 && f.2.1 == 0) = false ∧
     (moveOf d).tid = 6 ∧ (moveOf d).srcSpace = 2 ∧ (s.tensor 0 6).any (fun y => (s.pagesTouched 0 y
       (rowsOf (moveOf d).src (moveOf d).spitch (moveOf d).rows (moveOf d).rowbytes)).contains 0) = true) := by
  decide +kernel

/-- A manifest of one layer with one chunk, of fragment 0 of tensor 5, with a magic number. -/
def tManifest (magic : Nat) : List (Nat × Bytes) :=
  [(0x9000, leBytes 8 0xA000), (0xA000, leBytes 4 magic ++ leBytes 4 1 ++ leBytes 4 1 ++ List.replicate 12 0 ++ leBytes 4 176 ++
    leBytes 4 2768), (0xA048, leBytes 4 1), (0xA050, leBytes 4 5 ++ leBytes 4 0 ++ leBytes 1 0 ++ leBytes 1 3)]
/-- A bundle of a step, in a state of the load. -/
def tBundle (magic st code : Nat) (step : Option Nat) (at_ : Nat) : State :=
  tPut { tWork 0 with bundleAddr := 0x9000, bundleAt := at_, bundle := { st := st, code := code, step := step } } []
    (tTables ++ tManifest magic)

/-- Whether a signature verifies is not decided here, since the verification is an opaque constant: of the two clauses
about it one holds of this state; whether the key is trusted is worked out outside (its digest is 64 bytes, of which the
first is 0xC8), and of the clauses about a chunk's digest one holds, since they exclude each other. -/
theorem witness_BundleCommandsComplete :
    ((tBundle 0 2 0 (some 2) 2).ctx 0).bundle.step ≠ none ∧ ((tBundle 0 0 0 none 0).ctx 0).bundle.step = none ∧
    (let x := (tBundle 0 0 0 none 0).ctx 0
     x.mstone < 3 ∧ x.bundleAddr.toNat % 64 = 0 ∧ x.switchAt ≠ 3 ∧ 2 ≤ x.mstone) ∧
    (let s := tBundle 0x3142474E 2 0 (some 2) 2
     (s.ctx 0).bundle.st = 2 ∧ s.manifestOk 0 = true ∧ (tBundle 0 2 0 (some 2) 2).manifestOk 0 = false) ∧
    (let b := ((tBundle 0 5 5 (some 2) 2).ctx 0).bundle
     b.st = 5 ∧ b.code = 5) ∧
    (let s := tBundle 0x3142474E 3 0 (some 2) 2
     let ch := s.mfChunk 0 0
     (s.ctx 0).bundle.st = 3 ∧ 0 < mfChunks (s.mfHdr 0) ∧ (s.tensor 0 (chTid ch)).any (fun y =>
       !(s.chunkHeld 0 y ch).isEmpty && (s.chunkHeld 0 y ch).all fun h => s.atHome 0 y h.2.2) = true ∧
     (s.ctxRead 0 (s.mfStage 0 + chDoff ch) (16384 * chNfrag ch)).isSome = true) ∧
    (let s := tPut { tWork 0 with bundleAddr := 0x9000, bundleAt := 2, bundle := { st := 3, step := some 2 } } []
       (tTables ++ tManifest 0x3142474E ++ [(0xA050, [6]), (0x6800, [2])])
     let ch := s.mfChunk 0 0
     (s.ctx 0).bundle.st = 3 ∧ (s.tensor 0 (chTid ch)).any (fun y =>
       (s.chunkHeld 0 y ch).any fun h => !s.atHome 0 y h.2.2) = true) := by
  decide +kernel

/-- A context whose descriptor trusts no publisher has no trusted key. -/
theorem witness_BundleCommandsComplete_untrusted : (tBundle 0x3142474E 2 0 (some 2) 2).keyTrusted 0 = false := by
  have h1 : (sliceB ((tBundle 0x3142474E 2 0 (some 2) 2).ctx 0).desc 256 64).any (· != 0) = false := by decide +kernel
  have h2 : (sliceB ((tBundle 0x3142474E 2 0 (some 2) 2).ctx 0).desc 320 64).any (· != 0) = false := by decide +kernel
  simp only [State.keyTrusted, List.any_cons, List.any_nil, h1, h2, Bool.and_false, Bool.or_false]

/-! ### The links -/

/-- A port that is UP at frame 5, with a frame to be acknowledged that has been resent some times. -/
def tPort (resent : Nat) : Port :=
  { en := { st := .on }, pll := true, up := true, ver := 3, rxSeq := 5, txSeq := 9, runFab := BitVec.ofNat 32 (0x88B5 * 65536),
    replay := [⟨{ ty := 3, vc := 2, lseq := 8 }, { ty := 3, vc := 2 }, resent⟩] }
def tLink (x : Port) : State := { tS with fab := { tS.fab with id := 0, ports := [(23, x)] } }

theorem witness_FramesAreTakenInOrder :
    (∀ x ∈ frameCmds, let f : Frame := { ty := x.2, vc := if x.2 < 5 then 2 else if x.2 = 7 then 0 else 1 }
      f.bare = false ∧ (tPort 0).hears f = true ∧ (tPort 0).hears { f with etype := 0x88B6 } = false ∧
      ((tLink (tPort 0)).linkRx 23 { f with lseq := 5 }).2 = true ∧
      ((tLink (tPort 0)).linkRx 23 { f with lseq := 6 }).2 = false) ∧
    lseqBefore 4 5 = true ∧ lseqBefore 6 5 = false ∧ lseqBefore 65535 5 = true ∧
    (let r := (tLink (tPort 0)).linkRx 23 { ty := 3, vc := 2, lseq := 5, ver := 3 }
     frameOk (r.1.port 23) { ty := 3, vc := 2 } = true ∧ frameOk (r.1.port 23) { ty := 3, vc := 1 } = false) := by
  decide +kernel

/-- The part of the job tables, with a lending window of 2,048 bytes for the job. -/
def tLend : State :=
  let s := tPut (tWork 0) [] tTables
  { s with hbm := { s.hbm with lend := [(0, BitVec.ofNat 64 (2 ^ 63 + 1))], lendJob := [(0, 1)] } }

theorem witness_FramesAreTakenInOrder_delivered :
    (tLend.ctxOfJob 1 = some 0 ∧ tLend.jobEpoch 0 = 3 ∧ tLend.jobMember 0 0 = true ∧ tLend.jobMember 0 9 = false) ∧
    ∀ write : Bool, let f : Frame := { ty := 5, vc := 1, job := 1, epoch := 3, msg := some (.request 7 write 0 2048 64 0 none) }
      let s0 := (tLend.checkE2e [0] 23 f).freeFrame 23 f
      s0.lendAddr f.job 0 2048 = some 0 ∧ s0.lendAddr f.job 0 2049 = none := by
  decide +kernel

theorem witness_LinkUpkeepCompletes :
    (let s := tLink (tPort 0)
     let x := s.port 23
     x.beats = true ∧ s.aon.failed = false ∧ x.live = true ∧ x.en.st ≠ .off ∧ x.missed + 1 < 8 ∧ x.up = true ∧
     x.naked = false ∧ (∀ r ∈ x.replay, r.resent < 8) ∧ (s.linkRx 23 { lseq := 5, ty := 0 }).2 = true ∧
     (s.linkRx 23 { lseq := 6, ty := 0 }).2 = false ∧
     frameOk ((s.linkRx 23 { lseq := 5, ty := 0 }).1.port 23) { lseq := 5, ty := 0 } = true ∧
     frameOk ((s.linkRx 23 { lseq := 5, ty := 0, ver := 2 }).1.port 23) { lseq := 5, ty := 0, ver := 2 } = false ∧
     (s.linkRx 23 { lseq := 5, ty := 0, ver := 2 }).2 = true) ∧
    (∀ ty ∈ [1, 2], (tPort 0).hears { ty := ty } = true ∧ frameOk (tPort 0) { ty := ty } = true ∧
      (tPort 0).hears { ty := ty, ver := 2 } = true ∧ frameOk (tPort 0) { ty := ty, ver := 2 } = false) ∧
    (let s := tLink (tPort 0)
     ({ s with aon := { s.aon with failed := true } } : State).aon.failed = true) ∧
    (let x := { tPort 8 with missed := 7, naked := true }
     x.live = true ∧ x.en.st ≠ .off ∧ x.up = true ∧ 8 ≤ x.missed + 1 ∧ x.naked = true ∧
     x.replay.any (fun r => decide (8 ≤ r.resent)) = true) ∧
    ({ tPort 8 with retraining := true, failedRetrains := 2 } : Port).retraining = true := by
  decide +kernel

theorem witness_FabIdHoldsItsFields :
    (∀ q, q < 24 → tS.portState q = 0) ∧ (tLink (tPort 0)).portState 23 ≠ 0 := by
  decide +kernel

/-! ### Requests -/

/-- The part with its link up at a boot stage; slot 7 is attached or pending, with ADMIN or without, and owns context 0. -/
def tHost (stage st : Nat) (admin : Bool) : State :=
  { tSt tTc { tWork 0 with owner := some 7 } with
    sec := { stage := stage }, host := { link := true, slots := [(7, { st := st, admin := admin, session := 9, high := 4 })] } }
/-- A request of slot 7 with its authentication tag. -/
def tMsg (s : State) (ty : Nat) (m : Ncp) : Ncp := { m with mac := ncpMac (s.slot m.slot).key (ncpReqHeader ty m) m.payload }
def tReq (ctx : Nat) (payload : Bytes) : Ncp := { slot := 7, session := 9, tag := 5, ctx := ctx, payload := payload }

theorem authentic_of {s : State} {ty : Nat} {m : Ncp}
    (h : m.slot < 8 ∧ (s.slot m.slot).st ≠ 0 ∧ m.session = (s.slot m.slot).session) : s.authentic ty (tMsg s ty m) = true := by
  have e : (tMsg s ty m).mac = ncpMac (s.slot (tMsg s ty m).slot).key (ncpReqHeader ty (tMsg s ty m)) (tMsg s ty m).payload := rfl
  simp only [State.authentic, e, beq_self_eq_true, Bool.and_true, Bool.and_eq_true, decide_eq_true_eq, bne_iff_ne,
    beq_iff_eq]
  exact ⟨⟨h.1, h.2.1⟩, h.2.2⟩

theorem accepts_of {s : State} {ty : Nat} {m : Ncp} {p : Perm}
    (h : m.slot < 8 ∧ (s.slot m.slot).st ≠ 0 ∧ m.session = (s.slot m.slot).session)
    (k : s.ncpServed = true ∧ (s.slot m.slot).cache.find? (fun e => e.1 == m.tag) = none ∧
      ((s.slot m.slot).high < m.tag ∧ m.tag ≤ (s.slot m.slot).high + 64) ∧
      (m.ver = 1 ∧ m.flags = 0 ∧ m.status = 0 ∧ m.ctx < 64) ∧ fwType ty = s.romServes ∧
      s.permStatus p m = 0) : NcpAccepts s ty (tMsg s ty m) p :=
  ⟨k.1, authentic_of h, k.2.1, k.2.2.1, k.2.2.2.1, k.2.2.2.2.1, k.2.2.2.2.2⟩

abbrev TAccepts (s : State) (ty ctx : Nat) (payload : Bytes) (p : Perm) : Prop :=
  NcpAccepts s ty (tMsg s ty (tReq ctx payload)) p

theorem witness_RequestsAreChecked :
    (tHost 9 2 false).ncpServed = true ∧ (tHost 9 2 false).authentic 4 { tReq 0 [] with session := 8 } = false ∧
    (tHost 9 2 false).authentic 4 (tMsg (tHost 9 2 false) 4 (tReq 0 [])) = true ∧
    (let r : Reply := ⟨4, 5, 0, 0, []⟩
     let x : AgentSlot := { (tHost 9 2 false).slot 7 with cache := [(5, some r)] }
     x.cache.find? (fun e => e.1 == 5) = some (5, some r)) ∧
    ((tHost 9 2 false).slot 7).cache.find? (fun e => e.1 == 69) = none ∧ ((tHost 9 2 false).slot 7).high + 64 < 69 ∧
    4 ≤ ((tHost 9 2 false).slot 7).high ∧ TAccepts (tHost 9 2 false) 4 0 [] .attached ∧
    TAccepts (tHost 9 2 false) 0x24 63 [1] .session ∧ (tHost 9 2 false).isAdmitted 63 = false ∧
    (let s : State := { tHost 9 2 false with ctxs := [(0, tWork 0)] }
     TAccepts s 0x24 0 [1] .session ∧ s.isAdmitted 0 = true ∧ (s.ctx 0).owner ≠ some 7 ∧ (s.slot 7).admin = false) ∧
    (let s := tHost 9 2 false
     let m := tMsg s 4 { tReq 0 [] with flags := 1 }
     s.authentic 4 m = true ∧ s.romServes = false ∧ m.flags ≠ 0 ∧ (s.slot m.slot).high < m.tag) := by
  refine ⟨by decide +kernel, by decide +kernel, authentic_of (by decide +kernel), by decide, by decide +kernel,
    by decide +kernel, by decide +kernel, accepts_of (by decide +kernel) (by decide +kernel),
    accepts_of (by decide +kernel) (by decide +kernel), by decide +kernel,
    ⟨accepts_of (by decide +kernel) (by decide +kernel), by decide +kernel⟩,
    authentic_of (by decide +kernel), by decide +kernel⟩

theorem witness_ContextRequestsComplete :
    TAccepts (tHost 9 2 false) 0x20 0 (List.replicate 4608 0) .attached ∧ TAccepts (tHost 9 2 false) 0x21 0 [] .owner ∧
    TAccepts (tHost 9 2 false) 0x22 0 [] .owner ∧ ((tHost 9 2 false).ctx 0).kind = 0 ∧
    (∀ u ∈ ((tHost 9 2 false).ctx 0).map, ((tHost 9 2 false).tile u).resident = some 0) ∧
    (let s : State := { tHost 9 2 false with tiles := [] }
     TAccepts s 0x22 0 [] .owner ∧ ∃ u ∈ (s.ctx 0).map, (s.tile u).resident ≠ some 0 ∧ (s.tile u).lentFrom ≠ some 0) ∧
    (let s : State := { tHost 9 2 true with ctxs := [(0, tWork 0)] }
     TAccepts s 0x23 0 [] .adminCtx ∧ (s.ctx 0).owner = none ∧ ∀ e ∈ s.host.unowned, e.2.1 ≠ 0) ∧
    TAccepts (tHost 9 2 false) 0x24 0 [15] .owner ∧ TAccepts (tHost 9 2 false) 0x24 0 [16] .owner ∧
    recN [15] 0 1 < 16 ∧ 16 ≤ recN [16] 0 1 ∧ TAccepts (tHost 9 2 false) 0x25 0 [1, 31, 1, 0] .owner ∧
    TAccepts (tHost 9 2 false) 0x25 0 [2, 31, 1, 0] .owner ∧ recN [1, 31, 1, 0] 0 1 < ((tHost 9 2 false).ctx 0).map.length ∧
    ((tHost 9 2 false).ctx 0).map.length ≤ recN [2, 31, 1, 0] 0 1 ∧ recN [1, 31, 1, 0] 1 1 < 32 ∧
    recN [1, 31, 1, 0] 2 2 ≠ 0 ∧
    TAccepts (tHost 9 2 false) 0x26 0 [15, 1, 31, 1, 2, 0] .owner ∧ recN [15, 1, 31, 1, 2, 0] 0 1 < 16 ∧
    recN [15, 1, 31, 1, 2, 0] 3 1 < 2 := by
  refine ⟨accepts_of (by decide +kernel) (by decide +kernel), accepts_of (by decide +kernel) (by decide +kernel),
    accepts_of (by decide +kernel) (by decide +kernel), by decide +kernel, by decide +kernel,
    ⟨accepts_of (by decide +kernel) (by decide +kernel), 0, by decide +kernel, by decide +kernel⟩,
    ⟨accepts_of (by decide +kernel) (by decide +kernel), by decide +kernel, by decide +kernel⟩,
    accepts_of (by decide +kernel) (by decide +kernel), accepts_of (by decide +kernel) (by decide +kernel),
    by decide +kernel, by decide +kernel, accepts_of (by decide +kernel) (by decide +kernel),
    accepts_of (by decide +kernel) (by decide +kernel), by decide +kernel, by decide +kernel, by decide +kernel,
    by decide +kernel, accepts_of (by decide +kernel) (by decide +kernel), by decide +kernel, by decide +kernel⟩

/-- A queue pair of slot 7 or of another, and a region. -/
def tQp (slot : Nat) : Qp := { slot := slot, peerQpn := 1, gid := 1, mtu := 3, txPsn := 0, rxPsn := 0xFFFFFF }
def tHostQ (slot : Nat) : State :=
  let s := tHost 9 2 true
  { s with host := { s.host with qps := [(1, tQp slot)], regions := [(1, ⟨slot, 1, 0, 0, 64, 3, false⟩)] } }

theorem witness_SlotRequestsComplete :
    TAccepts (tHost 9 1 false) 0x03 0 [] .session ∧ TAccepts (tHost 9 2 false) 0x41 0 [1, 0, 0, 0] .attached ∧
    TAccepts (tHost 9 2 false) 0x30 0 (List.replicate 24 1 ++ [5]) .attached ∧
    recN (List.replicate 24 1 ++ [5]) 24 1 = 5 ∧ (tHost 9 2 false).host.qps.length < 512 ∧
    (∀ k ∈ [7, 6], TAccepts (tHostQ k) 0x31 0 [1, 0, 0, 0] .attached ∧ (tHostQ k).qp (recN [1, 0, 0, 0] 0 4) = some (tQp k)) ∧
    TAccepts (tHostQ 7) 0x32 0 ([1] ++ List.replicate 23 0 ++ [3]) .attached ∧
    (tHostQ 7).qp (recN ([1] ++ List.replicate 23 0 ++ [3]) 0 4) = some (tQp 7) ∧ (tHostQ 7).host.regions.length < 1024 ∧
    (∀ k ∈ [7, 6], TAccepts (tHostQ k) 0x33 0 [1, 0] .attached ∧
      (tHostQ k).region (recN [1, 0] 0 2) = some ⟨k, 1, 0, 0, 64, 3, false⟩ ∧ ((tHostQ k).slot 7).admin = true) ∧
    TAccepts (tHost 9 2 false) 0x34 0 (List.replicate 17 0) .attached ∧ (tHost 9 2 false).isAdmitted 0 = true ∧
    ((tHost 9 2 false).ctx 0).owner = some 7 ∧
    (TAccepts (tHost 9 2 true) 0x34 0 (1 :: List.replicate 16 0) .attached ∧ ((tHost 9 2 true).slot 7).admin = true) ∧
    (let p : Bytes := [0xF8, 0xFF, 0xFF, 3, 1, 8]
     let m := tMsg (tHost 9 2 false) 0x10 (tReq 0 p)
     NcpAccepts (tHost 9 2 false) 0x10 m .attached ∧ cfgForm m = true ∧ cfgMisaligned m = false) ∧
    (let m := tMsg (tHost 9 2 true) 0x11 (tReq 0 [0, 0, 0, 0, 1, 4, 9, 0, 0, 0])
     NcpAccepts (tHost 9 2 true) 0x11 m .admin ∧ cfgForm m = true ∧ m.payload.length = 6 + ncpCount m * ncpWidth m ∧
     cfgMisaligned m = false) := by
  refine ⟨accepts_of (by decide +kernel) (by decide +kernel), accepts_of (by decide +kernel) (by decide +kernel),
    accepts_of (by decide +kernel) (by decide +kernel), by decide +kernel, by decide +kernel, ?_,
    accepts_of (by decide +kernel) (by decide +kernel), by decide +kernel, by decide +kernel, ?_,
    accepts_of (by decide +kernel) (by decide +kernel), by decide +kernel, by decide +kernel,
    ⟨accepts_of (by decide +kernel) (by decide +kernel), by decide +kernel⟩,
    ⟨accepts_of (by decide +kernel) (by decide +kernel), by decide +kernel, by decide +kernel⟩,
    ⟨accepts_of (by decide +kernel) (by decide +kernel), by decide +kernel, by decide +kernel, by decide +kernel⟩⟩
  · intro k hk
    simp only [List.mem_cons, List.not_mem_nil, or_false] at hk
    rcases hk with h | h <;> subst h <;> exact ⟨accepts_of (by decide +kernel) (by decide +kernel), by decide +kernel⟩
  · intro k hk
    simp only [List.mem_cons, List.not_mem_nil, or_false] at hk
    rcases hk with h | h <;> subst h <;> exact ⟨accepts_of (by decide +kernel) (by decide +kernel), by decide +kernel⟩

/-! ### Sessions, the host link and boot -/

/-- An ATTACH of an agent. -/
def tAttach : Ncp := { slot := 0xFF, payload := [1, 1] ++ List.replicate 4192 0, mac := List.replicate 32 0 }
def tAuth : Ncp := { slot := 7, session := 9, payload := List.replicate 4627 0 }

/-- The fuses accept the key of no bytes. -/
def tFused : State :=
  { tHost 9 1 false with fuses := { agents := [(7, { hash := sha3_512 [], valid := true })] } }

/-- Whether a signature verifies is an opaque constant, so one of the two clauses about it holds of this state. -/
theorem witness_SessionsBeginAndEnd :
    (tHost 9 1 false).ncpServed = true ∧ attachOk tAttach = true ∧ recN tAttach.payload 0 1 ≤ 1 ∧
    1 ≤ recN tAttach.payload 1 1 ∧ attachOk { tAttach with tag := 1 } = false ∧
    (let s : State := { tHost 9 1 false with host := { (tHost 9 1 false).host with slots := [(0, { st := 1 })] } }
     (s.slot 1).st = 0 ∧ ∀ b, b < 1 → (s.slot b).st ≠ 0) ∧
    (let l : Tbl AgentSlot := (List.range 8).map fun k => (k, { st := 2 })
     let s : State := { tHost 9 1 false with host := { (tHost 9 1 false).host with slots := l } }
     ∀ a, a < 8 → (s.slot a).st ≠ 0) ∧
    (tHost 9 1 false).sec.stage = 9 ∧ (tHost 9 1 false).authentic 2 (tMsg (tHost 9 1 false) 2 tAuth) = true ∧
    tFused.authentic 2 (tMsg tFused 2 tAuth) = true ∧ tAuth.payload.length = 4627 ∧ (tFused.slot 7).st = 1 ∧
    (tFused.fuses.accepts (tFused.slot 7).agentKey).isSome = true ∧
    (tHost 9 1 false).fuses.accepts ((tHost 9 1 false).slot 7).agentKey = none ∧
    (let x : AgentSlot := { events := [⟨1, 1, 0, [], 0⟩] }
     x.events ≠ []) := by
  refine ⟨by decide +kernel, by decide +kernel, by decide +kernel, by decide +kernel, by decide +kernel,
    by decide +kernel, by decide +kernel, rfl, authentic_of (by decide +kernel), authentic_of (by decide +kernel),
    by decide +kernel, by decide +kernel, by decide +kernel, by decide +kernel, by decide⟩

theorem witness_HostLinkCommandsComplete :
    (let h : HostPort := { en := { st := .starting }, pll := true, runPfc := 13 }
     let s : State := { tS with host := h, sec := { stage := 3 } }
     s.clocked = true ∧ h.en.st ≠ .off ∧ h.pll = true ∧ h.link = false ∧ h.runMode = 0 ∧ anModes.contains 5 = true ∧
     bit h.runPfc 3 = true ∧ fld h.runPfc 0 3 = 5 ∧ fld h.runPfc 0 3 ≠ 4 ∧ h.ipHi.toNat * 2 ^ 64 + (1 : W64).toNat ≠ 0) ∧
    (({ tentative := some 1 } : HostPort).tentative = some 1) ∧
    (let s : State := { tHost 9 2 false with host := { (tHost 9 2 false).host with addr := some 1 } }
     s.host.link = true ∧ s.ownsAddr 1 = true ∧ s.ownsAddr 2 = false ∧ s.ncpServed = true) := by
  decide +kernel

theorem witness_RdmaCompletes :
    (tHostQ 7).host.link = true ∧ (tHostQ 7).sec.stage = 9 ∧ (tHostQ 7).qp 1 = some (tQp 7) ∧
    (tQp 7).rxPsn = 0xFFFFFF ∧ psnBefore 0xFFFFFE (tQp 7).rxPsn = true ∧ psnBefore 0 (tQp 7).rxPsn = false ∧
    (∀ n ∈ [6, 7], let r : RdmaSent := ⟨{ op := .write, qpn := 1, psn := 0 }, 0, n⟩
      let q := { tQp 7 with sent := [r] }
      q.sent ≠ [] ∧ ((∀ r ∈ q.sent, r.retries < 7) ∨ ∃ r ∈ q.sent, 7 ≤ r.retries)) ∧
    (tHostQ 7).host.paused = false ∧ ({ (tHostQ 7).host with paused := true } : HostPort).link = true := by
  decide +kernel

/-- A boot that holds a fetch of slot 7 with a header and the body of no bytes. -/
def tFetch (stage : Nat) (header : Bytes) : State :=
  { tHost stage 1 false with sec := { stage := stage, fetch := some ⟨7, header, []⟩ } }

/-- The first case of an accepted offer needs a signature that verifies, which is opaque; the refused one is shown. -/
theorem witness_BootCommandsComplete :
    (let s : State := { State.reset with pmc := { State.reset.pmc with rst := { level := true } } }
     s.pmc.aon = true ∧ s.pmc.powered = true ∧ s.pmc.resetLevel = true ∧ s.pmc.trip = false ∧ s.sec.stage = 0 ∧
     jtagHolds s.tst.ir = false) ∧
    TAccepts (tHost 4 1 false) 0x50 0 (List.replicate 7424 0) .session ∧
    ((tHost 4 1 false).ncpTaken 0x50 (tMsg (tHost 4 1 false) 0x50 (tReq 0 (List.replicate 7424 0)))).offerResult
      (List.replicate 7424 0) ≠ 0 ∧
    TAccepts (tFetch 5 (leBytes 8 0 ++ leBytes 4 16)) 0x51 0 (List.replicate 20 0) .session ∧
    TAccepts (tFetch 5 []) 0x51 0 ([16] ++ List.replicate 19 0) .session ∧
    recN ([16] ++ List.replicate 19 0 : Bytes) 0 4 ≠ (0 : Nat) ∧
    recN (List.replicate 20 0) 0 4 + 16 ≤ bodyLen (leBytes 8 0 ++ leBytes 4 16) ∧
    TAccepts (tFetch 5 []) 0x52 0 [] .session ∧ bodyLen [] ≤ ([] : Bytes).length ∧ sha3_512 [] ≠ bodyDigest [] ∧
    sha3_512 [] = bodyDigest (List.replicate 64 0 ++ sha3_512 []) ∧
    TAccepts (tFetch 5 []) 0x53 0 [] .session ∧ (tFetch 5 []).sec.holds 7 = true ∧
    (let s : State := { tHost 8 1 false with
        hbm := { State.reset.hbm with stackTbl := (List.range 12).map fun k => (k, { st := .active }) } }
     s.sec.stage = 8 ∧ s.aon.failed = false ∧ ∀ k, k < 12 → (s.stack k).st ≠ .training) ∧
    TAccepts (tHost 9 1 false) 0x05 0 [] .session := by
  refine ⟨by decide +kernel, accepts_of (by decide +kernel) (by decide +kernel), by decide +kernel,
    accepts_of (by decide +kernel) (by decide +kernel), accepts_of (by decide +kernel) (by decide +kernel),
    by decide +kernel, by decide +kernel, accepts_of (by decide +kernel) (by decide +kernel), by decide +kernel,
    by decide +kernel, by decide +kernel, accepts_of (by decide +kernel) (by decide +kernel), by decide +kernel,
    by decide +kernel, accepts_of (by decide +kernel) (by decide +kernel)⟩

theorem witness_FuseProgrammingCompletes :
    (let s : State := { tS with sec := { stage := 9, prog := none } }
     s.sec.stage = 9 ∧ s.sec.prog = none) ∧
    ({ prog := some (0x40, []) } : Sec).prog = some (0x40, []) ∧ ({} : Fuses).svn < 1 ∧ ({} : Fuses).svn < 64 := by
  decide

/-! ### Contexts change places -/

/-- Primary 0 on tiles 0 and 1, primary 1 admitted on them, Layby context 2 on tile 1, and evaluation 3 of primary 0 at
Milestone 2. -/
def tGang (tc : TileCtx) (r0 r1 : Nat) (sw : List Nat) : State :=
  let p : Ctx := { tJob with desc := tDesc 0 9 [] }
  let lb : Ctx := { tCtx with desc := tDesc 1 1 [], map := [1] }
  let ev : Ctx := { tCtx with desc := [2, 1, 0, 0, 0] ++ List.replicate 107 0 ++ leBytes 8 65536 ++ List.replicate 72 0 ++ [2] }
  let s := tSt tc tCtx
  let p0 : Ctx := { p with desc := putRec p.desc 3 1 2 }
  { s with ctxs := [(0, p0), (1, tCtx), (2, lb), (3, ev)], tiles := [(0, tOn r0), (1, tOn r1)],
           tctx := [(0, tc), (1, tc)], ctxBlk := { s.ctxBlk with switches := sw } }

/-- Queue 0 waits for a signal that has not come. -/
def tWaits : TileCtx := { queues := [(0, { tQueue with st := .waiting, waits := .signal 3 8 })], sigs := [(3, 7)] }

theorem witness_ContextSwitchesComplete :
    (let s := tGang tWaits 0 0 [1]
     (∀ b ∈ s.ctxBlk.switches.takeWhile (· != 1), ∀ t ∈ s.switchTiles b, t ∉ s.switchTiles 1) ∧ (s.ctx 1).on = true ∧ (s.ctx 1).ending = false ∧ s.mayGang 1 = true ∧
     1 ∈ s.ctxBlk.switches ∧ 2 ∉ s.ctxBlk.switches) ∧
    (let s := tGang tWaits 0 0 []
     let s' := s.setCtx 0 { s.ctx 0 with job := none }
     (s'.tile 1).resident = some 0 ∧ (s'.ctx 0).vid 1 = some 1 ∧ (s'.ctx 0).kind = 0 ∧ (s'.tile 1).lentFrom = none ∧
     (s'.ctx 0).laybyEn = true ∧ (s'.ctx 0).layby = 2 ∧ (s'.ctx 2).on = true ∧ (s'.ctx 2).ending = false ∧
     (s'.ctx 2).kind = 1 ∧ 1 ∈ (s'.ctx 2).map ∧ s'.ctxBlk.switches = [] ∧ s'.gangPending 1 = false ∧
     (s'.tile 1).runs = true ∧ s'.stalledTile 0 1 = true ∧ s'.atPoint 0 1 = true ∧ s'.sigs = [] ∧ (s'.ctx 0).ending = false) ∧
    (let s := tGang { tWaits with sigs := [(3, 8)] } 0 0 []
     let s' : State := { s with tiles := [(0, tOn 0), (1, { tOn 2 with lentFrom := some 0 })] }
     (s'.tile 1).lentFrom = some 0 ∧ (s'.tile 1).resident = some 2 ∧ (s'.tile 1).en.st ≠ .starting ∧ s'.reclaimable 1 = true ∧ s'.laybyDone 2 1 = true) ∧
    (let s := tGang tWaits 0 0 []
     let s' := s.setCtx 0 { s.ctx 0 with job := some { mstone := 2, begun := false } }
     (s'.ctx 3).kind = 2 ∧ (s'.ctx 3).parent = 0 ∧ (s'.ctx 3).on = true ∧ (s'.ctx 3).ending = false ∧
     s'.evalPending 0 = true ∧ s'.nextEval 0 = some 3 ∧ s'.sigs = [] ∧ ∀ t ∈ (s'.ctx 3).map, (s'.tile t).runs = true ∧
       (s'.tile t).lentFrom = none ∧ (s'.tile t).resident = some 0 ∧ s'.atPoint 0 t = true) ∧
    (∀ st ∈ [EnSt.on, EnSt.stopping], let s := tGang tWaits 3 3 []
      let s' := s.setCtx 3 { s.ctx 3 with en := { st := st } }
      (s'.ctx 3).kind = 2 ∧ (∃ t ∈ (s'.ctx 3).map, (s'.tile t).resident = some 3) ∧ (∀ f ∈ s'.flight, f.ctx ≠ 3) ∧
      (∀ t ∈ (s'.ctx 3).map, (s'.tile t).en.st ≠ .starting) ∧ s'.sigs = [] ∧ (s'.ctx 3).en.st = st ∧
      ∀ v, v < (s'.ctx 3).map.length → ∀ q, q < 4 → (s'.queue 3 v q).st = .idle) ∧
    (let s : State := { tS with ctxs := [(0, { tCtx with en := { st := .stopping } })], flight := [tFlight] }
     s.isAdmitted 0 = true ∧ (s.ctx 0).en.st = .stopping ∧ s.drained 0 = false) := by
  refine ⟨by decide +kernel, by decide +kernel, by decide +kernel, by decide +kernel, by decide +kernel, by decide +kernel⟩

/-! ### Faults and recovery -/

theorem witness_FaultContainmentCompletes :
    (let a : Aon := { wdEn := true }
     a.wdEn = true ∧ a.wdCount + 5 < a.timeout ∧ a.timeout ≤ a.wdCount + a.timeout) ∧
    (State.reset.aon.wdEn = false) ∧
    (let s : State := { tS with tiles := [(255, { tOn 0 with faultCnt := 3 })], ctxs := [],
                                aon := { recRun := BitVec.ofNat 32 (3 * 2 ^ 13) } }
     s.aon.fenceLimit ≠ 0 ∧ s.aon.fenceLimit ≤ (s.tile 255).faultCnt ∧ ({ recRun := 0 } : Aon).fenceLimit = 0 ∧
     (s.tile 255).en.st ≠ .off ∧ s.aon.fence.getLsbD 255 = false) ∧
    (let s : State := { tSt tTc tJob with flight := [tFlight] }
     (∀ e ∈ s.ctxs, e.2.job.isSome = true) ∧ (s.tile 0).en.st ≠ .off ∧ s.aon.fence.getLsbD 0 = false ∧
     (s.ctx tFlight.ctx).phys tFlight.vt = some 0) ∧
    State.reset.aon.fence.getLsbD 255 = false ∧ (({ fence := 1 } : Aon).fence.getLsbD 0 = true) ∧
    ((tS.tile 0).en.st ≠ .off) := by
  decide +kernel

/-- A context of a job in a phase of recovery, with causes raised. -/
def tRec (phase : Nat) (raised : List (Nat × Nat)) (held : Bool) : State :=
  tPut { tWork 0 with recov := { phase := phase, raised := raised }, held := held } [] tTables
/-- A device in the window of a recovery for a FAIL of device 0, which is alive. -/
def tView (fails : List (Nat × Nat × Nat × Nat)) (id : W32) : State :=
  let s := tPut { tWork 0 with recov := { phase := 1, fails := fails, alive := [(0, 0, 2)] } } [] tTables
  { s with fab := { s.fab with id := id } }

theorem witness_RecoveryCommandsComplete :
    (let s := tRec 0 [(3, 0)] false
     (s.ctx 0).recov.raised = (3, 0) :: [] ∧ (s.smap 0).isSome = true ∧ (s.ctx 0).recov.mayEnter = true ∧
     (s.ctx 0).on = true ∧ (s.ctx 0).recov.phase = 0) ∧
    ((tRec 0 [] false).ctx 0).recov.raised = [] ∧
    (∀ ph ∈ [1, 2], ∀ k ∈ [(1, 0), (3, 0)], let s := tRec ph [k] false
     (s.ctx 0).recov.raised = k :: [] ∧ (s.smap 0).isSome = true ∧ (s.ctx 0).recov.phase = ph) ∧
    (∀ k ∈ [([], 0, none), ([(0, 3, 0, 0)], 0, some 0), ([(0, 3, 0, 0)], 5 * 65536, some 0)],
      let s := tView k.1 (BitVec.ofNat 32 k.2.1)
      let view := s.formView 0
      (s.smap 0).isSome = true ∧ (s.ctx 0).recov.phase = 1 ∧
      (s.smap 0).any (fun m => s.leadRank 0 m view (s.formF 0 view) == k.2.2 &&
        (m.rankOf s.fab.devid == some 0) == (k.2.1 == 0)) = true) ∧
    ((tRec 2 [] false).ctx 0).recov.phase = 2 ∧ ((tRec 0 [] false).ctx 0).recov.phase ≠ 2 ∧
    (let f : Frame := { ty := 8, vc := 0, lseq := 5 }
     let s := tLink (tPort 0)
     let r := s.linkRx 23 f
     let s1 := r.1.freeFrame 23 f
     r.2 = true ∧ frameOk (r.1.port 23) f = true ∧
     s1.fab.seen.contains (epochKey f.job f.payload) = false ∧
     (State.flood { s1 with fab := { s1.fab with seen := epochKey f.job f.payload :: s1.fab.seen } } 23 f).ctxOfJob
       f.job = none) ∧
    (let f : Frame := { ty := 8, vc := 0, lseq := 5, job := 1 }
     let s : State := { tPut (tWork 0) [] tTables with fab := { (tLink (tPort 0)).fab with seen := [] } }
     let r := s.linkRx 23 f
     let s1 := r.1.freeFrame 23 f
     r.2 = true ∧ frameOk (r.1.port 23) f = true ∧ (State.flood { s1 with fab := { s1.fab with
       seen := epochKey f.job f.payload :: s1.fab.seen } } 23 f).ctxOfJob f.job = some 0) ∧
    (let f : Frame := { ty := 8, vc := 0, lseq := 5 }
     let s : State := { tS with fab := { (tLink (tPort 0)).fab with seen := [epochKey f.job f.payload] } }
     let r := s.linkRx 23 f
     r.2 = true ∧ (r.1.freeFrame 23 f).fab.seen.contains (epochKey f.job f.payload) = true) ∧
    ((tRec 0 [] false).ctx 0).on = true ∧ ((tRec 0 [] false).ctx 0).recov.phase = 0 ∧
    (let s := tSt tTc { tCtx with held := true }
     (s.ctx 0).on = true ∧ (s.ctx 0).held = true ∧ s.fencedOf 0 = [] ∧ (s.ctx 0).job = none) ∧
    (let s := tRec 3 [] true
     (s.ctx 0).on = true ∧ (s.ctx 0).held = true ∧ s.fencedOf 0 = [] ∧ (s.ctx 0).job.isSome = true ∧
     (s.ctx 0).recov.phase = 3 ∧ ((s.reswitch 0).ctx 0).smapCode = 0) ∧
    (tCtx.held = false) ∧
    (let s := tPut { tWork 0 with desc := putRec (tWork 0).desc 1 1 5, job := some { mstone := 2, epoch := 2 } } [] tTables
     (s.ctx 0).on = true ∧ (s.ctx 0).join = true ∧ ((s.ctx 0).job.any fun j => j.map.isNone) = true ∧
     (s.checkMap 0 (s.ctx 0).smap 3 fun _ => false) = 0 ∧ (s.checkMap 0 (s.ctx 0).smap 4 fun _ => false) = 3) ∧
    (let s := tSt { tArr with arrivedAt := some 3 }
       { tJob with map := [0], deadline := 3, recov := { diagAt := 2 } }
     s.mayArrive 0 = true ∧ (s.ctx 0).diagArmed = true ∧ (s.ctx 0).recov.diagDigest = none) := by
  decide +kernel

/-! ### Power, the board and test -/

theorem witness_EnableCommandsComplete :
    (let l : Tbl Tile := [(0, { en := { st := .starting }, fll := true }), (1, { en := { st := .starting } }),
       (2, { en := { st := .stopping } })]
     let s : State := { tS with tiles := l, ctxs := [] }
     s.clocked = true ∧ s.sec.stage = 9 ∧ s.aon.fence.getLsbD 255 = false ∧ (s.tile 255).en.st = .off ∧
     (s.tile 0).en.st = .starting ∧ bit s.pmc.groupPll (groupOf 0) = true ∧ (s.tile 0).fll = true ∧ s.ctxs = [] ∧
     (s.tile 1).en.st = .starting ∧ (s.tile 1).fll = false ∧ (s.tile 2).en.st = .stopping ∧ (s.uoa 2).waiting = [] ∧
     s.flight = [] ∧ s.pmc.deepState ≠ 2 ∧ s.groupBusy (groupOf 0) = true) ∧
    tS.isAdmitted 0 = true := by
  decide +kernel

theorem witness_ClockCommandsComplete :
    (let s : State := { tS with pmc := { tS.pmc with point := 0, thermCap := 2 } }
     s.clocked = true ∧ s.pmc.point < s.pmc.required) ∧
    (let s : State := { tS with pmc := { tS.pmc with point := 2, thr := { accepted := true } } }
     s.clocked = true ∧ s.pmc.required < s.pmc.point ∧ s.pmc.raising = none) ∧
    (let s : State := { tS with pmc := { tS.pmc with point := 2, thr := { accepted := true }, thermCap := 1, raising := some 0 } }
     s.clocked = true ∧ s.pmc.raising = some 0 ∧ 0 < s.pmc.required ∧ s.pmc.required < s.pmc.point) ∧
    (let s : State := { tS with pmc := { tS.pmc with point := 1, thr := { accepted := true }, thermCap := 1, raising := some 0 } }
     s.clocked = true ∧ s.pmc.raising = some 0 ∧ s.pmc.required = s.pmc.point) ∧
    (let s : State := { tSt {} tCtx with tiles := [(0, tOn 0), (1, { tOn 0 with sub := .clockStopped })], ctxs := [] }
     (s.tile 0).runs = true ∧ s.quiet 0 = true ∧ (s.tile 1).en.st = .on ∧ (s.tile 1).sub = .clockStopped ∧ s.clocked = true ∧
     s.pmc.deepState ≠ 2) ∧
    tS.quiet 0 = false ∧
    (let h : Hbm := { tS.hbm with stackTbl := [(11, { st := .active })] }
     let l : Tbl Tile := [(0, { tOn 0 with resident := none, sub := .retained })]
     let s : State := { tSt {} {} with tiles := l, ctxs := [], pmc := { tS.pmc with deep := true }, hbm := h }
     s.clocked = true ∧ s.sec.stage = 9 ∧ s.pmc.deep = true ∧ s.pmc.deepState < 2 ∧ s.sleepReady = true ∧
     Tbl.find s.hbm.stackTbl 11 = some { st := .active }) ∧
    (({ deepState := 3 } : Pmc).deepState = 3) := by
  decide +kernel

theorem witness_BoardInputsComplete :
    (let k := State.reset.pmc
     k.aon = true ∧ true ≠ k.thr.accepted ∧ k.stopped = true ∧ ({ k with stopped := false } : Pmc).stopped = false) ∧
    (let k : Pmc := { thr := { level := true }, rst := { accepted := true } }
     k.aon = true ∧ k.thr.level ≠ k.thr.accepted ∧ k.rst.accepted = true ∧ k.resetLevel = false) ∧
    (({ powered := false } : Pmc).powered = false) ∧
    (let k : Pmc := { low := [0, 1, 2, 3, 4, 5] }
     k.aon = true ∧ ∀ r, r < 6 → r ∈ k.low) ∧
    (let k : Pmc := { low := [0, 1, 2, 3, 4] }
     k.aon = true ∧ ∃ r, r < 6 ∧ r ∉ k.low) := by
  refine ⟨by decide, by decide, rfl, by decide, ⟨rfl, 5, by decide, by decide⟩⟩

theorem witness_ThermalCommandsComplete :
    State.reset.pmc.aon = true ∧ State.reset.pmc.powered = true ∧
    (let k : Pmc := { tripDue := true }
     k.tripDue = true ∧ k.trip = false) ∧ (({ trip := true } : Pmc).trip = true) := by
  decide

theorem witness_BoardBusAndCountersComplete :
    State.reset.pmc.answers = true ∧ (({ powered := false } : Pmc).answers = false) ∧
    State.reset.pmc.pecOk 0x05 (leBytes 2 700) (pecOf ([0xB0, 0x05] ++ leBytes 2 700)) = true ∧
    State.reset.pmc.pecOk 0x05 (leBytes 2 700) (pecOf ([0xB0, 0x05] ++ leBytes 2 700) ^^^ 1) = false ∧
    State.reset.pmc.pecOk 0x06 (smbBlock (List.replicate 32 7)) (pecOf ([0xB0, 0x06] ++ smbBlock (List.replicate 32 7))) = true ∧
    State.reset.pmc.pecOk 0x06 (smbBlock [7]) (pecOf ([0xB0, 0x06] ++ smbBlock [7]) ^^^ 1) = false ∧
    bit State.reset.cnt.trcCtl.toNat 63 = false := by
  decide +kernel

theorem witness_EchoStoresAndReturns :
    State.reset.pmc.answers = true ∧ 1 ≤ ([7] : Bytes).length ∧ (List.replicate 32 7 : Bytes).length ≤ 32 ∧
    (let sum : Byte := pecOf ([BitVec.ofNat 8 (2 * (0x58 + State.reset.pmc.smbAddr)), 0x06] ++ (leBytes 1 1 ++ [7]))
     sum ^^^ 1 ≠ sum) ∧ (({ powered := false } : Pmc).powered = false) := by
  decide +kernel

theorem witness_TestCommandsComplete :
    tS.clocked = true ∧
    (∀ w : Bool, let l : LoopBack := { run := true, want := w }
      l.run = true ∧ l.waits = false ∧ l.want = w) ∧
    (∀ d ∈ [2, 3], let s : State := { tS with tst := { hbms := [(11, { run := true, runDepth := d })], mesh := { run := true } } }
     (s.hbmLb 11).run = true ∧ (s.hbmLb 11).runDepth = d ∧ s.tst.mesh.run = true ∧ tS.tst.mesh.run = false) ∧
    (tS.sec.stage = 9 ∧ (tS.lb 24).run = false ∧ (tS.hbmLb 11).run = false ∧ bit (2 ^ 63) 63 = true) ∧
    (let s : State := { tS with hbm := { tS.hbm with layout := BitVec.ofNat 64 (2 ^ 36), stackTbl := [(10, { st := .lost })] } }
     bit s.hbm.layout.toNat (25 + 11) = true ∧ (s.stack 10).st = .lost ∧ bit s.hbm.layout.toNat (25 + 9) = false ∧
     (s.stack 9).st ≠ .lost) ∧
    (let s : State := { tS with hbm := { tS.hbm with stackTbl := [(11, { st := .active })] } }
     s.tst.frozen 0 = false ∧ (s.stack 11).st = .active) ∧
    (let s := tLink (tPort 0)
     s.tst.frozen 1 = false ∧ s.adapts 23 = true) ∧
    (let s : State := { tSt {} {} with tiles := [], tst := { droop := [(15, { thresh := 3 })] } }
     s.tst.frozen 2 = false ∧ s.calmGroup 15 = true ∧ (s.droop 15).thresh < 4 ∧ 2 < (s.droop 15).thresh) ∧
    tS.tst.frozen 3 = false ∧ (({ calCtl := 8 } : Tst).frozen 3 = true) ∧
    (Tbl.get ({} : Therm) tS.tst.therm 19).offset ≤ 32 := by
  decide +kernel

theorem witness_TestPortCompletes :
    State.reset.tapOn = true ∧ jtagCodes.contains (0xFF % 256) = false ∧ State.reset.fuses.lifecycle ≠ 0 ∧
    (({ lifecycle := 0 } : Fuses).lifecycle = 0) ∧ 0x3FFFFF8 < 2 ^ 26 ∧ 0x3FFFFF8 % 8 = 0 ∧
    0x3FFFFF9 % 8 ≠ 0 := by
  decide

theorem witness_RegisterWritesComplete :
    tS.clocked = true ∧ ((tS.regOf 0x01000148).any fun r => r.1.bytes == 8) = true ∧
    ((tS.regOf 0x0100014C).any fun r => r.1.bytes == 8) = true ∧
    (tS.regOf 0x3FFFFFC = none ∧ 0x3FFFFFC + 4 ≤ 2 ^ 26) ∧ 0x3FFFFFC % 8 ≠ 0 ∧ State.reset.clocked = false := by
  decide +kernel

/-! ### Steps, issue and the invariant -/

theorem witness_StepRunsFrontCommand :
    (let s : State := { tS with pending := [.pet, .snapNow] }
     s.pending = .pet :: [.snapNow]) ∧ tS.pending = [] := by decide

theorem witness_IssueTakesItsPlace :
    tS.untraced (tE tS (tI 7 0 0)) ∧
    ({ tS with cnt := { tS.cnt with trcCtl := BitVec.ofNat 64 (2 ^ 63) } } : State).untraced (tE tS (tI 7 0 0)) := by
  exact ⟨Or.inl (by decide +kernel), Or.inr (by decide +kernel)⟩

theorem witness_StepKeepsFuses :
    State.reset.fuses.legal ∧ ∃ t, Machine.step { State.reset with pending := [.pet] } = .next t :=
  ⟨⟨by decide, by decide, by decide, by decide⟩, _, rfl⟩

/-! ### Values worked out outside the model

Chapter 2's worked encodings and its vector file, and the published check values of CRC-32C, of the packet error code's
CRC-8 and of SHA3-512. -/

theorem test_e6m9_worked :
    convTo 3 false .nearest (decF32 0x3DCCCCCD) = some ⟨0x3733, 0, false⟩ ∧
    convTo 3 false .nearest (decF32 0x4F800000) = some ⟨0x7E00, 4, false⟩ ∧
    convTo 3 false (.stochastic 0x2A6F091300000000) (decF32 0x3DCCCCCD) = some ⟨0x3733, 0, false⟩ ∧
    convTo 3 false (.stochastic 0xD000000000000000) (decF32 0x3DCCCCCD) = some ⟨0x3734, 0, false⟩ := by decide +kernel
theorem test_e6m9_codes :
    decElem 3 0x0001 = .fin false 1 (-39) ∧ elemToF32 3 0x0200 = 0x30800000 ∧ elemToF32 3 0x3E00 = one32 ∧
    elemToF32 3 0x7E00 = inf32 false ∧ elemToF32 3 0x8000 = 0x80000000 ∧
    convTo 3 true .nearest (decF32 0x4F800000) = some ⟨0x7DFF, 8, true⟩ := by decide +kernel
theorem test_zero_signs :
    (fadd 0x3F800000 0xBF800000).v = 0 ∧ (fadd 0x80000000 0x80000000).v = 0x80000000 ∧
    (fminimum 0 0x80000000).v = 0x80000000 ∧ (fmaximum 0x80000000 0).v = 0 ∧ (fadd 0x7F800000 0xFF800000).fl = 1 := by
  decide +kernel
def tDigits : Bytes := [0x31, 0x32, 0x33, 0x34, 0x35, 0x36, 0x37, 0x38, 0x39]
theorem test_crc32c : crc32c tDigits = 0xE3069283 := by decide +kernel
theorem test_pec : pecOf tDigits = 0xF4 := by decide +kernel
theorem test_sha3_512 : (sha3_512 []).take 4 = [0xA6, 0x9F, 0x73, 0xCC] := by decide +kernel

end Sys2Proof.Machine
end

section
/-! SUPPORT. What bad codes, events, stores, requests and moves leave as it is: the contents of HBM, and the places at which
instructions issue. -/

namespace Sys2Proof.Machine

/-- What every step of a fold keeps, the fold keeps. -/
theorem foldl_keeps {α β γ : Type} (π : α → γ) {f : α → β → α} (h : ∀ a b, π (f a b) = π a) (l : List β) (a : α) :
    π (l.foldl f a) = π a := by
  induction l generalizing a with
  | nil => rfl
  | cons b l ih => exact (ih (f a b)).trans (h a b)

/-! ### HBM accesses: what they leave as it is (11_memory_tiers R341) -/

@[simp] theorem State.ev_trcCtl (s : State) (e u : Nat) (l : List Nat) (n : Nat) :
    (s.ev e u l n).cnt.trcCtl = s.cnt.trcCtl := by
  unfold State.ev; split <;> rfl

/-- A bad burst is met: the step of the folds in `State.hbmRead` and `State.hbmWrite`. -/
def State.meetBurst (s : State) (e : Nat × Health) : State :=
  match e.2 with
  | .single => s.hbmCe e.1
  | .uncorrectable => s.hbmUe false e.1

/-- The parts of the state that no bad burst touches. -/
def State.besideCodes (s : State) : Tbl Tile × Tbl TileCtx × Tbl Ctx × W64 × Mem :=
  (s.tiles, s.tctx, s.ctxs, s.cnt.trcCtl, s.hbm.mem)

theorem State.meetBurst_besideCodes (s : State) (e : Nat × Health) :
    (s.meetBurst e).besideCodes = s.besideCodes := by
  obtain ⟨k, h⟩ := e
  cases h with
  | single => simp [State.besideCodes, State.meetBurst, State.hbmCe, State.ev_tiles, isTileEvent, State.setStack]
  | uncorrectable => simp [State.besideCodes, State.meetBurst, State.hbmUe, State.ev_tiles, isTileEvent, State.setStack]

theorem State.hbmRead_besideCodes (s : State) (a n : Nat) : (s.hbmRead a n).s.besideCodes = s.besideCodes :=
  foldl_keeps State.besideCodes State.meetBurst_besideCodes (s.badBursts a n) s

/-- A write to HBM puts its bytes in memory and leaves the rest of what no bad burst touches. -/
theorem State.hbmWrite_besideCodes (s : State) (a : Nat) (bs : Bytes) :
    (s.hbmWrite a bs).besideCodes =
      (s.tiles, s.tctx, s.ctxs, s.cnt.trcCtl, memWriteBytes s.hbm.mem a bs) := by
  have met (l : List (Nat × Health)) : (l.foldl State.meetBurst s).besideCodes = s.besideCodes :=
    foldl_keeps State.besideCodes State.meetBurst_besideCodes l s
  exact congrArg (fun b => (b.1, b.2.1, b.2.2.1, b.2.2.2.1, memWriteBytes b.2.2.2.2 a bs)) (met _)

@[simp] theorem State.hbmRead_tiles (s : State) (a n : Nat) : (s.hbmRead a n).s.tiles = s.tiles :=
  congrArg (·.1) (s.hbmRead_besideCodes a n)
@[simp] theorem State.hbmRead_ctxs (s : State) (a n : Nat) : (s.hbmRead a n).s.ctxs = s.ctxs :=
  congrArg (·.2.2.1) (s.hbmRead_besideCodes a n)
@[simp] theorem State.hbmWrite_tiles (s : State) (a : Nat) (bs : Bytes) : (s.hbmWrite a bs).tiles = s.tiles :=
  congrArg (·.1) (s.hbmWrite_besideCodes a bs)
@[simp] theorem State.hbmWrite_tctx (s : State) (a : Nat) (bs : Bytes) : (s.hbmWrite a bs).tctx = s.tctx :=
  congrArg (·.2.1) (s.hbmWrite_besideCodes a bs)
@[simp] theorem State.hbmWrite_ctxs (s : State) (a : Nat) (bs : Bytes) : (s.hbmWrite a bs).ctxs = s.ctxs :=
  congrArg (·.2.2.1) (s.hbmWrite_besideCodes a bs)
@[simp] theorem State.hbmWrite_trcCtl (s : State) (a : Nat) (bs : Bytes) :
    (s.hbmWrite a bs).cnt.trcCtl = s.cnt.trcCtl :=
  congrArg (·.2.2.2.1) (s.hbmWrite_besideCodes a bs)
@[simp] theorem State.hbmWrite_mem (s : State) (a : Nat) (bs : Bytes) :
    (s.hbmWrite a bs).hbm.mem = memWriteBytes s.hbm.mem a bs :=
  congrArg (·.2.2.2.2) (s.hbmWrite_besideCodes a bs)

/-! ### Places: which context a tile holds, and the tiles of a context

A move changes neither, so that the place at which it issued stays the place of its queue. -/

/-- The contexts resident on the tiles, and the tile maps of the contexts. -/
def State.places (s : State) : (Nat → Option Nat) × (Nat → List Nat) :=
  (fun t => (s.tile t).resident, fun c => (s.ctx c).map)

theorem State.places_congr {s t : State} (ht : t.tiles = s.tiles) (hc : t.ctxs = s.ctxs) : t.places = s.places := by
  simp [State.places, State.tile, State.ctx, ht, hc]

theorem State.setTile_places {s : State} {t : Nat} {x : Tile} (h : x.resident = (s.tile t).resident) :
    (s.setTile t x).places = s.places := by
  have keep (u : Nat) : ((s.setTile t x).tile u).resident = (s.tile u).resident := by
    rw [State.tile_setTile]
    split
    · subst u; exact h
    · rfl
  simp [State.places, keep]

theorem State.setCtx_places {s : State} {c : Nat} {x : Ctx} (h : x.map = (s.ctx c).map) :
    (s.setCtx c x).places = s.places := by
  have keep (d : Nat) : ((s.setCtx c x).ctx d).map = (s.ctx d).map := by
    rw [State.ctx_setCtx]
    split
    · subst d; exact h
    · rfl
  simp [State.places, keep]

@[simp] theorem State.ev_resident (s : State) (e u : Nat) (l : List Nat) (n t : Nat) :
    ((s.ev e u l n).tile t).resident = (s.tile t).resident :=
  (congrArg Tile.resident (s.ev_tile e u l n t) :)

@[simp] theorem State.ev_store (s : State) (e u : Nat) (l : List Nat) (n t : Nat) :
    ((s.ev e u l n).tile t).store = (s.tile t).store :=
  (congrArg Tile.store (s.ev_tile e u l n t) :)

@[simp] theorem State.ev_places (s : State) (e u : Nat) (l : List Nat) (n : Nat) : (s.ev e u l n).places = s.places := by
  simp [State.places, State.ctx]

@[simp] theorem State.evTile_places (s : State) (e t n : Nat) : (s.evTile e t n).places = s.places :=
  s.ev_places e t _ n

@[simp] theorem State.hbmWrite_places (s : State) (a : Nat) (bs : Bytes) : (s.hbmWrite a bs).places = s.places :=
  State.places_congr (by simp) (by simp)

theorem State.ctxRead_places {s : State} {c a n : Nat} {r : Rd} (h : s.ctxRead c a n = some r) :
    r.s.places = s.places := by
  obtain ⟨d, -, rfl⟩ := Option.map_eq_some_iff.mp h
  exact State.places_congr (by simp) (by simp)

@[simp] theorem State.hardEvent_places (s : State) (t : Nat) : (s.hardEvent t).places = s.places := by
  rw [State.hardEvent, State.evTile_places]
  exact State.setTile_places rfl

@[simp] theorem State.storeUe_places (s : State) (t : Nat) (scrub : Bool) (req w : Nat) :
    (s.storeUe t scrub req w).places = s.places := by
  rw [State.storeUe, State.hardEvent_places, State.evTile_places]
  exact State.setTile_places rfl

@[simp] theorem State.storeCe_places (s : State) (t w : Nat) : (s.storeCe t w).places = s.places := by
  rw [State.storeCe, State.evTile_places]
  exact State.setTile_places rfl

/-- A bad word is met: the step of the folds in `State.storeRead` and `State.storeWrite`. -/
def State.meetWord (t req : Nat) (s : State) (e : Nat × Health) : State :=
  match e.2 with
  | .single => s.storeCe t e.1
  | .uncorrectable => s.storeUe t false req e.1

theorem State.meetWord_places (t req : Nat) (s : State) (e : Nat × Health) :
    (State.meetWord t req s e).places = s.places := by
  unfold State.meetWord
  split
  · exact s.storeCe_places t e.1
  · exact s.storeUe_places t false req e.1

@[simp] theorem State.storeRead_places (s : State) (t req a n : Nat) : (s.storeRead t req a n).s.places = s.places :=
  foldl_keeps State.places (State.meetWord_places t req) ((s.tile t).badWords a n) s

@[simp] theorem State.storeWrite_places (s : State) (t req a : Nat) (bs : Bytes) :
    (s.storeWrite t req a bs).places = s.places := by
  unfold State.storeWrite
  refine (State.setTile_places ?_).trans ?_
  · rfl
  · exact foldl_keeps State.places (State.meetWord_places t req) _ s

@[simp] theorem State.meshWord_places (s : State) (t : Nat) (bad : Bool) : (s.meshWord t bad).places = s.places := by
  unfold State.meshWord
  split
  · rw [State.hardEvent_places, State.evTile_places]
    exact State.setTile_places rfl
  · exact s.evTile_places _ t 1

@[simp] theorem State.meshWords_places (s : State) (tiles : List Nat) (l : List (Nat × Bool)) :
    (s.meshWords tiles l).1.places = s.places :=
  foldl_keeps State.places (fun (st : State) (x : Nat × Bool) => st.meshWord_places x.1 x.2) _ s

@[simp] theorem State.readLocal_places (s : State) (e : Env) (m : Move) : (s.readLocal e m).s.places = s.places := by
  refine foldl_keeps (fun r : MoveRd => r.s.places) (fun r i => ?_) (List.range m.rows) ⟨s, [], false⟩
  dsimp only
  split
  · split
    · next hr => exact State.ctxRead_places hr
    · rfl
  · exact State.storeRead_places ..

@[simp] theorem State.putTensor_places (s : State) (c : Nat) (x : Tensor) : (s.putTensor c x).places = s.places := by
  unfold State.putTensor
  split
  · exact State.hbmWrite_places ..
  · rfl

@[simp] theorem State.formChats_places (s : State) (c : Nat) : (s.formChats c).places = s.places := by
  unfold State.formChats
  split
  · rfl
  split
  · rfl
  split
  · rfl
  refine (State.setCtx_places ?_).trans (foldl_keeps State.places (fun st x => ?_) _ s)
  · rfl
  dsimp only
  split
  · rfl
  split
  · exact State.putTensor_places ..
  · exact (State.ev_places ..).trans (State.putTensor_places ..)

@[simp] theorem State.settleChats_places (s : State) : s.settleChats.places = s.places :=
  foldl_keeps State.places State.formChats_places _ s

@[simp] theorem State.dataWrite_places (s : State) (a : Nat) (bs : Bytes) : (s.dataWrite a bs).places = s.places := by
  rw [State.dataWrite, State.settleChats_places]
  split
  · exact s.hbmWrite_places a bs
  · exact foldl_keeps State.places (fun (st : State) (p : Nat × Bytes) => st.hbmWrite_places p.1 p.2) _ s

@[simp] theorem State.ctxStore_places (s : State) (c a : Nat) (bs : Bytes) : (s.ctxStore c a bs).places = s.places := by
  unfold State.ctxStore
  split
  · exact State.dataWrite_places ..
  · rfl

@[simp] theorem State.writeLocal_places (s : State) (e : Env) (m : Move) (rows : List (Nat × Bytes)) :
    (s.writeLocal e m rows).places = s.places := by
  unfold State.writeLocal
  split
  · exact foldl_keeps State.places (fun _ _ => State.ctxStore_places ..) rows s
  · exact foldl_keeps State.places
      (fun st _ => foldl_keeps State.places (fun _ _ => State.storeWrite_places ..) rows st) _ s

/-! ### Requests to the host and to peers keep the places -/

@[simp] theorem State.transmit_places (s : State) (p : Nat) (t : TxFrame) : (s.transmit p t).places = s.places := by
  unfold State.transmit
  dsimp only
  split <;> rfl

@[simp] theorem State.drainPort_places (p n : Nat) (s : State) : (State.drainPort p n s).places = s.places := by
  induction n generalizing s with
  | zero => rfl
  | succ n ih =>
    unfold State.drainPort
    split
    · rfl
    · rw [ih, State.transmit_places]; rfl

@[simp] theorem State.enqueue_places (s : State) (p : Nat) (t : TxFrame) : (s.enqueue p t).places = s.places :=
  State.drainPort_places ..

@[simp] theorem State.route_places (s : State) (t : TxFrame) : (s.route t).places = s.places := by
  unfold State.route
  split
  · rfl
  split
  · rfl
  · exact foldl_keeps State.places (fun _ _ => State.enqueue_places ..) _ s

@[simp] theorem State.sendFrame_places (s : State) (f : Frame) : (s.sendFrame f).places = s.places := by
  unfold State.sendFrame
  dsimp only
  split
  · rfl
  · exact State.route_places ..

@[simp] theorem State.rdmaEmit_places (s : State) (p : Rdma) : (s.rdmaEmit p).places = s.places := by
  unfold State.rdmaEmit
  split <;> rfl

@[simp] theorem State.newRemote_places (s : State) (r : Remote) : (s.newRemote r).places = s.places := rfl

@[simp] theorem State.hostPart_places (s : State) (h : Nat) (r : Remote) (a : Nat) (data : Bytes) :
    (s.hostPart h r a data).places = s.places := by
  unfold State.hostPart
  split
  · rfl
  split
  · rfl
  · exact State.rdmaEmit_places ..

@[simp] theorem State.hostAccess_places (s : State) (c : Nat) (key : List Nat) (a n : Nat) (write : Bool) (data : Bytes) :
    (s.hostAccess c key a n write data).places = s.places :=
  foldl_keeps State.places (fun _ _ => State.hostPart_places ..) _ s

@[simp] theorem State.peerAccess_places (s : State) (c : Nat) (key : List Nat) (dev a n : Nat) (write : Bool)
    (data : Bytes) (queue : Option Nat) (last : Bool) :
    (s.peerAccess c key dev a n write data queue last).places = s.places := by
  refine foldl_keeps State.places (fun st p => ?_) _ s
  rw [State.sendFrame_places, State.newRemote_places]

@[simp] theorem State.farRow_places (s : State) (f : Flight) (space i a n : Nat) (write : Bool) (data : Bytes)
    (peer : Nat) (queue : Option Nat) (last : Bool) :
    (s.farRow f space i a n write data peer queue last).places = s.places := by
  unfold State.farRow
  split
  · exact State.hostAccess_places ..
  · exact State.peerAccess_places ..

/-! ### Moves keep the places -/

@[simp] theorem State.moveWrite_places (s : State) (f : Flight) (d : Bytes) (rows : List (Nat × Bytes)) :
    (s.moveWrite f d rows).1.places = s.places := by
  unfold State.moveWrite
  dsimp only
  split
  · exact State.writeLocal_places ..
  · exact foldl_keeps State.places (fun _ _ => State.farRow_places ..) rows s

@[simp] theorem State.moveRun_places (s : State) (f : Flight) (d : Bytes) (upset : Upset) :
    (s.moveRun f d upset).1.places = s.places := by
  unfold State.moveRun
  dsimp only
  split
  · simp
  · exact foldl_keeps State.places (fun _ _ => State.farRow_places ..) _ s

@[simp] theorem State.moveTry_places (s : State) (f : Flight) (d : Bytes) (upset : Upset) :
    (s.moveTry f d upset).1.places = s.places := by
  unfold State.moveTry
  dsimp only
  split
  · exact State.moveRun_places ..
  · rfl

end Sys2Proof.Machine
end

section
/-! What issue leaves as it is, what a write of software to HBM comes to, and MOV to HBM (O17). -/

namespace Sys2Proof.Machine

/-! ### Issue: what an instruction that goes on leaves as it is -/

@[simp] theorem Queue.setIreg_st (q : Queue) (i : Nat) (v : W32) : (q.setIreg i v).st = q.st := by
  unfold Queue.setIreg; split <;> rfl

theorem loopEnd_st (l : List LoopFrame) (q : Queue) (pc : Nat) : (loopEnd l q pc).st = q.st := by
  induction l generalizing q pc with
  | nil => rfl
  | cons f fs ih =>
    unfold loopEnd
    dsimp only
    split
    · split
      · exact q.setIreg_st ..
      · exact (ih _ pc).trans (q.setIreg_st ..)
    · rfl

@[simp] theorem Queue.advance_st (q : Queue) : q.advance.st = q.st := loopEnd_st ..

/-- A trace record changes counters and HBM alone. -/
theorem State.traceWrite_keeps (s : State) (rec : Bytes) :
    (s.traceWrite rec).tiles = s.tiles ∧ (s.traceWrite rec).tctx = s.tctx ∧ (s.traceWrite rec).ctxs = s.ctxs := by
  unfold State.traceWrite
  dsimp only
  split
  · exact ⟨rfl, rfl, rfl⟩
  split
  · exact ⟨rfl, rfl, rfl⟩
  · exact ⟨State.hbmWrite_tiles .., State.hbmWrite_tctx .., State.hbmWrite_ctxs ..⟩

theorem State.traceTile_keeps (s : State) (ty c t q step seq : Nat) (data : Bytes) :
    (s.traceTile ty c t q step seq data).tiles = s.tiles ∧ (s.traceTile ty c t q step seq data).tctx = s.tctx ∧
      (s.traceTile ty c t q step seq data).ctxs = s.ctxs := by
  unfold State.traceTile
  split
  · exact s.traceWrite_keeps _
  · exact ⟨rfl, rfl, rfl⟩

/-- The state of an instruction that has issued, before the trace record of its issue. -/
def State.issued (s : State) (e : Env) (f : Flight → Flight) (k : Queue → Queue) : State :=
  let tc := s.tc e.c e.v
  let tc1 := if wWaits e.w then tc.setSig (wWSig e.w) (tc.sig (wWSig e.w) - wWCount e.w) else tc
  let s1 := s.setTc e.c e.v (tc1.setQ e.q (k { tc1.q e.q with st := .running, seq := e.qu.seq + 1 }))
  State.evTile { s1 with flight := s1.flight ++ [f e.flight] } 0x001 e.t

section Commit
variable (s : State) (e : Env) (f : Flight → Flight) (k : Queue → Queue)

theorem State.commit_eq : s.commit e f k =
    if bit (fld (s.issued e f k).cnt.trcCtl.toNat 40 8) e.cls then
      (s.issued e f k).traceTile 1 e.c e.t e.q e.qu.step (e.qu.num % 2 ^ 32) (leBytes 1 e.cls ++ leBytes 1 e.op)
    else s.issued e f k := rfl

/-- The trace record of an issue changes neither tiles nor the sequencer's state nor the contexts. -/
theorem State.commit_keeps : (s.commit e f k).tiles = (s.issued e f k).tiles ∧
    (s.commit e f k).tctx = (s.issued e f k).tctx ∧ (s.commit e f k).ctxs = (s.issued e f k).ctxs := by
  rw [State.commit_eq]
  split
  · exact State.traceTile_keeps ..
  · exact ⟨rfl, rfl, rfl⟩

@[simp] theorem State.issued_trcCtl : (s.issued e f k).cnt.trcCtl = s.cnt.trcCtl := by
  simp [State.issued, State.evTile]
@[simp] theorem State.issued_hbm : (s.issued e f k).hbm = s.hbm := by
  simp [State.issued, State.evTile]

theorem State.commit_places : (s.commit e f k).places = s.places := by
  obtain ⟨htiles, -, hctxs⟩ := s.commit_keeps e f k
  exact (State.places_congr htiles hctxs).trans (State.evTile_places ..)

theorem State.commit_store (v : Nat) : ((s.commit e f k).tile v).store = (s.tile v).store := by
  obtain ⟨htiles, -, -⟩ := s.commit_keeps e f k
  have hev : ((s.issued e f k).tile v).store = (s.tile v).store := State.ev_store ..
  rw [← hev, State.tile, htiles, State.tile]

/-- The queue of an instruction that has issued and passes on runs. -/
theorem State.commit_queue_st (hk : ∀ q, (k q).st = q.st) : ((s.commit e f k).queue e.c e.v e.q).st = .running := by
  obtain ⟨-, htctx, -⟩ := s.commit_keeps e f k
  have hq : (s.commit e f k).queue e.c e.v e.q = (s.issued e f k).queue e.c e.v e.q := by
    simp [State.queue, State.tc, htctx]
  rw [hq]
  simp [State.queue, State.issued, State.evTile, State.tc, State.setTc, hk]

/-- An instruction whose issue is not traced leaves HBM. -/
theorem State.commit_hbm (h : s.untraced e) : (s.commit e f k).hbm = s.hbm := by
  rw [State.commit_eq, State.issued_trcCtl]
  rcases h with h | h
  · have hoff : (s.issued e f k).cnt.traces 1 e.c = false := by
      simpa [Cnt.traces] using h
    simp [State.traceTile, hoff]
  · simp [h]

end Commit

/-- An instruction that has issued and passes on leaves its queue running, so no endpoint is noted as stalled. -/
theorem State.noteStall_commit {s t : State} {i : Issue} {e : Env} (f : Flight → Flight)
    (hi : s.issueEnv i = some e) (hp : t.places = s.places) :
    (t.commit e f Queue.advance).noteStall i = t.commit e f Queue.advance := by
  have hplaces := (t.commit_places e f Queue.advance).trans hp
  have hrun := t.commit_queue_st e f Queue.advance Queue.advance_st
  generalize t.commit e f Queue.advance = u at hplaces hrun
  unfold State.noteStall
  cases hu : u.issueEnv i with
  | none => rfl
  | some e' =>
    obtain ⟨hres, hvid, he⟩ := State.issueEnv_some hi
    obtain ⟨hres', hvid', he'⟩ := State.issueEnv_some hu
    have hc : e'.c = e.c := by
      have hhome : (u.tile i.tile).resident = (s.tile i.tile).resident := congrFun (congrArg Prod.fst hplaces) i.tile
      rw [hres, hres'] at hhome
      exact Option.some.inj hhome
    have hv : e'.v = e.v := by
      have hmap : (u.ctx e.c).map = (s.ctx e.c).map := congrFun (congrArg Prod.snd hplaces) e.c
      rw [hc, Ctx.vid, hmap] at hvid'
      exact Option.some.inj (hvid'.symm.trans hvid)
    have hq : e'.q = e.q := by rw [he', he]
    simp [hc, hv, hq, hrun]

/-! ### Posts and moves -/

/-- A post reads its descriptor from the tile store, and nothing is in its way. -/
theorem State.post_of_postsDesc {s : State} {i : Issue} {cls op : Nat} {e : Env} {d : Bytes}
    (h : PostsDesc s i cls op e d) (k : State → Bytes → Bool → Act) : s.post e k = k s d false := by
  obtain ⟨-, hplain, haligned, hinside, hroom, hclean, rfl⟩ := h
  simp [State.post, hplain, haligned, Nat.not_lt.mpr hinside, Nat.not_le.mpr hroom, State.storeRead_clean _ _ _ _ _ hclean]

/-- An ordinary move whose ends are within reach and that is no stage queue's goes on. -/
theorem bodyMov_ordinary {s : State} {i : Issue} {e : Env} {d : Bytes} (u : Upset) (h : PostsDesc s i 3 0 e d)
    (hok : moveOk d = true) (hstatus : (moveOf d).status + 8 ≤ storeSize)
    (hsrc : s.endOk e (moveOf d).srcSpace (moveOf d).src (moveOf d).spitch (moveOf d).rows (moveOf d).rowbytes
      [(moveOf d).srcVt] false = true)
    (hdst : s.endOk e (moveOf d).dstSpace (moveOf d).dst (moveOf d).dpitch (moveOf d).rows (moveOf d).rowbytes
      ((moveOf d).dstTiles e.v) true = true)
    (hver : bit (moveOf d).flags 1 = false) (hsend : s.sendAct e.c (moveOf d) = .none)
    (hrecv : s.receiveAct e.c (moveOf d) = .none) :
    bodyMov u e s = moveGo e s d none false none u := by
  have hgate : s.moveGate e.c (moveOf d) = some .go := by simp [State.moveGate, hver]
  rw [bodyMov, State.post_of_postsDesc h]
  simp [Act.when, hok, Nat.not_lt.mpr hstatus, hsrc, hdst, hgate, hver, hsend, hrecv, State.sendBegun,
    State.receiveBegun, QueueAct.endpoint]

/-- The flight record with which a move of descriptor `d` issues. -/
def Env.moveFlight (e : Env) (d : Bytes) : Flight :=
  { e.flight with posted := true, statusAt := some (moveOf d).status }

/-- A move that goes on is tried at once, and issues with the record that this leaves. -/
theorem State.act_moveGo (s : State) (e : Env) (d : Bytes) (u : Upset) :
    s.act e (moveGo e s d none false none u) =
      (s.moveTry (e.moveFlight d) d u).1.commit e (fun _ => (s.moveTry (e.moveFlight d) d u).2) Queue.advance := rfl

/-- MOV comes to what its body goes on with. -/
theorem exec_mov_of_go {s : State} {i : Issue} {e : Env} {d : Bytes} {u : Upset} (h : Issues s i 3 0 e)
    (hb : bodyMov u e s = moveGo e s d none false none u) :
    exec (.mov ⟨i, u⟩) s = .next (s.act e (moveGo e s d none false none u)) := by
  have hrun : exec (.mov ⟨i, u⟩) s = .next ((s.issue 3 0 i (bodyMov u)).noteStall i) := rfl
  rw [hrun, State.issue_of_issues h (by decide), hb, State.act_moveGo]
  rw [State.noteStall_commit _ h.env (State.moveTry_places ..)]

/-! ### A write of software to HBM (00_scope R5; 11_memory_tiers R340) -/

/-- Some range of a list holds an address. -/
def inRanges (rs : List (Nat × Nat)) (x : Nat) : Bool :=
  rs.any fun r => decide (r.1 ≤ x) && decide (x < r.1 + r.2)

/-- The byte that a stretch of bytes holds for an address. -/
def stretchByte (p : Nat × Bytes) (x : Nat) : Option Byte := if p.1 ≤ x then p.2[x - p.1]? else none

theorem stretchByte_eq_none {a x : Nat} {bs : Bytes} (h : x < a ∨ a + bs.length ≤ x) : stretchByte (a, bs) x = none := by
  unfold stretchByte
  split
  · exact List.getElem?_eq_none (by simp only; omega)
  · rfl

theorem memRead_memWriteBytes_stretch (m : Mem) (p : Nat × Bytes) (x : Nat) :
    memRead (memWriteBytes m p.1 p.2) x = (stretchByte p x).getD (memRead m x) := by
  rw [memRead_memWriteBytes]
  split
  · next hin =>
    have : x - p.1 < p.2.length := by omega
    simp [stretchByte, hin.1, this]
  · next hout => rw [stretchByte_eq_none (by omega), Option.getD_none]

/-- Stretches written one after another: an address that none of them holds keeps its byte. -/
theorem memRead_foldl_none {l : List (Nat × Bytes)} {x : Nat} (h : ∀ p ∈ l, stretchByte p x = none) (m : Mem) :
    memRead (l.foldl (fun m p => memWriteBytes m p.1 p.2) m) x = memRead m x := by
  induction l generalizing m with
  | nil => rfl
  | cons p l ih =>
    obtain ⟨hp, hl⟩ := List.forall_mem_cons.mp h
    rw [List.foldl_cons, ih hl, memRead_memWriteBytes_stretch, hp, Option.getD_none]

/-- Stretches written one after another: an address for which each of them that holds it holds the byte `b` reads `b`
when one does. -/
theorem memRead_foldl_some {l : List (Nat × Bytes)} {x : Nat} {b : Byte} (hex : ∃ p ∈ l, stretchByte p x = some b)
    (h : ∀ p ∈ l, ∀ c, stretchByte p x = some c → c = b) (m : Mem) :
    memRead (l.foldl (fun m p => memWriteBytes m p.1 p.2) m) x = b := by
  induction l generalizing m with
  | nil => simp at hex
  | cons p l ih =>
    obtain ⟨hp, hl⟩ := List.forall_mem_cons.mp h
    rw [List.foldl_cons]
    by_cases hlater : ∃ q ∈ l, stretchByte q x = some b
    · exact ih hlater hl _
    · have hnone : ∀ q ∈ l, stretchByte q x = none := fun q hq =>
        Option.eq_none_iff_forall_ne_some.mpr fun c hc => hlater ⟨q, hq, hl q hq c hc ▸ hc⟩
      obtain ⟨q, hq, hqb⟩ := hex
      have hpb : stretchByte p x = some b := by
        rcases List.mem_cons.mp hq with rfl | hq
        · exact hqb
        · exact absurd ⟨q, hq, hqb⟩ hlater
      rw [memRead_foldl_none hnone, memRead_memWriteBytes_stretch, hpb, Option.getD_some]

/-- A stretch of more than one byte holds its first byte at its address and the rest after it. -/
theorem stretchByte_cons (a : Nat) (b : Byte) (l : Bytes) (x : Nat) (c : Byte) :
    stretchByte (a, b :: l) x = some c ↔ (x = a ∧ b = c) ∨ stretchByte (a + 1, l) x = some c := by
  unfold stretchByte
  rcases Nat.lt_trichotomy x a with h | rfl | h
  · have hle : ¬ a ≤ x := by omega
    have hle' : ¬ a + 1 ≤ x := by omega
    simp only [hle, hle', Nat.ne_of_lt h, if_false, false_and, false_or]
  · have hle' : ¬ x + 1 ≤ x := by omega
    simp only [hle', Nat.le_refl, if_true, if_false, Nat.sub_self, List.getElem?_cons_zero, Option.some.injEq, true_and,
      reduceCtorEq, or_false]
  · have hle : a ≤ x := by omega
    have hle' : a + 1 ≤ x := by omega
    have hsub : x - a = (x - (a + 1)) + 1 := by omega
    simp only [hle, hle', hsub, Nat.ne_of_gt h, if_true, List.getElem?_cons_succ, false_and, false_or]

/-- A byte put before some stretches of a list, joined to the first where that begins right after it: the list holds
that byte and what it held before. -/
theorem exists_mem_outside_cons (rs : List (Nat × Nat)) (a : Nat) (b : Byte) (bs : Bytes) (x : Nat) (c : Byte)
    (h : inRanges rs a = false) :
    (∃ p ∈ outside rs a (b :: bs), stretchByte p x = some c) ↔
      (x = a ∧ b = c) ∨ ∃ p ∈ outside rs (a + 1) bs, stretchByte p x = some c := by
  have hempty : stretchByte (a + 1, []) x ≠ some c := by simp [stretchByte]
  have hout : ¬ (rs.any fun r => decide (r.1 ≤ a) && decide (a < r.1 + r.2)) = true := by
    rw [← inRanges, h]; exact Bool.false_ne_true
  rw [outside, if_neg hout]
  cases hrest : outside rs (a + 1) bs with
  | nil => simp [stretchByte_cons, hempty]
  | cons q more =>
    obtain ⟨k, l⟩ := q
    dsimp only
    split
    · next hk => subst hk; simp [stretchByte_cons, or_assoc]
    · simp [stretchByte_cons, hempty]

/-- The stretches of a byte string outside some ranges hold its bytes at the addresses that no range holds. -/
theorem exists_mem_outside (rs : List (Nat × Nat)) (a : Nat) (bs : Bytes) (x : Nat) (c : Byte) :
    (∃ p ∈ outside rs a bs, stretchByte p x = some c) ↔ stretchByte (a, bs) x = some c ∧ inRanges rs x = false := by
  induction bs generalizing a with
  | nil => simp [outside, stretchByte]
  | cons b bs ih =>
    rw [stretchByte_cons]
    cases ha : inRanges rs a with
    | true =>
      have hskip : outside rs a (b :: bs) = outside rs (a + 1) bs := by
        rw [outside, if_pos (by exact ha)]
      have hxa : inRanges rs x = false → x ≠ a := by rintro hx rfl; simp [ha] at hx
      rw [hskip, ih]
      refine and_congr_left fun hx => ?_
      simp only [hxa hx, false_and, false_or]
    | false =>
      have hxa : x = a → inRanges rs x = false := by rintro rfl; exact ha
      rw [exists_mem_outside_cons rs a b bs x c ha, ih, or_and_right]
      exact or_congr_left ⟨fun h => ⟨h, hxa h.1⟩, And.left⟩

/-- What software writes is in memory at the addresses that no range holds, and nothing else has changed. -/
theorem memRead_foldl_outside (rs : List (Nat × Nat)) (a : Nat) (bs : Bytes) (m : Mem) (x : Nat) :
    memRead ((outside rs a bs).foldl (fun m p => memWriteBytes m p.1 p.2) m) x =
      if inRanges rs x then memRead m x else (stretchByte (a, bs) x).getD (memRead m x) := by
  have hold := exists_mem_outside rs a bs x
  cases hx : inRanges rs x with
  | true =>
    rw [if_pos rfl]
    refine memRead_foldl_none (fun p hp => Option.eq_none_iff_forall_ne_some.mpr fun c hc => ?_) m
    have := ((hold c).mp ⟨p, hp, hc⟩).2
    simp [hx] at this
  | false =>
    rw [if_neg Bool.false_ne_true]
    cases hb : stretchByte (a, bs) x with
    | none =>
      refine memRead_foldl_none (fun p hp => Option.eq_none_iff_forall_ne_some.mpr fun c hc => ?_) m
      have := ((hold c).mp ⟨p, hp, hc⟩).1
      simp [hb] at this
    | some b =>
      refine memRead_foldl_some ((hold b).mpr ⟨hb, hx⟩) (fun p hp c hc => ?_) m
      have := ((hold c).mp ⟨p, hp, hc⟩).1
      exact Option.some.inj (this.symm.trans hb)

/-- Ranges that a byte string meets are all that matter at its own addresses. -/
theorem inRanges_filter_meets (rs : List (Nat × Nat)) {a n x : Nat} (hl : a ≤ x) (hr : x < a + n) :
    inRanges (rs.filter fun r => meets r.1 r.2 a n) x = inRanges rs x := by
  rw [inRanges, List.any_filter, inRanges]
  congr 1
  funext r
  by_cases h : r.1 ≤ x ∧ x < r.1 + r.2
  · have hmeets : meets r.1 r.2 a n = true := by simp [meets]; omega
    simp [hmeets]
  · have hout : (decide (r.1 ≤ x) && decide (x < r.1 + r.2)) = false := by simpa using h
    simp [hout]

/-- A job whose CHAT is not due forms none. -/
theorem State.settleChats_of_not_due {s : State}
    (h : ∀ c ∈ s.jobCtxs, ∀ j, (s.ctx c).job = some j → j.chatDue = false) : s.settleChats = s := by
  have keep (l : List Nat) (hl : ∀ c ∈ l, s.formChats c = s) : l.foldl (fun st c => st.formChats c) s = s := by
    induction l with
    | nil => rfl
    | cons c l ih =>
      obtain ⟨hc, hl⟩ := List.forall_mem_cons.mp hl
      rw [List.foldl_cons, hc, ih hl]
  refine keep s.jobCtxs fun c hc => ?_
  unfold State.formChats
  split
  · rfl
  · next j hj => simp [h c hc j hj]

/-- The state of a write of software, before any CHAT is formed. -/
def State.dataPut (s : State) (a : Nat) (bs : Bytes) : State :=
  let rs := s.committed.filter fun r => meets r.1 r.2 a bs.length
  if rs.isEmpty then s.hbmWrite a bs else (outside rs a bs).foldl (fun st p => st.hbmWrite p.1 p.2) s

theorem State.dataWrite_eq (s : State) (a : Nat) (bs : Bytes) : s.dataWrite a bs = (s.dataPut a bs).settleChats := rfl

/-- A write of software reaches HBM and its codes alone. -/
theorem State.dataPut_keeps (s : State) (a : Nat) (bs : Bytes) : (s.dataPut a bs).tiles = s.tiles ∧
    (s.dataPut a bs).ctxs = s.ctxs ∧ (s.dataPut a bs).cnt.trcCtl = s.cnt.trcCtl := by
  unfold State.dataPut
  dsimp only
  split
  · simp
  · have keep {γ : Type} (π : State → γ) (h : ∀ (st : State) (p : Nat × Bytes), π (st.hbmWrite p.1 p.2) = π st)
        (l : List (Nat × Bytes)) : π (l.foldl (fun st p => st.hbmWrite p.1 p.2) s) = π s := foldl_keeps π h l s
    exact ⟨keep (·.tiles) (by simp) _, keep (·.ctxs) (by simp) _, keep (·.cnt.trcCtl) (by simp) _⟩

/-- A write of software shows at its addresses but for those of committed slots, and at no other (00 R5). -/
theorem State.memRead_dataPut (s : State) (a : Nat) (bs : Bytes) (x : Nat) :
    memRead (s.dataPut a bs).hbm.mem x =
      if inRanges s.committed x then memRead s.hbm.mem x else (stretchByte (a, bs) x).getD (memRead s.hbm.mem x) := by
  have hput : memRead (s.dataPut a bs).hbm.mem x =
      if inRanges (s.committed.filter fun r => meets r.1 r.2 a bs.length) x then memRead s.hbm.mem x
      else (stretchByte (a, bs) x).getD (memRead s.hbm.mem x) := by
    unfold State.dataPut
    dsimp only
    split
    · next hnone =>
      rw [List.isEmpty_iff.mp hnone, State.hbmWrite_mem]
      exact memRead_memWriteBytes_stretch s.hbm.mem (a, bs) x
    · rw [← List.foldl_hom (fun st : State => st.hbm.mem) (g₂ := fun m p => memWriteBytes m p.1 p.2)
        (fun st p => (st.hbmWrite_mem p.1 p.2).symm)]
      exact memRead_foldl_outside ..
  rw [hput]
  by_cases hin : a ≤ x ∧ x < a + bs.length
  · rw [inRanges_filter_meets s.committed hin.1 hin.2]
  · have hbyte : stretchByte (a, bs) x = none := stretchByte_eq_none (by omega)
    simp [hbyte]

/-- A write of software forms no CHAT where none is due. -/
theorem State.dataWrite_of_not_due {s : State} (a : Nat) (bs : Bytes)
    (h : ∀ c ∈ s.jobCtxs, ∀ j, (s.ctx c).job = some j → j.chatDue = false) : s.dataWrite a bs = s.dataPut a bs := by
  obtain ⟨-, hctxs, -⟩ := s.dataPut_keeps a bs
  rw [State.dataWrite_eq]
  refine State.settleChats_of_not_due (s := s.dataPut a bs) fun c hc j hj => h c ?_ j ?_
  · simpa [State.jobCtxs, State.ctx, hctxs] using hc
  · simpa [State.ctx, hctxs] using hj

/-! ### A move of one row from a tile store to HBM (05_instruction_set R149) -/

theorem getElem?_of_indexOf? {x v : Nat} {l : List Nat} (h : indexOf? x l = some v) : l[v]? = some x := by
  induction l generalizing v with
  | nil => simp [indexOf?] at h
  | cons y l ih =>
    unfold indexOf? at h
    split at h
    · next hxy => cases h; simp [hxy]
    · obtain ⟨w, hw, rfl⟩ := Option.map_eq_some_iff.mp h
      simpa using ih hw

/-- The physical tile of an instruction's virtual tile is the tile at which it issued. -/
theorem State.physD_of_issueEnv {s : State} {i : Issue} {e : Env} (h : s.issueEnv i = some e) :
    s.physD e.c e.v = e.t := by
  obtain ⟨-, hvid, he⟩ := State.issueEnv_some h
  have ht : e.t = i.tile := by rw [he]
  rw [State.physD, Ctx.phys, getElem?_of_indexOf? hvid, ht, Option.getD_some]

/-- Bad mesh words strike nothing where no tile receives words. -/
theorem State.meshWords_nil (s : State) (l : List (Nat × Bool)) : s.meshWords [] l = (s, false) := by
  have hnone : (l.filter fun x => ([] : List Nat).contains x.1) = [] :=
    List.filter_eq_nil_iff.mpr fun _ _ => Bool.false_ne_true
  rw [State.meshWords, hnone]
  rfl

/-- One row of a tile store without bad words is read as it stands. -/
theorem State.readLocal_store_row {s : State} {e : Env} {m : Move} (hspace : m.srcSpace = 0) (hrows : m.rows = 1)
    (hclean : (s.tile e.t).ecc = []) :
    s.readLocal e m = ⟨s, [memReadBytes (s.tile e.t).store m.src m.rowbytes], false⟩ := by
  simp [State.readLocal, hspace, hrows, State.storeRead_clean _ _ _ _ _ hclean]

/-- One row is written to HBM through the context's translation. -/
theorem State.writeLocal_memory_row {s : State} {e : Env} {m : Move} {bs : Bytes} {dev : Nat} (hspace : m.dstSpace = 2)
    (hx : s.xlate e.c m.dst bs.length true = some dev) : s.writeLocal e m (numbered [bs]) = s.dataWrite dev bs := by
  simp [State.writeLocal, hspace, numbered, State.ctxStore, hx]

/-- A move of one row from a tile store to HBM runs as soon as it is tried. -/
theorem State.moveTry_store_to_memory {s : State} {f : Flight} {d : Bytes} {dev : Nat} (u : Upset)
    (hsrc : (moveOf d).srcSpace = 0) (hdst : (moveOf d).dstSpace = 2) (hrows : (moveOf d).rows = 1)
    (hclean : (s.tile (s.physD f.ctx f.vt)).ecc = [])
    (hx : s.xlate f.ctx (moveOf d).dst (moveOf d).rowbytes true = some dev) :
    (s.moveTry f d u).1 = s.dataWrite dev
      (memReadBytes (s.tile (s.physD f.ctx f.vt)).store (moveOf d).src (moveOf d).rowbytes) := by
  have hread : s.readLocal (s.envAt f) (moveOf d) = _ := State.readLocal_store_row hsrc hrows hclean
  have hnone : s.moveMesh (s.envAt f) (moveOf d) = [] := by simp [State.moveMesh, hsrc, hdst]
  have htry : s.moveTry f d u = s.moveRun f d u := by
    simp [State.moveTry, State.tilesRun, Move.dstTiles, hsrc, hdst]
  have hwrite : s.writeLocal (s.envAt f) (moveOf d)
      (numbered [memReadBytes (s.tile (s.envAt f).t).store (moveOf d).src (moveOf d).rowbytes]) = _ :=
    State.writeLocal_memory_row hdst (by rw [memReadBytes_length]; exact hx)
  rw [htry, State.moveRun, if_pos (by simp [hsrc])]
  simp only [hread, hnone, State.meshWords_nil, State.moveWrite, hdst, Nat.reduceLT, if_true]
  exact hwrite

/-- A move of one row from a tile store to HBM is an ordinary move whose ends are within reach. -/
theorem bodyMov_store_to_memory {s : State} {i : Issue} {e : Env} {d : Bytes} {dev : Nat} (u : Upset)
    (h : PostsDesc s i 3 0 e d) (hok : moveOk d = true) (hstatus : (moveOf d).status + 8 ≤ storeSize)
    (hsrc : (moveOf d).srcSpace = 0) (hdst : (moveOf d).dstSpace = 2) (hflags : (moveOf d).flags = 0)
    (hrows : (moveOf d).rows = 1)
    (hin : storeRowsOk (moveOf d).src (moveOf d).spitch (moveOf d).rows (moveOf d).rowbytes = true)
    (hx : s.xlate e.c (moveOf d).dst (moveOf d).rowbytes true = some dev) :
    bodyMov u e s = moveGo e s d none false none u :=
  bodyMov_ordinary u h hok hstatus (by simpa [State.endOk, hsrc] using hin)
    (by simp [State.endOk, hdst, hrows, hx]) (by simp [hflags, bit]) (by simp [State.sendAct, hdst])
    (by simp [State.receiveAct, hsrc])

/-- Settles O17: an ordinary move goes on as it is tried, and one row for HBM is a write of software there. -/
theorem moveToMemoryWrites : Obligations.MoveToMemoryWrites := by
  intro s i u e d m hpost hok hstatus
  refine ⟨fun hsrc hdst hver hsend hrecv => exec_mov_of_go hpost.issues
    (bodyMov_ordinary u hpost hok hstatus hsrc hdst hver hsend hrecv), ?_⟩
  intro dev hsrc hdst hflags hrows hin hx hchat htrace
  have hgo := bodyMov_store_to_memory u hpost hok hstatus hsrc hdst hflags hrows hin hx
  have hphys : s.physD e.c e.v = e.t := State.physD_of_issueEnv hpost.issues.env
  have hmoved : (s.moveTry (e.moveFlight d) d u).1 =
      s.dataPut dev (memReadBytes (s.tile e.t).store m.src m.rowbytes) := by
    rw [← State.dataWrite_of_not_due dev _ hchat, ← hphys]
    exact State.moveTry_store_to_memory u hsrc hdst hrows (hphys ▸ hpost.clean) hx
  generalize hbs : memReadBytes (s.tile e.t).store m.src m.rowbytes = bs at hmoved
  have hlen : bs.length = m.rowbytes := by rw [← hbs, memReadBytes_length]
  obtain ⟨htiles, -, htrc⟩ := s.dataPut_keeps dev bs
  have htrace' : (s.dataPut dev bs).untraced e := by
    simpa only [State.untraced, Cnt.traces, htrc] using htrace
  refine ⟨_, exec_mov_of_go hpost.issues hgo, ?_, ?_, ?_⟩ <;> rw [State.act_moveGo, hmoved]
  · intro j hj
    have hbyte : stretchByte (dev, bs) (dev + j) = some (memRead (s.tile e.t).store (m.src + j)) := by
      rw [← hbs]
      simpa [stretchByte] using memReadBytes_get (s.tile e.t).store m.src m.rowbytes j hj
    rw [State.commit_hbm _ _ _ _ htrace', State.memRead_dataPut, hbyte, Option.getD_some, inRanges]
  · intro a ha
    have hbyte : stretchByte (dev, bs) a = none := stretchByte_eq_none (hlen ▸ ha)
    rw [State.commit_hbm _ _ _ _ htrace', State.memRead_dataPut, hbyte, Option.getD_none, ite_self]
  · intro v
    rw [State.commit_store, State.tile, htiles, State.tile]

end Sys2Proof.Machine
end

section
/-! Register writes of the core (O58). -/

namespace Sys2Proof.Machine

/-! ### Accesses to configuration space (00_scope R13, R15) -/

/-- An access of 8 bytes at a register of 8 bytes is one part, the whole register. -/
theorem State.accParts_wide {s : State} {addr : Nat} {r : Reg} {o : Nat} (width : Nat)
    (hr : s.regOf addr = some (r, o)) (h8 : r.bytes = 8) :
    s.accParts addr width = [⟨some r, 8 * o, 8 * width, 0⟩] := by
  simp [State.accParts, hr, h8]

/-- An access of 4 bytes at a register of another width is one part, its bits 31:0. -/
theorem State.accParts_narrow {s : State} {addr : Nat} {r : Reg} {o : Nat}
    (hr : s.regOf addr = some (r, o)) (h8 : r.bytes ≠ 8) : s.accParts addr 4 = [⟨some r, 0, 32, 0⟩] := by
  simp [State.accParts, hr, h8]

/-- An access of 4 bytes at an address of no register is one part without a register. -/
theorem State.accParts_none {s : State} {addr : Nat} (hr : s.regOf addr = none) :
    s.accParts addr 4 = [⟨none, 0, 32, 0⟩] := by
  simp [State.accParts, hr]

/-- A write whose access is one part of a register writes that part. -/
theorem State.cfgWrite_one {s : State} {addr width : Nat} {r : Reg} {lo w : Nat} (v : Nat)
    (h : s.accParts addr width = [⟨some r, lo, w, 0⟩]) :
    (s.cfgWrite addr width v).s = s.writePart r lo w (v % 2 ^ w) := by
  simp [State.cfgWrite, h, Acc.write, fld]

/-- A write whose access is one part without a register changes nothing (R15). -/
theorem State.cfgWrite_missing {s : State} {addr width lo w pos : Nat} (v : Nat)
    (h : s.accParts addr width = [⟨none, lo, w, pos⟩]) : (s.cfgWrite addr width v).s = s := by
  simp [State.cfgWrite, h, Acc.write]

/-- The bytes of an access of the core. -/
def accessWidth (wide : Bool) : Nat := if wide then 8 else 4

/-- An aligned write inside the space, while the part is clocked, reaches the registers. -/
theorem exec_registerWrite_aligned {s : State} {addr : Nat} {wide : Bool} (v : W64) (hc : s.clocked = true)
    (ha : addr % accessWidth wide = 0) (hi : addr + accessWidth wide ≤ 2 ^ 26) :
    exec (.registerWrite addr wide v) s = .next (s.cfgWrite addr (accessWidth wide) v.toNat).s := by
  unfold accessWidth at ha hi ⊢
  have hrun : exec (.registerWrite addr wide v) s = execRegisterWrite addr wide v s := rfl
  rw [hrun, execRegisterWrite, if_neg (by simpa [hc, ha] using hi)]

/-- A write that is misaligned or passes the end of the space, or that comes while every clock is stopped, is ignored. -/
theorem exec_registerWrite_ignored {s : State} {addr : Nat} {wide : Bool} (v : W64)
    (h : addr % accessWidth wide ≠ 0 ∨ 2 ^ 26 < addr + accessWidth wide ∨ s.clocked = false) :
    exec (.registerWrite addr wide v) s = .next s := by
  unfold accessWidth at h
  have hrun : exec (.registerWrite addr wide v) s = execRegisterWrite addr wide v s := rfl
  rw [hrun, execRegisterWrite, if_pos]
  rcases h with h | h | h
  · simp [h]
  · simpa using Or.inr h
  · simp [h]

/-- Settles O58: an aligned write is one part of an access, and every other write meets a guard. -/
theorem registerWritesComplete : Obligations.RegisterWritesComplete := by
  intro s addr v
  refine ⟨fun r o hc ha hi hr h8 => ?wide, fun r o hc ha hi hr h8 => ?half, fun r o hc ha hi hr h8 => ?narrow,
    fun hc ha hi hr => ?absent, fun wide h => exec_registerWrite_ignored v h⟩
  case wide =>
    have hw := State.cfgWrite_one v.toNat (State.accParts_wide 8 hr h8)
    rw [Nat.mod_eq_of_lt v.isLt] at hw
    exact (exec_registerWrite_aligned (wide := true) v hc ha hi).trans (congrArg _ hw)
  case half =>
    have hw := State.cfgWrite_one v.toNat (State.accParts_wide 4 hr h8)
    exact (exec_registerWrite_aligned (wide := false) v hc ha hi).trans (congrArg _ hw)
  case narrow =>
    have hw := State.cfgWrite_one v.toNat (State.accParts_narrow hr h8)
    exact (exec_registerWrite_aligned (wide := false) v hc ha hi).trans (congrArg _ hw)
  case absent =>
    have hw := State.cfgWrite_missing v.toNat (State.accParts_none hr)
    exact (exec_registerWrite_aligned (wide := false) v hc ha hi).trans (congrArg _ hw)

end Sys2Proof.Machine
end

section
/-! Signal increments (O27). -/

namespace Sys2Proof.Machine

/-! ### Increments of signal counters (05_instruction_set R136; 01_organisation R21) -/

/-- The part with increment `x` applied to its counter, held at the largest value, before a halt or a watch. -/
def State.creditSig (s : State) (x : SigInc) : State :=
  s.setTc x.ctx x.dstVt ((s.tc x.ctx x.dstVt).setSig x.sig (min ((s.tc x.ctx x.dstVt).sig x.sig + x.amount) sigMax))

/-- No other counter of the tile changes (R136). -/
theorem State.sig_creditSig (s : State) (x : SigInc) (m : Nat) :
    ((s.creditSig x).tc x.ctx x.dstVt).sig m =
      if m = x.sig then min ((s.tc x.ctx x.dstVt).sig x.sig + x.amount) sigMax else (s.tc x.ctx x.dstVt).sig m := by
  rw [State.creditSig, State.tc_setTc_self, TileCtx.sig_setSig]

/-- An increment that fits its counter halts no queue. -/
theorem State.applySig_of_le {s : State} {x : SigInc} (h : (s.tc x.ctx x.dstVt).sig x.sig + x.amount ≤ sigMax) :
    s.applySig x = (s.creditSig x).testWatches x.ctx := by
  have hfits : (decide (sigMax < (s.tc x.ctx x.dstVt).sig x.sig + x.amount) && decide (x.srcQ < 4)) = false := by
    simp [Nat.not_lt.mpr h]
  simp only [State.applySig, hfits, Bool.false_eq_true, if_false, State.creditSig]

/-- An increment that would pass the largest value halts the queue that raised it. -/
theorem State.applySig_of_overflow {s : State} {x : SigInc} (h : sigMax < (s.tc x.ctx x.dstVt).sig x.sig + x.amount)
    (hq : x.srcQ < 4) :
    s.applySig x = ((s.creditSig x).haltExc x.ctx x.srcVt ((s.creditSig x).physD x.ctx x.srcVt) x.srcQ xSignalOvf x.cls
      x.op x.seq x.step).testWatches x.ctx := by
  have hover : (decide (sigMax < (s.tc x.ctx x.dstVt).sig x.sig + x.amount) && decide (x.srcQ < 4)) = true := by
    simp [h, hq]
  simp only [State.applySig, hover, if_true, State.creditSig]

/-- Increment `k`, which is `x`, has an increment or a move of the same queue to the same tile ahead of it (R21). -/
def State.sigBehind (s : State) (k : Nat) (x : SigInc) : Bool :=
  ((s.sigs.take k).any fun y => y.ctx == x.ctx && y.srcVt == x.srcVt && y.srcQ == x.srcQ && y.dstVt == x.dstVt)
    || s.owedBefore x.ctx x.srcVt x.srcQ x.ord x.srcVt x.dstVt

/-- What the command comes to for an increment in flight. -/
theorem exec_signalIncrement {s : State} {k : Nat} {x : SigInc} (hx : s.sigs[k]? = some x) :
    exec (.signalIncrement k) s =
      if s.sigBehind k x then .next s else .next ({ s with sigs := s.sigs.eraseIdx k }.applySig x) := by
  have hrun : exec (.signalIncrement k) s = execSignalIncrement k s := rfl
  rw [hrun, execSignalIncrement, hx]
  rfl

/-- Settles O27: an increment behind another waits; one that arrives credits its counter, with or without the halt. -/
theorem signalIncrementsArrive : Obligations.SignalIncrementsArrive := by
  intro s k x hx ahead n s0 s1
  have hrun : exec (.signalIncrement k) s = if ahead then .next s else .next (s0.applySig x) := exec_signalIncrement hx
  have hcredit (m : Nat) :
      (s1.tc x.ctx x.dstVt).sig m = if m = x.sig then min n sigMax else (s.tc x.ctx x.dstVt).sig m :=
    s0.sig_creditSig x m
  refine ⟨fun hwait => ?waits, fun hfree hn => ?fits, fun hfree hn hq => ?overflows, ?counter, fun m hm => ?others⟩
  case waits => rw [hrun, hwait, if_pos rfl]
  case fits =>
    rw [hrun, hfree, if_neg Bool.false_ne_true]
    exact congrArg _ (State.applySig_of_le (s := s0) hn)
  case overflows =>
    rw [hrun, hfree, if_neg Bool.false_ne_true]
    exact congrArg _ (State.applySig_of_overflow (s := s0) hn hq)
  case counter => rw [hcredit, if_pos rfl]
  case others => rw [hcredit, if_neg hm]

end Sys2Proof.Machine
end

section
/-! The elements of a product in the matrix array (O23). -/

namespace Sys2Proof.Machine

/-! ### Dot products (02_number_formats R38, R62) -/

/-- In PASS1 without block scales the terms of a reduction are the exact products of its element pairs. -/
theorem dotTerms_pass1 (a b : List Fv) :
    dotTerms ⟨0, false, false⟩ 0 a b = (a.zip b).map fun p => fvMul p.1 p.2 := rfl

/-- The value of a dot product is its terms added one after another, whatever flags they raise. -/
theorem dotF_v (pass : PassMode) (bsize : Nat) (c0 : W32) (a b : List Fv) :
    (dotF pass bsize c0 a b).v = (dotTerms pass bsize a b).foldl (fun x t => (accAdd x t).v) c0 :=
  (List.foldl_hom FRes.v fun _ _ => rfl).symm

/-- The value from which an element of a product accumulates: its prior value, or −0 (R38, R62). -/
def accStart (c0 : List (List Fv)) (acc : Bool) (i j : Nat) : W32 :=
  if acc then fvToF32 ((((c0[i]?).getD [])[j]?).getD fvPos0) else zero32 true

/-! ### Rows of a product (03_matrix_array R74) -/

/-- Row `i` of a product: the dot products of row `i` of A with the columns of B, in order. -/
theorem products_row {as : List (List Fv)} {i : Nat} {a : List Fv} (pass : PassMode) (bsize : Nat)
    (bs c0 : List (List Fv)) (acc : Bool) (ha : as[i]? = some a) :
    (products pass bsize as bs c0 acc).1[i]? =
      some (bs.zipIdx.map fun bj => (dotF pass bsize (accStart c0 acc i bj.2) a bj.1).v) := by
  have hzip (l : List (List Fv)) : l.zip (List.range l.length) = l.zipIdx := by
    rw [List.range_eq_range', List.zipIdx_eq_zip_range']
  simp [products, hzip, List.getElem?_zipIdx, ha, accStart]

/-- Settles O23: an element is a dot product from its starting value, whose terms in PASS1 are the exact products. -/
theorem matrixElementIsOrderedSum : Obligations.MatrixElementIsOrderedSum := by
  intro as bs c0 acc i j a b ha hb
  refine ⟨_, products_row _ _ bs c0 acc ha, by simp, ?_⟩
  rw [List.getElem?_map, List.getElem?_zipIdx, hb]
  simp only [Option.map_some, Nat.zero_add, dotF_v, dotTerms_pass1, List.foldl_map, accStart]

end Sys2Proof.Machine
end

section
/-! Mask registers and the lanes that are on, VCMP and VRED (O11). -/

namespace Sys2Proof.Machine

/-! ### Mask registers and the lanes that are on (04_tile_store_vector R113) -/

theorem maskBits_getElem? (m : BitVec 256) {l : Nat} (hl : l < 256) : (maskBits m)[l]? = some (m.getLsbD l) := by
  rw [maskBits, List.getElem?_map, List.getElem?_range hl, Option.map_some]

/-- The number that a list of bits writes in binary, the first bit lowest, has those bits. -/
theorem testBit_foldr_b2n (l : List Bool) (k : Nat) :
    (l.foldr (fun b n => b2n b + 2 * n) 0).testBit k = (l[k]?).getD false := by
  induction l generalizing k with
  | nil => exact Nat.zero_testBit k
  | cons b l ih =>
    rw [List.foldr_cons]
    cases k with
    | zero =>
      rw [Nat.testBit_zero, Nat.add_mul_mod_self_left]
      cases b <;> rfl
    | succ k =>
      have hhalf (n : Nat) : (b2n b + 2 * n) / 2 = n := by
        cases b <;> simp only [b2n, Bool.false_eq_true, if_true, if_false] <;> omega
      rw [Nat.testBit_succ, hhalf, ih, List.getElem?_cons_succ]

/-- A mask register made of lane bits holds them, lane 0 in bit 0. -/
theorem getLsbD_bitsMask {l : List Bool} {k : Nat} {b : Bool} (hk : k < 256) (hb : l[k]? = some b) :
    (bitsMask l).getLsbD k = b := by
  rw [bitsMask, BitVec.getLsbD_ofNat, testBit_foldr_b2n, hb, decide_eq_true hk, Bool.true_and, Option.getD_some]

theorem TileCtx.lanesOn_of_laneOn {tc : TileCtx} {p : VPay} {l : Nat} (hl : l < 256) (h : laneOn tc p l) :
    (tc.lanesOn p)[l]? = some true := by
  unfold TileCtx.lanesOn
  split
  · next hmen => rw [maskBits_getElem? _ hl, h hmen]
  · exact List.getElem?_replicate_of_lt hl

theorem TileCtx.lanesOn_of_not_laneOn {tc : TileCtx} {p : VPay} {l : Nat} (hl : l < 256) (h : ¬ laneOn tc p l) :
    (tc.lanesOn p)[l]? = some false := by
  obtain ⟨hmen, hoff⟩ := Classical.not_imp.mp h
  rw [TileCtx.lanesOn, if_pos hmen, maskBits_getElem? _ hl, eq_false_of_ne_true hoff]

/-! ### VCMP (02_number_formats R40; 04_tile_store_vector R120) -/

/-- A lane of a comparison tells the relation where it is on, and keeps its bit where it is off. -/
theorem cmpLanes_getElem? (int : Bool) (r : Nat) {ons os : List Bool} {as bs : List W32} {l : Nat} {on o : Bool}
    {a b : W32} (hon : ons[l]? = some on) (ho : os[l]? = some o) (ha : as[l]? = some a) (hb : bs[l]? = some b) :
    (cmpLanes int r ons os as bs).1[l]? =
      some (if on then (if int then irel r a b else frel r a b) else o) := by
  induction l generalizing ons os as bs with
  | zero =>
    obtain ⟨_, rfl⟩ := List.head?_eq_some_iff.mp (List.head?_eq_getElem?.trans hon)
    obtain ⟨_, rfl⟩ := List.head?_eq_some_iff.mp (List.head?_eq_getElem?.trans ho)
    obtain ⟨_, rfl⟩ := List.head?_eq_some_iff.mp (List.head?_eq_getElem?.trans ha)
    obtain ⟨_, rfl⟩ := List.head?_eq_some_iff.mp (List.head?_eq_getElem?.trans hb)
    cases on <;> rfl
  | succ l ih =>
    have hcons {α : Type} {xs : List α} {x : α} (h : xs[l + 1]? = some x) : ∃ y ys, xs = y :: ys :=
      List.exists_cons_of_ne_nil (by rintro rfl; cases h)
    obtain ⟨on', ons, rfl⟩ := hcons hon
    obtain ⟨_, os, rfl⟩ := hcons ho
    obtain ⟨_, as, rfl⟩ := hcons ha
    obtain ⟨_, bs, rfl⟩ := hcons hb
    have hrest := ih hon ho ha hb
    cases on' <;> exact hrest

/-- The lane bits and the flags of a VCMP that compares. -/
def vcmpLanes (e : Env) (s : State) : List Bool × ExFlags :=
  let p := vpay e.pl
  let tc := s.tc e.c e.v
  cmpLanes (bit p.sub 3) (fld p.sub 0 3) (tc.lanesOn p) (maskBits (tc.mask p.vd)) (tc.vreg p.va) (tc.vreg p.vb)

theorem exec_vcmp {s : State} {i : Issue} {e : Env} (h : Issues s i 2 0x06 e) :
    exec (.vcmp i) s = .next (s.act e (bodyVcmp e s)) :=
  congrArg Host.Outcome.next (State.issue_of_issues h (by decide))

/-- A comparison for attention of a position that is out of range stops. -/
theorem bodyVcmp_of_badAttention {s : State} {e : Env}
    (hbad : badAttention e.w (vpay e.pl) ((s.tc e.c e.v).lanesOn (vpay e.pl)) ((s.tc e.c e.v).vreg (vpay e.pl).va)
      ((s.tc e.c e.v).vreg (vpay e.pl).vb) = true) : bodyVcmp e s = .exc xInvalid :=
  if_pos (by rw [hbad, Bool.or_true])

/-- Any other comparison with a mask register, a relation and no reserved bit set writes the register. -/
theorem bodyVcmp_writes {s : State} {e : Env} (hrnd : (vpay e.pl).rnd < 2) (hvd : (vpay e.pl).vd < 8)
    (hrel : fld (vpay e.pl).sub 0 3 < 6) (hsub : fld (vpay e.pl).sub 4 7 = 0)
    (hgood : badAttention e.w (vpay e.pl) ((s.tc e.c e.v).lanesOn (vpay e.pl)) ((s.tc e.c e.v).vreg (vpay e.pl).va)
      ((s.tc e.c e.v).vreg (vpay e.pl).vb) = false) :
    bodyVcmp e s = .go
      (s.setTc e.c e.v { s.tc e.c e.v with
        masks := Tbl.set (s.tc e.c e.v).masks (vpay e.pl).vd (bitsMask (vcmpLanes e s).1) })
      (fun g => { g with flags := (vcmpLanes e s).2 }) Queue.advance := by
  rw [bodyVcmp, vcmpLanes]
  simp only [Nat.mod_eq_of_lt hvd]
  exact if_neg (by simp [vpayOk, hrnd, hrel, hsub, hvd, hgood])

/-! ### VRED (04_tile_store_vector R114) -/

/-- What VRED combines two values by. -/
def vredOp (sub : Nat) : W32 → W32 → FRes := if sub = 0 then fadd else if sub = 1 then fminimum else fmaximum

/-- The tree of a VRED: its values, the result first, and its flags. -/
def vredTree (e : Env) (s : State) : List W32 × ExFlags :=
  let p := vpay e.pl
  let tc := s.tc e.c e.v
  treeRed (vredOp p.sub) 8 (redLanes (tc.lanesOn p) (tc.vreg p.va))

theorem exec_vred {s : State} {i : Issue} {e : Env} (h : Issues s i 2 0x18 e) :
    exec (.vred i) s = .next (s.act e (bodyVred e s)) :=
  congrArg Host.Outcome.next (State.issue_of_issues h (by decide))

/-- A reduction by one of the three operations writes lane 0 of its destination. -/
theorem bodyVred_writes {s : State} {e : Env} (hrnd : (vpay e.pl).rnd < 2) (hsub : (vpay e.pl).sub < 3) :
    bodyVred e s = .go
      (s.setTc e.c e.v ((s.tc e.c e.v).setVreg (vpay e.pl).vd
        (((s.tc e.c e.v).vreg (vpay e.pl).vd).set 0 (((vredTree e s).1[0]?).getD 0))))
      (fun g => { g with flags := (vredTree e s).2 }) Queue.advance := by
  refine (if_neg (by simp [vpayOk, hrnd, hsub])).trans ?_
  rw [vredTree, vredOp]
  obtain hop | hop | hop : (vpay e.pl).sub = 0 ∨ (vpay e.pl).sub = 1 ∨ (vpay e.pl).sub = 2 := by omega
  all_goals simp [hop]

/-- Settles O11: VCMP stops on a position out of range or writes its lane bits, and VRED writes the tree's result. -/
theorem compareReduceComplete : Obligations.CompareReduceComplete := by
  intro s i e p tc hrnd
  refine ⟨fun h _ _ _ hbad => ?stops, fun h hvd hrel hsub hgood => ?compares, fun h hsub => ?reduces⟩
  case stops => rw [exec_vcmp h, bodyVcmp_of_badAttention hbad]; rfl
  case compares =>
    have hwrites := congrArg (s.act e) (bodyVcmp_writes hrnd hvd hrel hsub hgood)
    refine ⟨bitsMask (vcmpLanes e s).1, (vcmpLanes e s).2, (exec_vcmp h).trans (congrArg _ hwrites),
      fun l a b hl ha hb => ?_⟩
    have hlane {on : Bool} (hon : (tc.lanesOn p)[l]? = some on) : (bitsMask (vcmpLanes e s).1).getLsbD l = _ :=
      getLsbD_bitsMask hl (cmpLanes_getElem? _ _ hon (maskBits_getElem? _ hl) ha hb)
    exact ⟨fun h => hlane (TileCtx.lanesOn_of_laneOn hl h), fun h => hlane (TileCtx.lanesOn_of_not_laneOn hl h)⟩
  case reduces =>
    have hwrites := congrArg (s.act e) (bodyVred_writes (s := s) hrnd hsub)
    exact ⟨vredTree e s, rfl, (exec_vred h).trans (congrArg _ hwrites)⟩

end Sys2Proof.Machine
end

section
/-! Lane-wise results, and the vector instructions that compute lane by lane (O9, O10). -/

namespace Sys2Proof.Machine

/-! ### Instructions at issue -/

/-- A guard whose condition does not hold passes. -/
theorem Act.when_of_false {c : Bool} {code : Nat} {k : Act} (h : c = false) : Act.when c code k = k :=
  if_neg (by simp [h])

/-- A guard whose condition holds raises its exception. -/
theorem Act.when_of_true {c : Bool} {code : Nat} {k : Act} (h : c = true) : Act.when c code k = .exc code := if_pos h

/-- An instruction that issues comes to what its body says. -/
theorem exec_of_issues {s : State} {i : Issue} {cls op : Nat} {e : Env} {body : Env → State → Act} {x : Instr}
    (h : Issues s i cls op e) (ha : opAssigned cls op = true) (hx : exec x s = .next (s.issue cls op i body)) :
    exec x s = .next (s.act e (body e s)) :=
  hx.trans (congrArg Host.Outcome.next (State.issue_of_issues h ha))

/-- A payload with a rounding and a sub-code that are not reserved. -/
theorem vpayOk_eq_true {p : VPay} {subOk : Nat → Bool} (hrnd : p.rnd < 2) (hsub : subOk p.sub = true) :
    vpayOk p subOk = true := by simp [vpayOk, hrnd, hsub]

/-- A payload with a rounding that is not reserved and no sub-code. -/
theorem vpayOk_of_sub_zero {p : VPay} (hrnd : p.rnd < 2) (hsub : p.sub = 0) : vpayOk p (· == 0) = true :=
  vpayOk_eq_true hrnd (by simp [hsub])

/-! ### Lists of lanes -/

@[simp] theorem mergeLanes_length : ∀ (ons : List Bool) (os : List W32) (rs : List FRes),
    (mergeLanes ons os rs).1.length = os.length
  | [], _, _ | _ :: _, [], _ | _ :: _, _ :: _, [] => rfl
  | true :: ons, _ :: os, _ :: rs | false :: ons, _ :: os, _ :: rs =>
    congrArg Nat.succ (mergeLanes_length ons os rs)

/-- A lane that is off keeps its value. -/
theorem mergeLanes_of_off : ∀ {ons : List Bool} {os : List W32} {l : Nat} {o : W32} (rs : List FRes),
    ons[l]? = some false → os[l]? = some o → (mergeLanes ons os rs).1[l]? = some o
  | _ :: _, _ :: _, _, _, [], _, ho => ho
  | _ :: _, _ :: _, 0, _, _ :: _, rfl, ho => ho
  | true :: ons, _ :: os, l + 1, _, _ :: rs, hon, ho | false :: ons, _ :: os, l + 1, _, _ :: rs, hon, ho =>
    mergeLanes_of_off (ons := ons) (os := os) (l := l) rs hon ho

/-- A lane that is on takes its result, whose flags are among those raised. -/
theorem mergeLanes_of_on : ∀ {ons : List Bool} {os : List W32} {rs : List FRes} {l : Nat} {o : W32} {r : FRes},
    ons[l]? = some true → os[l]? = some o → rs[l]? = some r →
      (mergeLanes ons os rs).1[l]? = some r.v ∧ r.fl ||| (mergeLanes ons os rs).2 = (mergeLanes ons os rs).2
  | _ :: ons, _ :: os, r :: rs, 0, _, _, rfl, rfl, rfl => by
    refine ⟨rfl, ?_⟩
    simp only [mergeLanes, if_true, ← BitVec.or_assoc, BitVec.or_self]
  | false :: ons, _ :: os, _ :: rs, l + 1, _, _, hon, ho, hr =>
    mergeLanes_of_on (ons := ons) (os := os) (rs := rs) (l := l) hon ho hr
  | true :: ons, _ :: os, _ :: rs, l + 1, _, r, hon, ho, hr => by
    obtain ⟨hv, hfl⟩ := mergeLanes_of_on (ons := ons) (os := os) (rs := rs) (l := l) hon ho hr
    refine ⟨hv, ?_⟩
    simp only [mergeLanes, if_true]
    rw [← BitVec.or_assoc, BitVec.or_comm r.fl, BitVec.or_assoc, hfl]

theorem mapLanes_getElem? (f : W32 → W32 → W32 → FRes) : ∀ {as bs cs : List W32} {l : Nat} {a b c : W32},
    as[l]? = some a → bs[l]? = some b → cs[l]? = some c → (mapLanes f as bs cs)[l]? = some (f a b c)
  | _ :: _, _ :: _, _ :: _, 0, _, _, _, rfl, rfl, rfl => rfl
  | _ :: as, _ :: bs, _ :: cs, l + 1, _, _, _, ha, hb, hc =>
    mapLanes_getElem? f (as := as) (bs := bs) (cs := cs) (l := l) ha hb hc

theorem selLanes_getElem? : ∀ {ms : List Bool} {as bs : List W32} {l : Nat} {m : Bool} {a b : W32},
    ms[l]? = some m → as[l]? = some a → bs[l]? = some b →
      (selLanes ms as bs)[l]? = some (noFlag (if m then a else b))
  | _ :: _, _ :: _, _ :: _, 0, _, _, _, rfl, rfl, rfl => rfl
  | _ :: ms, _ :: as, _ :: bs, l + 1, _, _, _, hm, ha, hb =>
    selLanes_getElem? (ms := ms) (as := as) (bs := bs) (l := l) hm ha hb

theorem cvtLanes_getElem? (f : Nat → W32 → FRes) : ∀ (k : Nat) {as : List W32} {l : Nat} {a : W32},
    as[l]? = some a → (cvtLanes f k as)[l]? = some (f (k + l) a)
  | _, _ :: _, 0, _, rfl => rfl
  | k, _ :: as, l + 1, a, ha => by
    have hl := cvtLanes_getElem? f (k + 1) (as := as) (l := l) ha
    rw [Nat.add_right_comm] at hl
    exact hl

/-- Results merged into VD under the mask of the payload are the lane-wise result of a function that gives each of
them. -/
theorem lanesAre_mergeLanes {tc : TileCtx} {p : VPay} {f : Nat → W32 → W32 → W32 → FRes} {rs : List FRes}
    (h : ∀ l a b c, l < 256 → (tc.vreg p.va)[l]? = some a → (tc.vreg p.vb)[l]? = some b →
      (tc.vreg p.vc)[l]? = some c → rs[l]? = some (f l a b c)) :
    lanesAre tc p f (mergeLanes (tc.lanesOn p) (tc.vreg p.vd) rs).1 (mergeLanes (tc.lanesOn p) (tc.vreg p.vd) rs).2 :=
  ⟨mergeLanes_length .., fun l _ a b c hl ho ha hb hc =>
    ⟨fun hon => mergeLanes_of_on (TileCtx.lanesOn_of_laneOn hl hon) ho (h l a b c hl ha hb hc),
      fun hoff => mergeLanes_of_off rs (TileCtx.lanesOn_of_not_laneOn hl hoff) ho⟩⟩

/-! ### The lane-wise instructions (04_tile_store_vector R113; 05_instruction_set Table 5.8) -/

/-- Each lane-wise instruction is issued with its own opcode, which is assigned, and its own function. -/
theorem exec_laneOps {x : (Issue → Instr) × Nat × (W32 → W32 → W32 → FRes)} (hx : x ∈ laneOps) (i : Issue) (s : State) :
    exec (x.1 i) s = .next (s.issue 2 x.2.1 i (bodyLane x.2.2)) ∧ opAssigned 2 x.2.1 = true := by
  simp only [laneOps, List.mem_cons, List.not_mem_nil, or_false] at hx
  rcases hx with rfl | rfl | rfl | rfl | rfl | rfl | rfl | rfl | rfl | rfl | rfl | rfl <;> exact ⟨rfl, rfl⟩

/-- The lanes and flags that a lane-wise instruction leaves in VD. -/
def laneResult (f : W32 → W32 → W32 → FRes) (p : VPay) (tc : TileCtx) : List W32 × ExFlags :=
  mergeLanes (tc.lanesOn p) (tc.vreg p.vd) (mapLanes f (tc.vreg p.va) (tc.vreg p.vb) (tc.vreg p.vc))

theorem laneResult_lanesAre (f : W32 → W32 → W32 → FRes) (p : VPay) (tc : TileCtx) :
    lanesAre tc p (fun _ => f) (laneResult f p tc).1 (laneResult f p tc).2 :=
  lanesAre_mergeLanes fun _ _ _ _ _ ha hb hc => mapLanes_getElem? f ha hb hc

theorem bodyLane_writes {f : W32 → W32 → W32 → FRes} {e : Env} (s : State) (hrnd : (vpay e.pl).rnd < 2)
    (hsub : (vpay e.pl).sub = 0) :
    bodyLane f e s = .go
      (s.setTc e.c e.v ((s.tc e.c e.v).setVreg (vpay e.pl).vd (laneResult f (vpay e.pl) (s.tc e.c e.v)).1))
      (fun g => { g with flags := (laneResult f (vpay e.pl) (s.tc e.c e.v)).2 }) Queue.advance :=
  Act.when_of_false (by simp [vpayOk_of_sub_zero hrnd hsub])

/-- Settles O9: each of the twelve writes the merged lanes of its own function. -/
theorem vectorLanesComplete : Obligations.VectorLanesComplete := by
  intro s i e x hx p tc h hrnd hsub
  obtain ⟨hexec, hassigned⟩ := exec_laneOps hx i s
  have hwrites := congrArg (s.act e) (bodyLane_writes (f := x.2.2) s hrnd hsub)
  exact ⟨_, _, (exec_of_issues h hassigned hexec).trans (congrArg _ hwrites), laneResult_lanesAre x.2.2 p tc⟩

/-! ### VSEL, VLOGIC and VCVT (04_tile_store_vector R113; 05_instruction_set R557) -/

/-- The lanes and flags of a VSEL. -/
def vselResult (p : VPay) (tc : TileCtx) : List W32 × ExFlags :=
  mergeLanes (tc.lanesOn p) (tc.vreg p.vd) (selLanes (maskBits (tc.mask p.mreg)) (tc.vreg p.va) (tc.vreg p.vb))

theorem vselResult_lanesAre (p : VPay) (tc : TileCtx) :
    lanesAre tc p (fun l a b _ => ⟨if (tc.mask p.mreg).getLsbD l then a else b, flNone⟩) (vselResult p tc).1
      (vselResult p tc).2 :=
  lanesAre_mergeLanes fun _ _ _ _ hl ha hb _ => selLanes_getElem? (maskBits_getElem? _ hl) ha hb

theorem bodyVsel_writes {e : Env} (s : State) (hrnd : (vpay e.pl).rnd < 2) (hsub : (vpay e.pl).sub = 0) :
    bodyVsel e s = .go
      (s.setTc e.c e.v ((s.tc e.c e.v).setVreg (vpay e.pl).vd (vselResult (vpay e.pl) (s.tc e.c e.v)).1))
      id Queue.advance :=
  Act.when_of_false (by simp [vpayOk_of_sub_zero hrnd hsub])

/-- The logical function that a sub-code of VLOGIC names (Table 5.8). -/
def logicOf (sub : Nat) (a b : W32) : W32 :=
  if sub = 0 then a &&& b else if sub = 1 then a ||| b else if sub = 2 then a ^^^ b else a &&& ~~~b

theorem bodyVlogic_writes {e : Env} (s : State) (hrnd : (vpay e.pl).rnd < 2) (hsub : (vpay e.pl).sub < 4) :
    bodyVlogic e s = .go
      (s.setTc e.c e.v ((s.tc e.c e.v).setVreg (vpay e.pl).vd
        (laneResult (fun a b _ => noFlag (logicOf (vpay e.pl).sub a b)) (vpay e.pl) (s.tc e.c e.v)).1))
      id Queue.advance := by
  have hok : vpayOk (vpay e.pl) (fun n => decide (n < 4)) = true := vpayOk_eq_true hrnd (by simp [hsub])
  refine (Act.when_of_false (by simp [hok])).trans ?_
  rw [laneResult]
  obtain hop | hop | hop | hop :
    (vpay e.pl).sub = 0 ∨ (vpay e.pl).sub = 1 ∨ (vpay e.pl).sub = 2 ∨ (vpay e.pl).sub = 3 := by omega
  all_goals simp [hop, logicOf]

/-- The conversion of lane `l` of a VCVT (R557; log 21). -/
def cvtOf (s : State) (e : Env) (l : Nat) (a : W32) : FRes :=
  let p := vpay e.pl
  cvtLane p.fmt p.sat (bit p.sub 0) (e.round6 s p (p.rnd == 1) l) (Config.freeW32 (s.free + l)) a

/-- The lanes and flags of a VCVT. -/
def vcvtResult (s : State) (e : Env) : List W32 × ExFlags :=
  let p := vpay e.pl
  let tc := s.tc e.c e.v
  mergeLanes (tc.lanesOn p) (tc.vreg p.vd) (cvtLanes (cvtOf s e) 0 (tc.vreg p.va))

theorem vcvtResult_lanesAre (s : State) (e : Env) :
    lanesAre (s.tc e.c e.v) (vpay e.pl) (fun l a _ _ => cvtOf s e l a) (vcvtResult s e).1 (vcvtResult s e).2 :=
  lanesAre_mergeLanes fun l _ _ _ _ ha _ _ => by simpa using cvtLanes_getElem? (cvtOf s e) 0 ha

theorem bodyVcvt_writes {e : Env} (s : State) (hrnd : (vpay e.pl).rnd < 2) (hsub : (vpay e.pl).sub < 2)
    (hfmt : (vpay e.pl).fmt ≠ 0xF) :
    bodyVcvt e s = .go
      ({ s with free := s.free + 256 }.setTc e.c e.v ((s.tc e.c e.v).setVreg (vpay e.pl).vd (vcvtResult s e).1))
      (fun g => { g with flags := (vcvtResult s e).2 }) Queue.advance :=
  have hok : vpayOk (vpay e.pl) (fun n => decide (n < 2)) = true := vpayOk_eq_true hrnd (by simp [hsub])
  Act.when_of_false (by rw [hok]; simp [hfmt])

/-- Settles O10: each of the three writes its merged lanes. -/
theorem selectLogicConvertComplete : Obligations.SelectLogicConvertComplete := by
  intro s i e p tc hrnd
  refine ⟨fun h hsub => ?selects, fun h hsub => ?computes, fun h hsub hfmt => ?converts⟩
  case selects =>
    have hwrites := congrArg (s.act e) (bodyVsel_writes s hrnd hsub)
    exact ⟨_, _, (exec_of_issues h rfl rfl).trans (congrArg _ hwrites), vselResult_lanesAre p tc⟩
  case computes =>
    have hwrites := congrArg (s.act e) (bodyVlogic_writes s hrnd hsub)
    exact ⟨_, _, (exec_of_issues h rfl rfl).trans (congrArg _ hwrites), laneResult_lanesAre _ p tc⟩
  case converts =>
    have hwrites := congrArg (s.act e) (bodyVcvt_writes s hrnd hsub hfmt)
    exact ⟨_, _, (exec_of_issues h rfl rfl).trans (congrArg _ hwrites), vcvtResult_lanesAre s e⟩

end Sys2Proof.Machine
end

section
/-! The softmax merge (O12). -/

namespace Sys2Proof.Machine

/-! ### Vector registers merged one after another (04_tile_store_vector R113) -/

/-- Register `r` with results merged into its lanes that are on. -/
def TileCtx.mergeVreg (tc : TileCtx) (ons : List Bool) (r : Nat) (rs : List FRes) : TileCtx :=
  tc.setVreg r (mergeLanes ons (tc.vreg r) rs).1

section MergeVreg
variable {tc : TileCtx} {ons : List Bool} {l : Nat} {o : W32} (r q : Nat) (rs : List FRes)

/-- The registers that are not written stay. -/
theorem TileCtx.vreg_mergeVreg_ne {r q : Nat} (h : q ≠ r) : (tc.mergeVreg ons r rs).vreg q = tc.vreg q := by
  rw [TileCtx.mergeVreg, TileCtx.vreg_setVreg, if_neg h]

/-- A lane that is off keeps its value in every register. -/
theorem TileCtx.vreg_mergeVreg_of_off (hon : ons[l]? = some false) (ho : (tc.vreg q)[l]? = some o) :
    ((tc.mergeVreg ons r rs).vreg q)[l]? = some o := by
  rw [TileCtx.mergeVreg, TileCtx.vreg_setVreg]
  split
  · subst q; exact mergeLanes_of_off rs hon ho
  · exact ho

/-- A lane that is on takes its result in the register that is written. -/
theorem TileCtx.vreg_mergeVreg_of_on {x : FRes} (hon : ons[l]? = some true) (hx : rs[l]? = some x)
    (ho : (tc.vreg q)[l]? = some o) :
    ((tc.mergeVreg ons r rs).vreg q)[l]? = some (if q = r then x.v else o) := by
  rw [TileCtx.mergeVreg, TileCtx.vreg_setVreg]
  split
  · subst q; exact (mergeLanes_of_on hon ho hx).1
  · exact ho

end MergeVreg

/-! ### The two parts over the lanes (04_tile_store_vector R119; 05_instruction_set R147) -/

theorem mergeLanesSms_getElem? : ∀ {ms ls m2s l2s : List W32} {n : Nat} {m k m2 k2 : W32}, ms[n]? = some m →
    ls[n]? = some k → m2s[n]? = some m2 → l2s[n]? = some k2 →
      (mergeLanesSms ms ls m2s l2s)[n]? = some (mergeState m k m2 k2)
  | _ :: _, _ :: _, _ :: _, _ :: _, 0, _, _, _, _, rfl, rfl, rfl, rfl => rfl
  | _ :: ms, _ :: ls, _ :: m2s, _ :: l2s, n + 1, _, _, _, _, hm, hk, hm2, hk2 =>
    mergeLanesSms_getElem? (ms := ms) (ls := ls) (m2s := m2s) (l2s := l2s) (n := n) hm hk hm2 hk2

theorem mergeLanesSmo_getElem? : ∀ {os o2s as bs ks : List W32} {n : Nat} {o o2 a b k : W32}, os[n]? = some o →
    o2s[n]? = some o2 → as[n]? = some a → bs[n]? = some b → ks[n]? = some k →
      (mergeLanesSmo os o2s as bs ks)[n]? = some (mergeOut o o2 a b k)
  | _ :: _, _ :: _, _ :: _, _ :: _, _ :: _, 0, _, _, _, _, _, rfl, rfl, rfl, rfl, rfl => rfl
  | _ :: os, _ :: o2s, _ :: as, _ :: bs, _ :: ks, n + 1, _, _, _, _, _, ho, ho2, ha, hb, hk =>
    mergeLanesSmo_getElem? (os := os) (o2s := o2s) (as := as) (bs := bs) (ks := ks) (n := n) ho ho2 ha hb hk

/-- There are no more empty queries than lanes. -/
theorem emptyQueries_le : ∀ (ons : List Bool) (ms : List W32), emptyQueries ons ms ≤ ons.length
  | [], _ | _ :: _, [] => Nat.zero_le _
  | on :: ons, m :: ms => by
    have hlane : b2n (on && m == inf32 true) ≤ 1 := by unfold b2n; split <;> omega
    have hrest := emptyQueries_le ons ms
    rw [emptyQueries, List.length_cons]
    omega

@[simp] theorem TileCtx.lanesOn_length (tc : TileCtx) (p : VPay) : (tc.lanesOn p).length = 256 := by
  unfold TileCtx.lanesOn
  split
  · rw [maskBits, List.length_map, List.length_range]
  · exact List.length_replicate

/-! ### VSMS -/

/-- The merged states of the lanes of a VSMS. -/
def vsmsLanes (p : VPay) (tc : TileCtx) : List Merge :=
  mergeLanesSms (tc.vreg p.vd) (tc.vreg (p.vd + 1)) (tc.vreg p.va) (tc.vreg (p.va + 1))

/-- The registers after a VSMS: the maximum, the sum, the two factors and the case, in the order of their writes
(log 16). -/
def vsmsRegs (p : VPay) (tc : TileCtx) : TileCtx :=
  let put (tc1 : TileCtx) (r : Nat) (f : Merge → W32) : TileCtx :=
    tc1.mergeVreg (tc.lanesOn p) r ((vsmsLanes p tc).map fun x => noFlag (f x))
  put (put (put (put (put tc p.vd (·.m)) (p.vd + 1) (·.l)) p.vc (·.a)) (p.vc + 1) (·.b)) (p.vc + 2) (·.case)

/-- The flags of a VSMS. -/
def vsmsFlags (p : VPay) (tc : TileCtx) : ExFlags :=
  (mergeLanes (tc.lanesOn p) (tc.vreg p.vd) ((vsmsLanes p tc).map fun x => ⟨x.m, x.fl⟩)).2

/-- The lanes of a VSMS that have met no key yet (log 14). -/
def vsmsEmpty (p : VPay) (tc : TileCtx) : Nat := emptyQueries (tc.lanesOn p) ((vsmsLanes p tc).map (·.m))

theorem vsmsEmpty_le (p : VPay) (tc : TileCtx) : vsmsEmpty p tc ≤ 256 :=
  Nat.le_trans (emptyQueries_le ..) (Nat.le_of_eq (tc.lanesOn_length p))

/-- A VSMS changes vector registers alone. -/
theorem vsmsRegs_rest (p : VPay) (tc : TileCtx) : { vsmsRegs p tc with vregs := tc.vregs } = tc := rfl

theorem vreg_vsmsRegs_ne {p : VPay} {tc : TileCtx} {r : Nat} (h : r ≠ p.vd) (h1 : r ≠ p.vd + 1) (hc : r ≠ p.vc)
    (hc1 : r ≠ p.vc + 1) (hc2 : r ≠ p.vc + 2) : (vsmsRegs p tc).vreg r = tc.vreg r := by
  simp only [vsmsRegs, TileCtx.vreg_mergeVreg_ne, h, h1, hc, hc1, hc2, ne_eq, not_false_eq_true]

theorem vreg_vsmsRegs_of_off {p : VPay} {tc : TileCtx} {l : Nat} {o : W32} (r : Nat)
    (hon : (tc.lanesOn p)[l]? = some false) (ho : (tc.vreg r)[l]? = some o) :
    ((vsmsRegs p tc).vreg r)[l]? = some o := by
  iterate 5 refine TileCtx.vreg_mergeVreg_of_off _ r _ hon ?_
  exact ho

/-- A lane that is on takes the last of its merged values that are written to the register. -/
theorem vreg_vsmsRegs_of_on {p : VPay} {tc : TileCtx} {l : Nat} {o : W32} {x : Merge} (r : Nat)
    (hon : (tc.lanesOn p)[l]? = some true) (hx : (vsmsLanes p tc)[l]? = some x) (ho : (tc.vreg r)[l]? = some o) :
    ((vsmsRegs p tc).vreg r)[l]? = some (if r = p.vc + 2 then x.case else if r = p.vc + 1 then x.b
      else if r = p.vc then x.a else if r = p.vd + 1 then x.l else if r = p.vd then x.m else o) := by
  have hres (f : Merge → W32) : ((vsmsLanes p tc).map fun y => noFlag (f y))[l]? = some (noFlag (f x)) := by
    rw [List.getElem?_map, hx, Option.map_some]
  exact TileCtx.vreg_mergeVreg_of_on _ r _ hon (hres _) <| TileCtx.vreg_mergeVreg_of_on _ r _ hon (hres _) <|
    TileCtx.vreg_mergeVreg_of_on _ r _ hon (hres _) <| TileCtx.vreg_mergeVreg_of_on _ r _ hon (hres _) <|
    TileCtx.vreg_mergeVreg_of_on _ r _ hon (hres _) ho

/-- The flags of a lane that is on are among those raised. -/
theorem vsmsFlags_of_on {p : VPay} {tc : TileCtx} {l : Nat} {m : W32} {x : Merge}
    (hon : (tc.lanesOn p)[l]? = some true) (hx : (vsmsLanes p tc)[l]? = some x) (hm : (tc.vreg p.vd)[l]? = some m) :
    x.fl ||| vsmsFlags p tc = vsmsFlags p tc := by
  have hres : ((vsmsLanes p tc).map fun y => (⟨y.m, y.fl⟩ : FRes))[l]? = some ⟨x.m, x.fl⟩ := by
    rw [List.getElem?_map, hx, Option.map_some]
  exact (mergeLanes_of_on hon hm hres).2

theorem bodyVsms_writes {e : Env} (s : State) (hrnd : (vpay e.pl).rnd < 2) (hsub : (vpay e.pl).sub = 0)
    (hvd : (vpay e.pl).vd ≤ 30) (hva : (vpay e.pl).va ≤ 30) (hvc : (vpay e.pl).vc ≤ 29) :
    bodyVsms e s = .go
      ((s.setTc e.c e.v (vsmsRegs (vpay e.pl) (s.tc e.c e.v))).countEmpty e.t (vsmsEmpty (vpay e.pl) (s.tc e.c e.v)))
      (fun g => { g with flags := vsmsFlags (vpay e.pl) (s.tc e.c e.v) }) Queue.advance :=
  Act.when_of_false (by simp [vpayOk_of_sub_zero hrnd hsub, hvd, hva, hvc])

/-! ### VSMO -/

/-- The lanes and flags of a VSMO. -/
def vsmoResult (p : VPay) (tc : TileCtx) : List W32 × ExFlags :=
  mergeLanes (tc.lanesOn p) (tc.vreg p.vd)
    (mergeLanesSmo (tc.vreg p.vd) (tc.vreg p.va) (tc.vreg p.vc) (tc.vreg (p.vc + 1)) (tc.vreg (p.vc + 2)))

theorem bodyVsmo_writes {e : Env} (s : State) (hrnd : (vpay e.pl).rnd < 2) (hsub : (vpay e.pl).sub = 0)
    (hvc : (vpay e.pl).vc ≤ 29) :
    bodyVsmo e s = .go
      (s.setTc e.c e.v ((s.tc e.c e.v).setVreg (vpay e.pl).vd (vsmoResult (vpay e.pl) (s.tc e.c e.v)).1))
      (fun g => { g with flags := (vsmoResult (vpay e.pl) (s.tc e.c e.v)).2 }) Queue.advance :=
  Act.when_of_false (by simp [vpayOk_of_sub_zero hrnd hsub, hvc])

/-- Settles O12: VSMS writes its five registers one after another, and VSMO the merged lanes of VD. -/
theorem softmaxMergeComplete : Obligations.SoftmaxMergeComplete := by
  intro s i e p tc hrnd hsub hvc
  refine ⟨fun h hvd hva => ?state, fun h => ?output⟩
  case state =>
    have hwrites := congrArg (s.act e) (bodyVsms_writes s hrnd hsub hvd hva hvc)
    refine ⟨vsmsRegs p tc, vsmsEmpty p tc, vsmsFlags p tc, (exec_of_issues h rfl rfl).trans (congrArg _ hwrites),
      vsmsEmpty_le p tc, vsmsRegs_rest p tc, fun _ => vreg_vsmsRegs_ne, fun r l o hl ho hoff => ?_,
      fun r l o m k m2 k2 hl ho hm hk hm2 hk2 hon => ?_⟩
    · exact vreg_vsmsRegs_of_off r (TileCtx.lanesOn_of_not_laneOn hl hoff) ho
    · have hlane := TileCtx.lanesOn_of_laneOn hl hon
      have hx : (vsmsLanes p tc)[l]? = some (mergeState m k m2 k2) := mergeLanesSms_getElem? hm hk hm2 hk2
      exact ⟨vreg_vsmsRegs_of_on r hlane hx ho, vsmsFlags_of_on hlane hx hm⟩
  case output =>
    have hwrites := congrArg (s.act e) (bodyVsmo_writes s hrnd hsub hvc)
    refine ⟨_, _, (exec_of_issues h rfl rfl).trans (congrArg _ hwrites), fun l o o2 a b k hl ho ho2 ha hb hk => ?_⟩
    exact ⟨fun hon => mergeLanes_of_on (TileCtx.lanesOn_of_laneOn hl hon) ho (mergeLanesSmo_getElem? ho ho2 ha hb hk),
      fun hoff => mergeLanes_of_off _ (TileCtx.lanesOn_of_not_laneOn hl hoff) ho⟩

end Sys2Proof.Machine
end

section
/-! SUPPORT. The bits of little-endian numbers, of bit fields, of packed elements and of memories. -/

namespace Sys2Proof.Machine

/-! ### Little-endian numbers and bit fields (00_scope R8) -/

theorem testBit_leNat (bs : Bytes) (j : Nat) : (leNat bs).testBit j = ((bs[j / 8]?).getD 0).getLsbD (j % 8) := by
  induction bs generalizing j with
  | nil => simp [leNat]
  | cons b bs ih =>
    rw [leNat, show 256 = 2 ^ 8 from rfl, Nat.add_comm, Nat.testBit_two_pow_mul_add _ b.isLt]
    split
    · next hj =>
      rw [Nat.div_eq_of_lt hj, Nat.mod_eq_of_lt hj]
      rfl
    · next hj =>
      obtain ⟨i, rfl⟩ : ∃ i, j = i + 8 := ⟨j - 8, by omega⟩
      rw [ih, Nat.add_sub_cancel, Nat.add_div_right _ (by decide), Nat.add_mod_right, List.getElem?_cons_succ]

@[simp] theorem leBytes_length (n v : Nat) : (leBytes n v).length = n := by
  induction n generalizing v with
  | zero => rfl
  | succ n ih => rw [leBytes, List.length_cons, ih]

/-- Reading back the low bytes of a number gives the number modulo their range. -/
theorem leNat_leBytes (n v : Nat) : leNat (leBytes n v) = v % 2 ^ (8 * n) := by
  induction n generalizing v with
  | zero => rw [leBytes, leNat, Nat.mul_zero, Nat.pow_zero, Nat.mod_one]
  | succ n ih =>
    rw [leBytes, leNat, ih, BitVec.toNat_ofNat, show 8 * (n + 1) = 8 + 8 * n by omega, Nat.pow_add, Nat.mod_mul]

theorem leNat_append (as bs : Bytes) : leNat (as ++ bs) = leNat as + 2 ^ (8 * as.length) * leNat bs := by
  induction as with
  | nil => simp [leNat]
  | cons a as ih =>
    rw [List.cons_append, leNat, leNat, ih, List.length_cons, Nat.mul_succ, Nat.pow_add, Nat.mul_add, Nat.add_assoc,
      Nat.mul_comm _ (2 ^ 8), Nat.mul_assoc]

/-- A number with a field replaced, cut at the ends of the field. -/
theorem setFld_eq (x lo w v : Nat) :
    setFld x lo w v = 2 ^ lo * (2 ^ w * (x / 2 ^ lo / 2 ^ w) + v % 2 ^ w) + x % 2 ^ lo := by
  have hfld : fld x lo w = x / 2 ^ lo % 2 ^ w := by rw [fld, Nat.shiftRight_eq_div_pow]
  have hx : 2 ^ lo * (2 ^ w * (x / 2 ^ lo / 2 ^ w) + x / 2 ^ lo % 2 ^ w) + x % 2 ^ lo = x := by
    rw [Nat.div_add_mod, Nat.div_add_mod]
  have hcut : x - x / 2 ^ lo % 2 ^ w * 2 ^ lo = 2 ^ lo * (2 ^ w * (x / 2 ^ lo / 2 ^ w)) + x % 2 ^ lo := by
    refine Nat.sub_eq_of_eq_add (hx.symm.trans ?_)
    rw [Nat.mul_add, Nat.mul_comm (x / 2 ^ lo % 2 ^ w), Nat.add_right_comm]
  rw [setFld, hfld, hcut, Nat.mul_add, Nat.mul_comm (v % 2 ^ w), Nat.add_right_comm]

/-- The bits of a replaced field are those of its value, and the others stay. -/
theorem testBit_setFld (x lo w v j : Nat) :
    (setFld x lo w v).testBit j = if lo ≤ j ∧ j < lo + w then v.testBit (j - lo) else x.testBit j := by
  rw [setFld_eq, Nat.testBit_two_pow_mul_add _ (Nat.mod_lt _ (Nat.two_pow_pos lo))]
  split
  · next hj =>
    rw [Nat.testBit_mod_two_pow, if_neg (by omega), decide_eq_true hj, Bool.true_and]
  · next hj =>
    rw [Nat.testBit_two_pow_mul_add _ (Nat.mod_lt _ (Nat.two_pow_pos w))]
    split
    · next hw =>
      rw [Nat.testBit_mod_two_pow, if_pos (by omega), decide_eq_true hw, Bool.true_and]
    · next hw =>
      rw [Nat.testBit_div_two_pow, Nat.testBit_div_two_pow, if_neg (by omega)]
      congr 1
      omega

/-! ### Packed elements (02_number_formats R49) -/

/-- The number that packed elements of `w` bits make, the first lowest. -/
def packNat (w : Nat) (es : List Nat) : Nat := es.foldr (fun n acc => n % 2 ^ w + acc * 2 ^ w) 0

theorem packNat_cons (w n : Nat) (es : List Nat) : packNat w (n :: es) = 2 ^ w * packNat w es + n % 2 ^ w := by
  rw [packNat, List.foldr_cons, ← packNat, Nat.add_comm, Nat.mul_comm]

theorem packNat_lt (w : Nat) (es : List Nat) : packNat w es < 2 ^ (es.length * w) := by
  induction es with
  | nil => simp [packNat]
  | cons n es ih =>
    have hn : n % 2 ^ w < 2 ^ w := Nat.mod_lt _ (Nat.two_pow_pos w)
    calc packNat w (n :: es) = 2 ^ w * packNat w es + n % 2 ^ w := packNat_cons w n es
      _ < 2 ^ w * (packNat w es + 1) := by rw [Nat.mul_succ]; omega
      _ ≤ 2 ^ w * 2 ^ (es.length * w) := Nat.mul_le_mul_left _ ih
      _ = 2 ^ ((n :: es).length * w) := by rw [List.length_cons, Nat.succ_mul, Nat.pow_add, Nat.mul_comm]

theorem testBit_packNat {w : Nat} {es : List Nat} {l n j : Nat} (hl : es[l]? = some n) (hj : j < w) :
    (packNat w es).testBit (l * w + j) = n.testBit j := by
  induction es generalizing l with
  | nil => cases hl
  | cons n' es ih =>
    rw [packNat_cons, Nat.testBit_two_pow_mul_add _ (Nat.mod_lt _ (Nat.two_pow_pos w))]
    cases l with
    | zero =>
      cases hl
      rw [if_pos (by omega), Nat.testBit_mod_two_pow, Nat.zero_mul, Nat.zero_add, decide_eq_true hj, Bool.true_and]
    | succ l =>
      rw [if_neg (by rw [Nat.succ_mul]; omega), ← ih hl]
      congr 1
      rw [Nat.succ_mul]
      omega

theorem packElems_length (w : Nat) (es : List Nat) : (packElems w es).length = (es.length * w + 7) / 8 := by
  unfold packElems
  split
  · next hw =>
    obtain ⟨k, rfl⟩ : ∃ k, w = 8 * k := ⟨w / 8, by omega⟩
    have hlen : (es.flatMap fun n => leBytes (8 * k / 8) n).length = es.length * k := by
      rw [Nat.mul_div_cancel_left k (by decide)]
      induction es with
      | nil => rw [List.flatMap_nil, List.length_nil, List.length_nil, Nat.zero_mul]
      | cons n es ih =>
        rw [List.flatMap_cons, List.length_append, leBytes_length, ih, List.length_cons, Nat.succ_mul, Nat.add_comm]
    rw [hlen, Nat.mul_left_comm]
    omega
  · exact leBytes_length ..

theorem leNat_packElems (w : Nat) (es : List Nat) : leNat (packElems w es) = packNat w es := by
  unfold packElems
  split
  · next hw =>
    have hbits : 8 * (w / 8) = w := by omega
    induction es with
    | nil => rfl
    | cons n es ih =>
      rw [List.flatMap_cons, leNat_append, ih, leNat_leBytes, leBytes_length, hbits, packNat_cons, Nat.add_comm]
  · rw [leNat_leBytes]
    refine Nat.mod_eq_of_lt (Nat.lt_of_lt_of_le (packNat_lt w es) (Nat.pow_le_pow_right (by decide) ?_))
    omega

/-! ### Bits of a memory -/

/-- The bits of the number that a stretch of memory holds are the memory's own. -/
theorem testBit_leNat_memReadBytes (m : Mem) (a n j : Nat) :
    (leNat (memReadBytes m a n)).testBit j = (decide (j < 8 * n) && memBit m (8 * a + j)) := by
  rw [testBit_leNat, memBit]
  by_cases hj : j < 8 * n
  · rw [memReadBytes_get m a n (j / 8) (by omega), Option.getD_some, decide_eq_true hj, Bool.true_and,
      Nat.mul_add_div (by decide), Nat.mul_add_mod]
  · rw [List.getElem?_eq_none (by rw [memReadBytes_length]; omega), decide_eq_false hj, Bool.false_and,
      Option.getD_none]
    exact BitVec.getLsbD_zero

/-- A bit read after a write: one of the number written, or what was there before. -/
theorem memBit_memWriteBytes (m : Mem) (a : Nat) (bs : Bytes) (k : Nat) :
    memBit (memWriteBytes m a bs) k =
      if 8 * a ≤ k ∧ k < 8 * (a + bs.length) then (leNat bs).testBit (k - 8 * a) else memBit m k := by
  rw [memBit, memRead_memWriteBytes]
  split
  · next hin =>
    rw [if_pos (by omega), testBit_leNat, show (k - 8 * a) / 8 = k / 8 - a by omega,
      show (k - 8 * a) % 8 = k % 8 by omega, memDefault]
  · next hout => rw [if_neg (by omega), memBit]

/-- A bit after an element is put: one of the element's own, or what was there before. Elements of whole bytes begin at
a byte. -/
theorem memBit_putElem {w b : Nat} (m : Mem) (n k : Nat) (hw : w % 8 = 0 → b % 8 = 0) :
    memBit (putElem w m b n) k = if b ≤ k ∧ k < b + w then n.testBit (k - b) else memBit m k := by
  unfold putElem
  split
  · next hw8 =>
    have hb := hw hw8
    rw [memBit_memWriteBytes, leNat_leBytes, leBytes_length, Nat.testBit_mod_two_pow, show 8 * (b / 8) = b by omega]
    by_cases hk : b ≤ k ∧ k < b + w
    · rw [if_pos (by omega), if_pos hk, decide_eq_true (by omega), Bool.true_and]
    · rw [if_neg (by omega), if_neg hk]
  · dsimp only
    rw [memBit_memWriteBytes, leNat_leBytes, leBytes_length, Nat.testBit_mod_two_pow, testBit_setFld,
      testBit_leNat_memReadBytes]
    by_cases hk : b ≤ k ∧ k < b + w
    · rw [if_pos (by omega), decide_eq_true (by omega), if_pos (by omega), if_pos hk, Bool.true_and]
      congr 1
      omega
    · rw [if_neg hk]
      split
      · rw [decide_eq_true (by omega), if_neg (by omega), Bool.true_and, Bool.true_and]
        congr 1
        omega
      · rfl

end Sys2Proof.Machine
end

section
/-! LIVE and DLOAD (O6). -/

namespace Sys2Proof.Machine

/-! ### LIVE (04_tile_store_vector R110) -/

/-- A live map after regions are set or cleared: those regions hold the new bit, and the others stay. -/
theorem getLsbD_liveSet (m : BitVec 256) (first cnt : Nat) (set : Bool) {r : Nat} (hr : r < 256) :
    (liveSet m first cnt set).getLsbD r = if first ≤ r ∧ r ≤ first + cnt then set else m.getLsbD r := by
  have hmask : (BitVec.ofNat 256 ((2 ^ (cnt + 1) - 1) * 2 ^ first)).getLsbD r =
      decide (first ≤ r ∧ r ≤ first + cnt) := by
    rw [BitVec.getLsbD_ofNat, Nat.testBit_mul_two_pow, Nat.testBit_two_pow_sub_one, decide_eq_true hr, Bool.true_and,
      ← Bool.decide_and]
    congr 1
    apply propext
    omega
  cases set with
  | true =>
    rw [liveSet, if_pos rfl, BitVec.getLsbD_or, hmask]
    by_cases hin : first ≤ r ∧ r ≤ first + cnt
    · rw [if_pos hin, decide_eq_true hin, Bool.or_true]
    · rw [if_neg hin, decide_eq_false hin, Bool.or_false]
  | false =>
    rw [liveSet, if_neg Bool.false_ne_true, BitVec.getLsbD_and, BitVec.getLsbD_not, hmask, decide_eq_true hr,
      Bool.true_and]
    by_cases hin : first ≤ r ∧ r ≤ first + cnt
    · rw [if_pos hin, decide_eq_true hin, Bool.not_true, Bool.and_false]
    · rw [if_neg hin, decide_eq_false hin, Bool.not_false, Bool.and_true]

/-- A LIVE with no reserved bit set and regions that exist changes the live map alone. -/
theorem bodyLive_writes {e : Env} (s : State) (hres : fld e.pl 0 71 = 0) (hreg : fld e.pl 80 8 + fld e.pl 72 8 ≤ 255) :
    bodyLive e s = .go
      (s.setTc e.c e.v { s.tc e.c e.v with
        live := liveSet (s.tc e.c e.v).live (fld e.pl 80 8) (fld e.pl 72 8) (bit e.pl 71) }) id Queue.advance :=
  Act.when_of_false (by simp [hres, hreg])

/-! ### DLOAD (05_instruction_set R151) -/

/-- A part of a stretch of memory is the stretch there. -/
theorem take_drop_memReadBytes (m : Mem) {a n i k : Nat} (h : i + k ≤ n) :
    ((memReadBytes m a n).drop i).take k = memReadBytes m (a + i) k := by
  refine List.ext_getElem? fun j => ?_
  by_cases hj : j < k
  · rw [List.getElem?_take_of_lt hj, List.getElem?_drop, memReadBytes_get m a n (i + j) (by omega),
      memReadBytes_get m (a + i) k j hj, Nat.add_assoc]
  · rw [List.getElem?_eq_none (by rw [List.length_take]; omega),
      List.getElem?_eq_none (by rw [memReadBytes_length]; omega)]

/-- A table loaded with `k` descriptors from entry `n` on: those entries hold them, and the others stay. -/
theorem get_loadEntries (tab : Tbl (BitVec 128)) (n k : Nat) (bs : Bytes) (j : Nat) :
    Tbl.get 0 (loadEntries tab n k bs) j =
      if n ≤ j ∧ j < n + k then BitVec.ofNat 128 (leNat ((bs.drop (16 * (j - n))).take 16)) else Tbl.get 0 tab j := by
  induction k generalizing tab n bs with
  | zero => rw [loadEntries, if_neg (by omega)]
  | succ k ih =>
    rw [loadEntries, ih, Tbl.get_set]
    rcases Nat.lt_trichotomy j n with hj | rfl | hj
    · rw [if_neg (by omega), if_neg (by omega), if_neg (by omega)]
    · rw [if_neg (by omega), if_pos rfl, if_pos (by omega), Nat.sub_self, Nat.mul_zero, List.drop_zero]
    · have hdrop : 16 * (j - n) = 16 + 16 * (j - (n + 1)) := by omega
      rw [hdrop, ← List.drop_drop]
      by_cases hin : j < n + 1 + k
      · rw [if_pos ⟨hj, hin⟩, if_pos (by omega)]
      · rw [if_neg (by omega), if_neg (by omega), if_neg (by omega)]

/-- The operand table after a DLOAD from a tile store without bad words. -/
def dloadTab (s : State) (e : Env) : Tbl (BitVec 128) :=
  let cnt := fld e.pl 76 6 + 1
  loadEntries (s.tc e.c e.v).opTab (fld e.pl 82 6) cnt
    (memReadBytes (s.tile e.t).store (fld e.pl 53 22) (16 * cnt))

theorem get_dloadTab (s : State) (e : Env) (k : Nat) :
    Tbl.get 0 (dloadTab s e) k =
      if fld e.pl 82 6 ≤ k ∧ k ≤ fld e.pl 82 6 + fld e.pl 76 6 then
        BitVec.ofNat 128 (leNat (memReadBytes (s.tile e.t).store (fld e.pl 53 22 + 16 * (k - fld e.pl 82 6)) 16))
      else Tbl.get 0 (s.tc e.c e.v).opTab k := by
  rw [dloadTab, get_loadEntries, ← Nat.add_assoc]
  simp only [Nat.lt_succ_iff]
  split
  · rw [take_drop_memReadBytes _ (by omega)]
  · rfl

/-- A DLOAD of the operand table from a tile store without bad words, within the table and the store, loads it. -/
theorem bodyDload_writes {s : State} {e : Env} (hres : fld e.pl 0 53 = 0) (hop : bit e.pl 75 = false)
    (htab : fld e.pl 82 6 + fld e.pl 76 6 + 1 ≤ 64) (hin : fld e.pl 53 22 + 16 * (fld e.pl 76 6 + 1) ≤ storeSize)
    (hclean : (s.tile e.t).ecc = []) :
    bodyDload e s = .go (s.setTc e.c e.v { s.tc e.c e.v with opTab := dloadTab s e })
      (fun f => { f with poison := false }) Queue.advance := by
  refine (Act.when_of_false ?_).trans ((Act.when_of_false ?_).trans ?_)
  · simp [hres, hop]; omega
  · exact decide_eq_false (Nat.not_lt.mpr hin)
  · rw [State.storeRead_clean _ _ _ _ _ hclean, hop]
    rfl

/-- Settles O6: LIVE changes its regions of the live map, and DLOAD its entries of the operand table. -/
theorem tableInstructionsComplete : Obligations.TableInstructionsComplete := by
  intro s i e
  refine ⟨fun h hres hreg => ?live, fun h hres hop htab hin hclean => ?dload⟩
  case live =>
    have hwrites := congrArg (s.act e) (bodyLive_writes s hres hreg)
    exact ⟨_, (exec_of_issues h rfl rfl).trans (congrArg _ hwrites), fun r hr => getLsbD_liveSet _ _ _ _ hr⟩
  case dload =>
    have hwrites := congrArg (s.act e) (bodyDload_writes hres hop htab hin hclean)
    exact ⟨dloadTab s e, (exec_of_issues h rfl rfl).trans (congrArg _ hwrites), get_dloadTab s e⟩

end Sys2Proof.Machine
end

section
/-! The loads and stores of the vector unit: VLD, VGATH, VST and VSCAT (O13, O14, O15). -/

namespace Sys2Proof.Machine

/-! ### The lanes that are on and the reach of their elements (04_tile_store_vector R113) -/

theorem TileCtx.lanesOn_eq_some_true {tc : TileCtx} {p : VPay} {l : Nat} :
    (tc.lanesOn p)[l]? = some true ↔ l < 256 ∧ laneOn tc p l := by
  refine ⟨fun h => ?_, fun ⟨hl, hon⟩ => TileCtx.lanesOn_of_laneOn hl hon⟩
  have hl : l < 256 := by simpa using (List.getElem?_eq_some_iff.mp h).1
  refine ⟨hl, Classical.byContradiction fun hoff => ?_⟩
  rw [TileCtx.lanesOn_of_not_laneOn hl hoff] at h
  cases h

/-- The check of an access to the tile store finds a lane that is on and whose element passes an end of the store. -/
theorem anyOutside_iff (s : State) (e : Env) (indexed : Bool) :
    ((((s.tc e.c e.v).lanesOn (vpay e.pl)).zip (elemBits s e indexed)).any fun x =>
      x.1 && !bitsIn (fmtWidth (vpay e.pl).fmt) x.2) = true ↔ ¬ elemsIn s e indexed := by
  simp only [List.any_eq_true, List.mem_iff_getElem?, List.getElem?_zip_eq_some, elemsIn, Bool.and_eq_true,
    Bool.not_eq_true', Classical.not_forall, Bool.not_eq_true, Prod.exists]
  constructor
  · rintro ⟨on, b, ⟨l, hon, hb⟩, rfl, hout⟩
    obtain ⟨hl, hlane⟩ := TileCtx.lanesOn_eq_some_true.mp hon
    exact ⟨l, b, hl, hlane, hb, hout⟩
  · rintro ⟨l, b, hl, hlane, hb, hout⟩
    exact ⟨true, b, ⟨l, TileCtx.lanesOn_of_laneOn hl hlane, hb⟩, rfl, hout⟩

theorem anyOutside_of_elemsIn {s : State} {e : Env} {indexed : Bool} (h : elemsIn s e indexed) :
    ((((s.tc e.c e.v).lanesOn (vpay e.pl)).zip (elemBits s e indexed)).any fun x =>
      x.1 && !bitsIn (fmtWidth (vpay e.pl).fmt) x.2) = false :=
  eq_false_of_ne_true fun hout => (anyOutside_iff s e indexed).mp hout h

/-! ### Loads -/

theorem loadLanes_of_on {fmt : Nat} : ∀ {os : List W32} {ns : List (Option Nat)} {l : Nat} {o : W32} {n : Nat},
    os[l]? = some o → ns[l]? = some (some n) → (loadLanes fmt os ns)[l]? = some (laneOf fmt n)
  | _ :: _, _ :: _, 0, _, _, rfl, rfl => rfl
  | _ :: os, some _ :: ns, l + 1, _, _, ho, hn | _ :: os, none :: ns, l + 1, _, _, ho, hn =>
    loadLanes_of_on (os := os) (ns := ns) (l := l) ho hn

theorem loadLanes_of_off {fmt : Nat} : ∀ {os : List W32} {ns : List (Option Nat)} {l : Nat} {o : W32},
    os[l]? = some o → ns[l]? = some none → (loadLanes fmt os ns)[l]? = some o
  | _ :: _, _ :: _, 0, _, rfl, rfl => rfl
  | _ :: os, some _ :: ns, l + 1, _, ho, hn | _ :: os, none :: ns, l + 1, _, ho, hn =>
    loadLanes_of_off (os := os) (ns := ns) (l := l) ho hn

/-- The element of `w` bits at bit address `a` of a memory. -/
def elemAt (m : Mem) (w a : Nat) : Nat := fld (leNat (memReadBytes m (a / 8) ((a % 8 + w + 7) / 8))) (a % 8) w

/-- The elements that lanes name in a memory, none for a lane that is off. -/
def elemsAt (m : Mem) (w : Nat) (ons : List Bool) (ls : List Int) : List (Option Nat) :=
  (ons.zip ls).map fun l => if l.1 then some (elemAt m w l.2.toNat) else none

theorem elemsAt_getElem? (m : Mem) (w : Nat) {ons : List Bool} {ls : List Int} {l : Nat} {on : Bool} {b : Int}
    (hon : ons[l]? = some on) (hb : ls[l]? = some b) :
    (elemsAt m w ons ls)[l]? = some (if on then some (elemAt m w b.toNat) else none) := by
  have hz : (ons.zip ls)[l]? = some (on, b) := List.getElem?_zip_eq_some.mpr ⟨hon, hb⟩
  rw [elemsAt, List.getElem?_map, hz, Option.map_some]

/-- Lanes read from a tile store without bad words are read without a further effect. -/
theorem readLanes_clean {s : State} {t : Nat} (w : Nat) (ons : List Bool) (ls : List Int) (h : (s.tile t).ecc = []) :
    readLanes t w s ons ls = (s, elemsAt (s.tile t).store w ons ls, false) := by
  simp only [readLanes, h, List.filter_nil, List.foldl_nil, List.any_nil]
  rfl

/-- The part in which a load reads: a gather has counted its bank conflicts (R112). -/
def State.loadCounted (s : State) (e : Env) (gather : Bool) : State :=
  if gather then s.evTile 0x00D e.t (bankMax (elemBits s e gather)) else s

/-- Counting changes neither the sequencer's state nor the contents and the codes of a store. -/
theorem State.loadCounted_keeps (s : State) (e : Env) (gather : Bool) :
    (s.loadCounted e gather).tc e.c e.v = s.tc e.c e.v ∧
      ((s.loadCounted e gather).tile e.t).store = (s.tile e.t).store ∧
      ((s.loadCounted e gather).tile e.t).ecc = (s.tile e.t).ecc := by
  cases gather with
  | false => exact ⟨rfl, rfl, rfl⟩
  | true =>
    refine ⟨?_, State.ev_store .., (congrArg Tile.ecc (s.ev_tile ..) :)⟩
    rw [State.tc, State.loadCounted, if_pos rfl, State.evTile, State.ev_tctx, State.tc]

/-- The lanes of VD after a load from a tile store without bad words. -/
def loadResult (s : State) (e : Env) (gather : Bool) : List W32 :=
  let p := vpay e.pl
  let tc := s.tc e.c e.v
  loadLanes p.fmt (tc.vreg p.vd)
    (elemsAt (s.tile e.t).store (fmtWidth p.fmt) (tc.lanesOn p) (elemBits s e gather))

section Load
variable {s : State} {e : Env} {gather : Bool} (hrnd : (vpay e.pl).rnd < 2) (hsub : (vpay e.pl).sub = 0)
  (hfmt : (vpay e.pl).fmt ≠ 0xF)
include hrnd hsub hfmt

/-- A load of elements within a tile store without bad words writes VD. -/
theorem bodyLoad_writes (hclean : (s.tile e.t).ecc = []) (hin : elemsIn s e gather) :
    bodyLoad gather e s = .go
      ((s.loadCounted e gather).setTc e.c e.v ((s.tc e.c e.v).setVreg (vpay e.pl).vd (loadResult s e gather)))
      (fun g => { g with poison := false }) Queue.advance := by
  obtain ⟨htc, hstore, hecc⟩ := s.loadCounted_keeps e gather
  have hread := readLanes_clean (fmtWidth (vpay e.pl).fmt) ((s.tc e.c e.v).lanesOn (vpay e.pl)) (elemBits s e gather)
    (hecc.trans hclean)
  rw [hstore] at hread
  have hbody : bodyLoad gather e s =
      let r := readLanes e.t (fmtWidth (vpay e.pl).fmt) (s.loadCounted e gather) ((s.tc e.c e.v).lanesOn (vpay e.pl))
        (elemBits s e gather)
      .go (r.1.setTc e.c e.v ((r.1.tc e.c e.v).setVreg (vpay e.pl).vd
        (loadLanes (vpay e.pl).fmt ((s.tc e.c e.v).vreg (vpay e.pl).vd) r.2.1)))
        (fun g => { g with poison := r.2.2 }) Queue.advance :=
    (Act.when_of_false (by simp [vpayOk_of_sub_zero hrnd hsub, hfmt])).trans
      (Act.when_of_false (anyOutside_of_elemsIn hin))
  rw [hbody, hread]
  dsimp only
  rw [htc, loadResult]

/-- A load that names a byte outside the tile store stops. -/
theorem bodyLoad_of_outside (hout : ¬ elemsIn s e gather) : bodyLoad gather e s = .exc xAccess :=
  (Act.when_of_false (by simp [vpayOk_of_sub_zero hrnd hsub, hfmt])).trans
    (Act.when_of_true ((anyOutside_iff s e gather).mpr hout))

end Load

/-- Both loads are issued with their opcode. -/
theorem exec_load {s : State} {i : Issue} {e : Env} {gather : Bool}
    (h : Issues s i 2 (if gather then 0x22 else 0x20) e) :
    exec (if gather then .vgath i else .vld i) s = .next (s.act e (bodyLoad gather e s)) := by
  cases gather with
  | false => exact exec_of_issues (x := .vld i) h rfl rfl
  | true => exact exec_of_issues (x := .vgath i) h rfl rfl

/-- Settles O13: the lanes that are on take their elements of the store as it stands. -/
theorem vectorLoadsComplete : Obligations.VectorLoadsComplete := by
  intro s i e gather p tc w base ls h hrnd hsub hfmt hclean hin
  have hwrites := congrArg (s.act e) (bodyLoad_writes hrnd hsub hfmt hclean fun l b _ hon hb => hin l b hon hb)
  refine ⟨loadResult s e gather, (exec_load h).trans (congrArg _ hwrites), fun l o b hl ho hb => ?_⟩
  have helem {on : Bool} (hon : (tc.lanesOn p)[l]? = some on) :=
    elemsAt_getElem? (s.tile e.t).store (fmtWidth p.fmt) hon hb
  exact ⟨fun hon => loadLanes_of_on ho (helem (TileCtx.lanesOn_of_laneOn hl hon)),
    fun hoff => loadLanes_of_off ho (helem (TileCtx.lanesOn_of_not_laneOn hl hoff))⟩

end Sys2Proof.Machine
end

section
/-! What a store or scatter of the vector unit puts into a tile store (O14, O15). -/

namespace Sys2Proof.Machine

/-! ### Lanes put into a memory (04_tile_store_vector R113) -/

/-- The memory `m'` is `m` with the elements `xs` of the lanes that are on put at the bit addresses `bs`: the bits of a
lane that no later lane writes over are its element's, and the bits of no lane stay. -/
structure LanesPut (w : Nat) (m m' : Mem) (ons : List Bool) (bs : List Int) (xs : List (Nat × ExFlags)) : Prop where
  put : ∀ (l : Nat) (b : Int) (x : Nat × ExFlags) (j : Nat), ons[l]? = some true → bs[l]? = some b →
    xs[l]? = some x → j < w →
    (∀ (l' : Nat) (b' : Int), l < l' → ons[l']? = some true → bs[l']? = some b' →
      b.toNat + j < b'.toNat ∨ b'.toNat + w ≤ b.toNat + j) →
    memBit m' (b.toNat + j) = x.1.testBit j
  stay : ∀ k, (∀ (l : Nat) (b : Int), ons[l]? = some true → bs[l]? = some b → k < b.toNat ∨ b.toNat + w ≤ k) →
    memBit m' k = memBit m k

/-- One more lane put before the others. -/
theorem LanesPut.cons {w : Nat} {m m' : Mem} {ons : List Bool} {bs : List Int} {xs : List (Nat × ExFlags)}
    {on : Bool} {b : Int} {x : Nat × ExFlags} (hw : w % 8 = 0 → b.toNat % 8 = 0)
    (h : LanesPut w (if on then putElem w m b.toNat x.1 else m) m' ons bs xs) :
    LanesPut w m m' (on :: ons) (b :: bs) (x :: xs) where
  put l b' x' j hon hb hx hj hlater := by
    cases l with
    | zero =>
      cases hon; cases hb; cases hx
      rw [h.stay _ fun l' b' hon' hb' => hlater (l' + 1) b' (Nat.succ_pos l') hon' hb', if_pos rfl,
        memBit_putElem _ _ _ hw, if_pos (by omega), Nat.add_sub_cancel_left]
    | succ l =>
      exact h.put l b' x' j hon hb hx hj fun l' b'' hl' hon' hb' =>
        hlater (l' + 1) b'' (Nat.succ_lt_succ hl') hon' hb'
  stay k hk := by
    rw [h.stay k fun l b' hon' hb' => hk (l + 1) b' hon' hb']
    cases on with
    | false => rfl
    | true =>
      have hfirst := hk 0 b rfl rfl
      rw [if_pos rfl, memBit_putElem _ _ _ hw, if_neg (by omega)]

/-- Where there are no more lanes, nothing is put. -/
theorem LanesPut.none {w : Nat} {m : Mem} {ons : List Bool} {bs : List Int} {xs : List (Nat × ExFlags)}
    (h : ∀ (l : Nat) (b : Int) (x : Nat × ExFlags), ons[l]? = some true → bs[l]? = some b → xs[l]? = some x → False) :
    LanesPut w m m ons bs xs where
  put l b x _ hon hb hx _ _ := (h l b x hon hb hx).elim
  stay _ _ := rfl

theorem putLanes_lanesPut {w : Nat} : ∀ (m : Mem) (ons : List Bool) {bs : List Int} (xs : List (Nat × ExFlags)),
    (∀ b ∈ bs, w % 8 = 0 → b.toNat % 8 = 0) → LanesPut w m (putLanes w m ons bs xs) ons bs xs
  | _, [], _, _, _ | _, _ :: _, [], _, _ | _, _ :: _, _ :: _, [], _ => by
    rw [putLanes.eq_def]
    exact LanesPut.none (by simp)
  | m, on :: ons, b :: bs, x :: xs, hw =>
    have ⟨hb, hbs⟩ := List.forall_mem_cons.mp hw
    .cons hb (putLanes_lanesPut _ ons xs hbs)

/-! ### Contiguous lanes written as one string of bytes -/

theorem laneBits_contiguous {w base : Nat} {vb : List W32} {l : Nat} {b : Int}
    (hb : (laneBits w base false vb)[l]? = some b) : l < 256 ∧ b.toNat = 8 * base + l * w := by
  rw [laneBits, if_neg Bool.false_ne_true, List.getElem?_map, Option.map_eq_some_iff] at hb
  obtain ⟨l', hl', rfl⟩ := hb
  obtain ⟨hl, rfl⟩ := List.getElem?_eq_some_iff.mp hl'
  rw [List.length_range] at hl
  rw [List.getElem_range]
  exact ⟨hl, by omega⟩

theorem laneBits_contiguous_getElem? (w base : Nat) (vb : List W32) {l : Nat} (hl : l < 256) :
    (laneBits w base false vb)[l]? = some (8 * (base : Int) + (l * w : Nat)) := by
  rw [laneBits, if_neg Bool.false_ne_true, List.getElem?_map, List.getElem?_range hl, Option.map_some]

/-- All lanes, packed and written from a base on. -/
theorem packElems_lanesPut {w base : Nat} (m : Mem) {ons : List Bool} (vb : List W32) {xs : List (Nat × ExFlags)}
    (hons : ∀ l, l < 256 → ons[l]? = some true) (hxs : xs.length ≤ 256) :
    LanesPut w m (memWriteBytes m base (packElems w (xs.map (·.1)))) ons (laneBits w base false vb) xs := by
  have hbit (k : Nat) : memBit (memWriteBytes m base (packElems w (xs.map (·.1)))) k =
      if 8 * base ≤ k ∧ k < 8 * (base + (xs.length * w + 7) / 8) then (packNat w (xs.map (·.1))).testBit (k - 8 * base)
      else memBit m k := by
    rw [memBit_memWriteBytes, leNat_packElems, packElems_length, List.length_map]
  constructor
  case put =>
    intro l b x j hon hb hx hj _
    obtain ⟨hl, hbase⟩ := laneBits_contiguous hb
    have hlen : l + 1 ≤ xs.length := (List.getElem?_eq_some_iff.mp hx).1
    have hroom : (l + 1) * w ≤ xs.length * w := Nat.mul_le_mul_right w hlen
    have hn : (xs.map (·.1))[l]? = some x.1 := by rw [List.getElem?_map, hx, Option.map_some]
    rw [Nat.succ_mul] at hroom
    rw [hbit, hbase, if_pos (by omega), ← testBit_packNat hn hj]
    congr 1
    omega
  case stay =>
    intro k hk
    rw [hbit, if_neg]
    rintro ⟨hlow, hhigh⟩
    have hroom : xs.length * w ≤ 256 * w := Nat.mul_le_mul_right w hxs
    have hw : 0 < w := by
      rcases Nat.eq_zero_or_pos w with rfl | hw
      · omega
      · exact hw
    have hlane : (k - 8 * base) / w < 256 := by
      rw [Nat.div_lt_iff_lt_mul hw]
      omega
    have hmod := Nat.div_add_mod' (k - 8 * base) w
    have hlt := Nat.mod_lt (k - 8 * base) hw
    have hb := laneBits_contiguous_getElem? w base vb hlane
    have hbase := (laneBits_contiguous hb).2
    have hclear := hk _ _ (hons _ hlane) hb
    rw [hbase] at hclear
    omega

/-! ### The elements of a store -/

theorem storeElems_getElem? (f : Nat → W32 → Nat × ExFlags) : ∀ (k : Nat) {ons : List Bool} {as : List W32} {l : Nat}
    {a : W32}, ons[l]? = some true → as[l]? = some a → (storeElems f k ons as)[l]? = some (f (k + l) a)
  | _, _ :: _, _ :: _, 0, _, rfl, rfl => rfl
  | k, _ :: ons, _ :: as, l + 1, _, hon, ha => by
    have hl := storeElems_getElem? f (k + 1) (ons := ons) (as := as) (l := l) hon ha
    rw [Nat.add_right_comm] at hl
    exact hl

theorem storeElems_length_le (f : Nat → W32 → Nat × ExFlags) : ∀ (k : Nat) (ons : List Bool) (as : List W32),
    (storeElems f k ons as).length ≤ ons.length
  | _, [], _ | _, _ :: _, [] => Nat.zero_le _
  | k, _ :: ons, _ :: as => Nat.succ_le_succ (storeElems_length_le f (k + 1) ons as)

/-- The elements that the lanes of a store put, and their flags. -/
def storeLanes (s : State) (e : Env) : List (Nat × ExFlags) :=
  storeElems (laneElem s e) 0 ((s.tc e.c e.v).lanesOn (vpay e.pl)) ((s.tc e.c e.v).vreg (vpay e.pl).va)

theorem storeLanes_getElem? {s : State} {e : Env} {l : Nat} {a : W32}
    (hon : ((s.tc e.c e.v).lanesOn (vpay e.pl))[l]? = some true)
    (ha : ((s.tc e.c e.v).vreg (vpay e.pl).va)[l]? = some a) : (storeLanes s e)[l]? = some (laneElem s e l a) := by
  have hl := storeElems_getElem? (laneElem s e) 0 hon ha
  rw [Nat.zero_add] at hl
  exact hl

theorem storeLanes_length_le (s : State) (e : Env) : (storeLanes s e).length ≤ 256 :=
  Nat.le_trans (storeElems_length_le ..) (Nat.le_of_eq (TileCtx.lanesOn_length ..))

/-- Each flag value of a list is among their union. -/
theorem or_flUnion {l : List ExFlags} {x : ExFlags} (h : x ∈ l) : x ||| flUnion l = flUnion l := by
  have keep (l : List ExFlags) (a : ExFlags) (ha : x ||| a = a) : x ||| l.foldl (· ||| ·) a = l.foldl (· ||| ·) a := by
    induction l generalizing a with
    | nil => exact ha
    | cons y l ih => exact ih (a ||| y) (by rw [← BitVec.or_assoc, ha])
  suffices hfold : ∀ a, x ||| l.foldl (· ||| ·) a = l.foldl (· ||| ·) a from hfold flNone
  induction l with
  | nil => cases h
  | cons y l ih =>
    intro a
    rcases List.mem_cons.mp h with rfl | h
    · exact keep l (a ||| x) (by rw [BitVec.or_comm a, ← BitVec.or_assoc, BitVec.or_self])
    · exact ih h (a ||| y)

/-- Elements of whole bytes begin at a byte. -/
theorem elemBits_aligned (s : State) (e : Env) (indexed : Bool) :
    ∀ b ∈ elemBits s e indexed, fmtWidth (vpay e.pl).fmt % 8 = 0 → b.toNat % 8 = 0 := by
  intro b hb hw
  suffices hdvd : (8 : Int) ∣ b by omega
  obtain ⟨w, hw⟩ := Nat.dvd_of_mod_eq_zero hw
  rw [elemBits, laneBits, hw] at hb
  cases indexed with
  | false =>
    obtain ⟨l, -, rfl⟩ := List.mem_map.mp hb
    rw [Nat.mul_left_comm]
    omega
  | true =>
    obtain ⟨o, -, rfl⟩ := List.mem_map.mp hb
    dsimp only
    split
    · have hzero : w = 0 := by omega
      subst hzero
      simp
    · exact Int.dvd_mul_right ..

/-! ### What meeting bad words and writing leave as they are (04_tile_store_vector R103, R106) -/

/-- The part beside the store of tile `t`: the other tiles, and the whole state but tiles and counters. -/
def State.besideStore (s : State) (t : Nat) : (Nat → Option Tile) × State :=
  (fun u => if u = t then none else some (s.tile u), { s with tiles := [], cnt := {} })

theorem State.setTile_besideStore (s : State) (t : Nat) (x : Tile) :
    (s.setTile t x).besideStore t = s.besideStore t := by
  refine Prod.ext (funext fun u => ?_) rfl
  unfold State.besideStore
  dsimp only
  split
  · rfl
  · next hu => rw [State.tile_setTile, if_neg hu]

theorem State.evTile_besideStore (s : State) (ev t n : Nat) : (s.evTile ev t n).besideStore t = s.besideStore t := by
  unfold State.evTile State.ev
  dsimp only
  split
  · exact State.setTile_besideStore ..
  · rfl

theorem State.meetWord_besideStore (t req : Nat) (s : State) (b : Nat × Health) :
    (State.meetWord t req s b).besideStore t = s.besideStore t := by
  unfold State.meetWord
  split
  · rw [State.storeCe, State.evTile_besideStore, State.setTile_besideStore]
  · rw [State.storeUe, State.hardEvent, State.evTile_besideStore, State.setTile_besideStore, State.evTile_besideStore,
      State.setTile_besideStore]

theorem State.meetWord_store (t req : Nat) (s : State) (b : Nat × Health) :
    ((State.meetWord t req s b).tile t).store = (s.tile t).store := by
  unfold State.meetWord
  split
  · rw [State.storeCe, State.evTile, State.ev_store, State.tile_setTile_self]
  · rw [State.storeUe, State.hardEvent, State.evTile, State.ev_store, State.tile_setTile_self, State.evTile,
      State.ev_store, State.tile_setTile_self]

theorem State.storeWrite_besideStore (s : State) (t req a : Nat) (bs : Bytes) :
    (s.storeWrite t req a bs).besideStore t = s.besideStore t := by
  unfold State.storeWrite
  dsimp only
  rw [State.setTile_besideStore]
  exact foldl_keeps (State.besideStore · t) (State.meetWord_besideStore t req) _ s

theorem State.storeWrite_store (s : State) (t req a : Nat) (bs : Bytes) :
    ((s.storeWrite t req a bs).tile t).store = memWriteBytes (s.tile t).store a bs := by
  unfold State.storeWrite
  dsimp only
  rw [State.tile_setTile_self]
  exact congrArg (memWriteBytes · a bs) (foldl_keeps (fun u => (u.tile t).store) (State.meetWord_store t req) _ s)

theorem writeLanes_besideStore (t w : Nat) (s : State) (ons : List Bool) (ls : List Int) (xs : List (Nat × ExFlags)) :
    (writeLanes t w s ons ls xs).besideStore t = s.besideStore t := by
  unfold writeLanes
  dsimp only
  rw [State.setTile_besideStore]
  exact foldl_keeps (State.besideStore · t) (State.meetWord_besideStore t 4) _ s

theorem writeLanes_store (t w : Nat) (s : State) (ons : List Bool) (ls : List Int) (xs : List (Nat × ExFlags)) :
    ((writeLanes t w s ons ls xs).tile t).store = putLanes w (s.tile t).store ons ls xs := by
  unfold writeLanes
  dsimp only
  rw [State.tile_setTile_self]
  exact congrArg (putLanes w · ons ls xs) (foldl_keeps (fun u => (u.tile t).store) (State.meetWord_store t 4) _ s)

/-! ### The part after a store -/

/-- The part in which a store writes: its free values are counted, and a scatter has counted its bank conflicts. -/
def State.storeCounted (s : State) (e : Env) (scatter : Bool) : State :=
  let s0 : State := { s with free := s.free + 256 }
  if scatter then s0.evTile 0x00D e.t (bankMax (elemBits s e scatter)) else s0

/-- The part after a store: every lane of a VST at once, or the lanes that are on one by one. -/
def State.storedLanes (s : State) (e : Env) (scatter : Bool) : State :=
  let p := vpay e.pl
  let ons := (s.tc e.c e.v).lanesOn p
  if !scatter && ons.all id then
    (s.storeCounted e scatter).storeWrite e.t 4 (p.addr + (e.qu.ireg p.idx).toNat)
      (packElems (fmtWidth p.fmt) ((storeLanes s e).map (·.1)))
  else writeLanes e.t (fmtWidth p.fmt) (s.storeCounted e scatter) ons (elemBits s e scatter) (storeLanes s e)

theorem State.storeCounted_besideStore (s : State) (e : Env) (scatter : Bool) :
    (s.storeCounted e scatter).besideStore e.t = ({ s with free := s.free + 256 } : State).besideStore e.t := by
  cases scatter with
  | false => rfl
  | true => exact State.evTile_besideStore ..

theorem State.storeCounted_store (s : State) (e : Env) (scatter : Bool) :
    ((s.storeCounted e scatter).tile e.t).store = (s.tile e.t).store := by
  cases scatter with
  | false => rfl
  | true => exact State.ev_store ..

theorem State.storedLanes_besideStore (s : State) (e : Env) (scatter : Bool) :
    (s.storedLanes e scatter).besideStore e.t = ({ s with free := s.free + 256 } : State).besideStore e.t := by
  rw [← State.storeCounted_besideStore s e scatter]
  unfold State.storedLanes
  dsimp only
  split
  · exact State.storeWrite_besideStore ..
  · exact writeLanes_besideStore ..

/-- A store puts its lanes. -/
theorem State.storedLanes_lanesPut (s : State) (e : Env) (scatter : Bool) :
    LanesPut (fmtWidth (vpay e.pl).fmt) (s.tile e.t).store ((s.storedLanes e scatter).tile e.t).store
      ((s.tc e.c e.v).lanesOn (vpay e.pl)) (elemBits s e scatter) (storeLanes s e) := by
  unfold State.storedLanes
  dsimp only
  split
  · next hall =>
    obtain ⟨hcontig, hall⟩ := Bool.and_eq_true_iff.mp hall
    obtain rfl : scatter = false := by simpa using hcontig
    rw [State.storeWrite_store, State.storeCounted_store]
    refine packElems_lanesPut _ _ (fun l hl => ?_) (storeLanes_length_le s e)
    have hlen : l < ((s.tc e.c e.v).lanesOn (vpay e.pl)).length :=
      Nat.lt_of_lt_of_eq hl (TileCtx.lanesOn_length ..).symm
    rw [List.getElem?_eq_getElem hlen]
    exact congrArg some (List.all_eq_true.mp hall _ (List.getElem_mem hlen))
  · rw [writeLanes_store, State.storeCounted_store]
    exact putLanes_lanesPut _ _ _ (elemBits_aligned s e scatter)

/-- An element of a lane that is on begins at a bit of the store, so its address is a natural number. -/
theorem toNat_elemBits {s : State} {e : Env} {indexed : Bool} {l : Nat} {b : Int} (hin : elemsIn s e indexed)
    (hl : l < 256) (hon : laneOn (s.tc e.c e.v) (vpay e.pl) l) (hb : (elemBits s e indexed)[l]? = some b) :
    (b.toNat : Int) = b := by
  have hbits := hin l b hl hon hb
  rw [bitsIn, Bool.and_eq_true, decide_eq_true_eq] at hbits
  exact Int.toNat_of_nonneg hbits.1

/-- A store of elements within the tile store does what a store does. -/
theorem State.storedLanes_storesLanes {s : State} {e : Env} {scatter : Bool} (hin : elemsIn s e scatter) :
    StoresLanes s (s.storedLanes e scatter) e scatter (flUnion ((storeLanes s e).map (·.2))) := by
  have hput := s.storedLanes_lanesPut e scatter
  have hbeside := s.storedLanes_besideStore e scatter
  have hrest := congrArg Prod.snd hbeside
  constructor
  case put =>
    intro l b a j hl hb ha hon hj hlater
    have hlane := TileCtx.lanesOn_of_laneOn hl hon
    refine hput.put l b _ j hlane hb (storeLanes_getElem? hlane ha) hj fun l' b' hl' hlane' hb' => ?_
    obtain ⟨hl256, hon'⟩ := TileCtx.lanesOn_eq_some_true.mp hlane'
    have hclear := hlater l' b' hl' hl256 hon' hb'
    have hnat := toNat_elemBits hin hl hon hb
    have hnat' := toNat_elemBits hin hl256 hon' hb'
    omega
  case stay =>
    intro k hk
    refine hput.stay k fun l b hlane hb => ?_
    obtain ⟨hl, hon⟩ := TileCtx.lanesOn_eq_some_true.mp hlane
    have hclear := hk l b hl hon hb
    have hnat := toNat_elemBits hin hl hon hb
    omega
  case tiles =>
    intro u hu
    have htile := congrFun (congrArg Prod.fst hbeside) u
    simp only [State.besideStore, if_neg hu, Option.some.injEq] at htile
    exact htile
  case flags =>
    intro l a hl ha hon
    have hx := storeLanes_getElem? (TileCtx.lanesOn_of_laneOn hl hon) ha
    exact or_flUnion (List.mem_map.mpr ⟨_, List.mem_of_getElem? hx, rfl⟩)
  case rest => exact congrArg (fun u : State => { u with tiles := s.tiles, cnt := s.cnt, free := s.free }) hrest
  case free => exact congrArg State.free hrest

/-! ### VST and VSCAT at issue (04_tile_store_vector R118; 05_instruction_set Table 5.11) -/

section Store
variable {s : State} {e : Env} {scatter : Bool} (hrnd : (vpay e.pl).rnd < 2) (hsub : (vpay e.pl).sub = 0)
  (hfmt : (vpay e.pl).fmt ≠ 0xF)
include hrnd hsub hfmt

/-- A format that the context's class may store passes the first guard of a store. -/
theorem bodyStore_of_class (hclass : (s.ctx e.c).classW = true ∨ (vpay e.pl).fmt ≠ 0) :
    bodyStore scatter e s =
      Act.when ((((s.tc e.c e.v).lanesOn (vpay e.pl)).zip (elemBits s e scatter)).any fun x =>
        x.1 && !bitsIn (fmtWidth (vpay e.pl).fmt) x.2) xAccess
      (.go (s.storedLanes e scatter) (fun g => { g with flags := flUnion ((storeLanes s e).map (·.2)) })
        Queue.advance) :=
  Act.when_of_false (by rcases hclass with h | h <;> simp [vpayOk_of_sub_zero hrnd hsub, hfmt, h])

theorem bodyStore_writes (hclass : (s.ctx e.c).classW = true ∨ (vpay e.pl).fmt ≠ 0) (hin : elemsIn s e scatter) :
    bodyStore scatter e s = .go (s.storedLanes e scatter)
      (fun g => { g with flags := flUnion ((storeLanes s e).map (·.2)) }) Queue.advance :=
  (bodyStore_of_class hrnd hsub hfmt hclass).trans (Act.when_of_false (anyOutside_of_elemsIn hin))

theorem bodyStore_of_outside (hclass : (s.ctx e.c).classW = true ∨ (vpay e.pl).fmt ≠ 0)
    (hout : ¬ elemsIn s e scatter) : bodyStore scatter e s = .exc xAccess :=
  (bodyStore_of_class hrnd hsub hfmt hclass).trans (Act.when_of_true ((anyOutside_iff s e scatter).mpr hout))

end Store

/-- A class N context stores no FP32 (R118). -/
theorem bodyStore_of_classN {s : State} {e : Env} {scatter : Bool} (hclass : (s.ctx e.c).classW = false)
    (hfmt : (vpay e.pl).fmt = 0) : bodyStore scatter e s = .exc xInvalid :=
  Act.when_of_true (by simp [hclass, hfmt])

/-- Settles O14: all lanes are written packed, and lanes under a mask one by one. -/
theorem vectorStoreCompletes : Obligations.VectorStoreCompletes := by
  intro s i e p h hrnd hsub hfmt hclass hin
  have hwrites := congrArg (s.act e) (bodyStore_writes hrnd hsub hfmt hclass hin)
  exact ⟨_, _, (exec_of_issues h rfl rfl).trans (congrArg _ hwrites), State.storedLanes_storesLanes hin⟩

/-- Settles O15: a scatter within the store puts its lanes, and an access outside it or of a format that the class may
not store stops. -/
theorem vectorAccessChecks : Obligations.VectorAccessChecks := by
  intro s i e p hrnd hsub hfmt
  have hstops {cls op code : Nat} {x : Instr} {body : Env → State → Act} (h : Issues s i cls op e)
      (ha : opAssigned cls op = true) (hx : exec x s = .next (s.issue cls op i body)) (hbody : body e s = .exc code) :
      exec x s = .next (s.excAt e code) :=
    (exec_of_issues h ha hx).trans (congrArg (fun a => Host.Outcome.next (s.act e a)) hbody)
  refine ⟨fun h hclass hin => ?scatters, fun hout => ⟨fun h hclass => ?vscat, fun h => ?vgath⟩,
    fun hout => ⟨fun h hclass => ?vst, fun h => ?vld⟩, fun hclass hzero => ⟨fun h => ?vstN, fun h => ?vscatN⟩⟩
  case scatters =>
    have hwrites := congrArg (s.act e) (bodyStore_writes hrnd hsub hfmt hclass hin)
    exact ⟨_, _, (exec_of_issues h rfl rfl).trans (congrArg _ hwrites), State.storedLanes_storesLanes hin⟩
  case vscat => exact hstops h rfl rfl (bodyStore_of_outside hrnd hsub hfmt hclass hout)
  case vgath => exact hstops h rfl rfl (bodyLoad_of_outside hrnd hsub hfmt hout)
  case vst => exact hstops h rfl rfl (bodyStore_of_outside hrnd hsub hfmt hclass hout)
  case vld => exact hstops h rfl rfl (bodyLoad_of_outside hrnd hsub hfmt hout)
  case vstN => exact hstops h rfl rfl (bodyStore_of_classN hclass hzero)
  case vscatN => exact hstops h rfl rfl (bodyStore_of_classN hclass hzero)

end Sys2Proof.Machine
end

section
/-! The scrubber of an HBM stack (O28). -/

namespace Sys2Proof.Machine

/-- Setting a stack twice keeps the second value alone. -/
theorem State.setStack_setStack (s : State) (k : Nat) (x y : Stack) :
    (s.setStack k x).setStack k y = s.setStack k y := by
  simp [State.setStack]

/-- The part at a scrub interval of stack `k`, before its scrubber reads: the new upsets have struck, and the
corrections that the DRAM made on its die are counted. -/
def State.scrubBegun (s : State) (k : Nat) (ups : List (Nat × Bool)) (odecc : Nat) : State :=
  let s1 := ups.foldl State.upsetBurst s
  s1.setStack k { s1.stack k with odecc := satInc 16 (s1.stack k).odecc odecc }

/-- What a stack's scrubber has moved on to after a chunk without bad bursts: the stack's next chunk, or chunk 0 after
the last one; its count of uncorrectable reads starts again where a pass begins, at chunk 0
(11_memory_tiers R342, R344). -/
def Stack.scrubbed (x : Stack) : Stack :=
  { x with
    scrubNext := if hbmC ≤ x.scrubNext + 1 then 0 else x.scrubNext + 1
    ueInPass := if x.scrubNext = 0 then 0 else x.ueInPass }

/-- A scrub interval of an active stack that meets no bad burst. -/
theorem exec_hbmScrubInterval_clean {s s0 : State} {k odecc : Nat} {ups : List (Nat × Bool)} (hk : k < 12)
    (hs0 : s.scrubBegun k ups odecc = s0) (hst : (s0.stack k).st = .active) (hen : bit s0.hbm.ctl.toNat 8 = true)
    (hclean : s0.badInChunk k (s0.stack k).scrubNext = []) :
    exec (.hbmScrubInterval k ups odecc) s = .next (s0.setStack k (s0.stack k).scrubbed) := by
  have hgo : ¬ (12 ≤ k ∨ (s0.stack k).st ≠ .active ∨ (!bit s0.hbm.ctl.toNat 8) = true) := by
    simp [Nat.not_le.mpr hk, hst, hen]
  have hrun : exec (.hbmScrubInterval k ups odecc) s = execHbmScrubInterval k ups odecc s := rfl
  rw [hrun, execHbmScrubInterval, if_pos hk]
  rw [State.scrubBegun] at hs0
  dsimp only at hs0 ⊢
  rw [hs0, if_neg hgo, hclean, List.foldl_nil, Stack.scrubbed]
  split
  · rw [State.stack_setStack_self, State.setStack_setStack]
  · rfl

/-- A part whose stack 0 is about to scrub the last chunk of a pass that has met one uncorrectable read. -/
def passEnds : State :=
  { State.reset with hbm := { State.reset.hbm with
      stackTbl := [(0, { st := .active, scrubNext := hbmC - 1, ueInPass := 1 })] } }

/-- After the last chunk of the pass its one uncorrectable read is still counted. -/
theorem exec_hbmScrubInterval_passEnds : exec (.hbmScrubInterval 0 [] 0) passEnds =
    .next (passEnds.setStack 0 { st := .active, scrubNext := 0, ueInPass := 1 }) :=
  exec_hbmScrubInterval_clean (by decide) rfl rfl (by decide) rfl

/-- Refutes O28: the interval that ends a pass leaves the pass's uncorrectable reads counted, until the interval that
begins the next pass clears them; the statement has the count cleared at the end of the pass. -/
theorem not_memoryUpkeepCompletes : ¬ Obligations.MemoryUpkeepCompletes := by
  rintro ⟨-, hstacks⟩
  obtain ⟨hscrub, -⟩ := hstacks passEnds 0 (by decide)
  have hsays := hscrub [] 0 rfl (by decide) rfl
  rw [exec_hbmScrubInterval_passEnds] at hsays
  have hcount := congrArg (fun s => (s.stack 0).ueInPass) (Host.Outcome.next.inj hsays)
  simp only [State.stack_setStack_self] at hcount
  exact absurd hcount (by decide)

end Sys2Proof.Machine
end

section
/-! The registers of a tile, and HBM_LAYOUT (O29). -/

namespace Sys2Proof.Machine

/-! ### An access to a tile that is starting or asleep (19_config_space R533) -/

theorem bit_eq_testBit (x i : Nat) : bit x i = x.testBit i := by
  rw [bit, Nat.testBit_eq_decide_div_mod_eq, Nat.shiftRight_eq_div_pow]
  rfl

/-- A bit that is set reads as set. -/
theorem bit_setFld_one (x i : Nat) : bit (setFld x i 1 1) i = true := by
  rw [bit_eq_testBit, testBit_setFld, if_pos (by omega), Nat.sub_self]
  rfl

/-- Setting a tile twice keeps the second value alone. -/
theorem State.setTile_setTile (s : State) (t : Nat) (x y : Tile) : (s.setTile t x).setTile t y = s.setTile t y := by
  simp [State.setTile]

/-- An enable whose start has ended is not starting. -/
theorem Enable.started_st_ne_starting {e : Enable} (h : e.st = .starting) : e.started.st ≠ .starting := by
  rw [Enable.started, h]
  dsimp only
  split <;> exact nofun

theorem State.awaitStart_of_ne_starting {s : State} {t : Nat} (h : (s.tile t).en.st ≠ .starting) :
    s.awaitStart t = s := if_neg (by simpa using h)

/-- The part with tile `t` started: its group's PLL and its clock run, and its store is zero (R473; 04 R109). -/
def State.tileStarted (s : State) (t : Nat) : State :=
  let x := s.tile t
  ({ s with pmc := { s.pmc with groupPll := setFld s.pmc.groupPll (groupOf t) 1 1 } } : State).setTile t
    { x with en := x.en.started, fll := true, level := fld x.shapeCtl.toNat 8 4, store := [], ecc := [], wbacks := [] }

/-- An access to a tile in STARTING is served once the start has ended and the contexts that waited for the tile have
started. -/
theorem State.awaitStart_of_starting {s : State} {t : Nat} (h : (s.tile t).en.st = .starting) :
    s.awaitStart t = (s.tileStarted t).ctxs.keys.foldl State.startContext (s.tileStarted t) := by
  have hready (s1 : State) (hen : (s1.tile t).en.st = .starting) (hpll : bit s1.pmc.groupPll (groupOf t) = true)
      (hfll : (s1.tile t).fll = true) :
      ((s1.tile t).en.st != .starting || !bit s1.pmc.groupPll (groupOf t) || !(s1.tile t).fll) = false := by
    simp [hen, hpll, hfll]
  rw [State.awaitStart, if_pos (by simp [h]), State.startTile]
  dsimp only
  rw [hready _ (by rw [State.tile_setTile_self]; exact h) (bit_setFld_one ..) (by rw [State.tile_setTile_self]),
    if_neg Bool.false_ne_true, State.setTile_setTile, State.tile_setTile_self]
  rfl

theorem State.wakeTile_of_run {s : State} {t : Nat} (h : (s.tile t).sub = .run) : s.wakeTile t = s :=
  if_pos (by simp [h])

/-- A tile that is ON is ON and in RUN after its wake. -/
theorem State.wakeTile_of_on {s : State} {t : Nat} (h : (s.tile t).en.st = .on) :
    ((s.wakeTile t).tile t).en.st = .on ∧ ((s.wakeTile t).tile t).sub = .run := by
  have hev (s : State) (e n : Nat) : ((s.evTile e t n).tile t).en = (s.tile t).en ∧
      ((s.evTile e t n).tile t).sub = (s.tile t).sub :=
    ⟨(congrArg Tile.en (s.ev_tile ..) :), (congrArg Tile.sub (s.ev_tile ..) :)⟩
  unfold State.wakeTile
  dsimp only
  split
  · next hstay => simpa [h] using hstay
  · simp only [hev]
    refine ⟨?_, ?_⟩
    · simpa [State.draw, State.tile, State.setTile] using h
    · simp [State.draw, State.tile, State.setTile]

/-! ### Registers of the resident context's queues (05_instruction_set R154, R158; 04_tile_store_vector R110) -/

/-- A queue that has been started and is idle or halted runs from its program counter. -/
theorem State.startQueue_of_stopped {s : State} {c v q : Nat}
    (hst : (s.queue c v q).st = .idle ∨ (s.queue c v q).st = .halted) (hstarted : (s.queue c v q).started = true) :
    s.startQueue c v q true = s.setQueue c v q { s.queue c v q with
      st := .running, exc := 0, yielded := false
      seq0 := if (s.queue c v q).st = .idle then (s.queue c v q).seq else (s.queue c v q).seq0 } := by
  have hgo : ((s.queue c v q).st == .idle || (true && (s.queue c v q).st == .halted)) = true := by
    rcases hst with h | h <;> simp [h]
  simp only [State.startQueue, hgo, hstarted, beq_iff_eq, if_true]

theorem State.startQueue_of_active {s : State} {c v q : Nat}
    (hst : (s.queue c v q).st = .running ∨ (s.queue c v q).st = .waiting) : s.startQueue c v q true = s :=
  if_neg (by rcases hst with h | h <;> simp [h])

/-- A live map after 64 of its bits are written. -/
def liveWritten (live : BitVec 256) (i : Nat) (w : W64) : BitVec 256 :=
  BitVec.ofNat 256 (setFld live.toNat (64 * i) 64 w.toNat)

theorem getLsbD_liveWritten (live : BitVec 256) (i : Nat) (w : W64) {b : Nat} (hb : b < 256) :
    (liveWritten live i w).getLsbD b = if b / 64 = i then w.getLsbD (b % 64) else live.getLsbD b := by
  rw [liveWritten, BitVec.getLsbD_ofNat, testBit_setFld, decide_eq_true hb, Bool.true_and]
  by_cases hi : b / 64 = i
  · rw [if_pos (by omega), if_pos hi, show b - 64 * i = b % 64 by omega]
    rfl
  · rw [if_neg (by omega), if_neg hi]
    rfl

section Resident
variable {s0 : State} {t c v : Nat} (hres : (s0.tileAccess t).residentOf t = some (c, v))
include hres

/-- TILE_QRESUME with one queue marked starts that queue. -/
theorem exec_tileQresumeWrite_one {q : Nat} (hq : q < 4) :
    exec (.tileQresumeWrite t (BitVec.ofNat 32 (2 ^ q))) s0 = .next ((s0.tileAccess t).startQueue c v q true) := by
  have hmarked : ∀ q < 4, ((List.range 4).filter fun j => bit (BitVec.ofNat 32 (2 ^ q)).toNat j) = [q] := by decide
  have hrun : exec (.tileQresumeWrite t (BitVec.ofNat 32 (2 ^ q))) s0 =
    execTileQresumeWrite t (BitVec.ofNat 32 (2 ^ q)) s0 := rfl
  rw [hrun, execTileQresumeWrite]
  simp only [hres, hmarked q hq, List.foldl_cons, List.foldl_nil]

/-- TILE_QSTAT_PC writes the program counter of a queue that is idle or halted, and nothing otherwise. -/
theorem exec_tileQstatPcWrite (q : Nat) (w : W64) :
    exec (.tileQstatPcWrite t q w) s0 = .next (
      let s := s0.tileAccess t
      if q < 4 ∧ ((s.queue c v q).st = .idle ∨ (s.queue c v q).st = .halted) then
        s.setQueue c v q { s.queue c v q with pc := 16 * fld w.toNat 4 44 }
      else s) := by
  have hrun : exec (.tileQstatPcWrite t q w) s0 = execTileQstatPcWrite t q w s0 := rfl
  rw [hrun, execTileQstatPcWrite]
  simp only [hres]
  split <;> rfl

/-- TILE_STORE_LIVE replaces 64 bits of the resident context's live map. -/
theorem exec_tileStoreLiveWrite {i : Nat} (w : W64) (hi : i < 4) :
    exec (.tileStoreLiveWrite t i w) s0 = .next ((s0.tileAccess t).setTc c v
      { (s0.tileAccess t).tc c v with live := liveWritten ((s0.tileAccess t).tc c v).live i w }) := by
  have hrun : exec (.tileStoreLiveWrite t i w) s0 = execTileStoreLiveWrite t i w s0 := rfl
  rw [hrun, execTileStoreLiveWrite]
  simp only [hres, Nat.not_le.mpr hi, if_false, liveWritten]

end Resident

/-! ### HBM_LAYOUT (11_memory_tiers R360) -/

theorem exec_hbmLayoutWrite_of_segment {s : State} (v : W64)
    (h : ∃ c, s.isAdmitted c = true ∧ c ∈ s.ctxs.keys ∧ (segList (s.ctx c).segs).isEmpty = false) :
    exec (.hbmLayoutWrite v) s = .next s := by
  obtain ⟨c, hadm, hc, hseg⟩ := h
  exact if_pos (List.any_eq_true.mpr ⟨c, List.mem_filter.mpr ⟨hc, hadm⟩, by simp [hseg]⟩)

/-- With no segment held, a layout whose GLOBAL_UNITS is legal is taken, and another takes a free one (log 83). -/
theorem exec_hbmLayoutWrite_of_no_segment {s : State} (v : W64)
    (h : ∀ c ∈ s.ctxs.keys, s.isAdmitted c = true → (segList (s.ctx c).segs).isEmpty = true) :
    exec (.hbmLayoutWrite v) s =
      if fld v.toNat 0 25 ≤ hbmC then .next { s with hbm := s.hbm.relaid (BitVec.ofNat 64 (v.toNat % 2 ^ 37)) }
      else .next { s.draw.2 with
        hbm := s.hbm.relaid (BitVec.ofNat 64 (setFld (v.toNat % 2 ^ 37) 0 25 (s.draw.1 % (hbmC + 1)))) } := by
  have hnone : ((s.ctxs.keys.filter s.isAdmitted).any fun c => !(segList (s.ctx c).segs).isEmpty) = false := by
    simpa using h
  have hunits : fld (v.toNat % 2 ^ 37) 0 25 = fld v.toNat 0 25 := by
    rw [fld, fld, Nat.shiftRight_zero, Nat.shiftRight_zero, Nat.mod_mod_of_dvd _ (Nat.pow_dvd_pow 2 (by decide))]
  have hrun : exec (.hbmLayoutWrite v) s = execHbmLayoutWrite v s := rfl
  rw [hrun, execHbmLayoutWrite, hnone, if_neg Bool.false_ne_true]
  dsimp only
  rw [hunits]
  rfl

/-- Settles O29: the access waits for the tile, and each register then writes its own field. -/
theorem tileRegistersComplete : Obligations.TileRegistersComplete := by
  refine ⟨fun s0 t => ?tile, fun s v => ⟨exec_hbmLayoutWrite_of_segment v, fun hnone hunits => ?legal,
    fun hnone hunits => ?illegal⟩⟩
  case tile =>
    intro s
    refine ⟨fun hst hrun => ?awake, fun hon => ?on, fun hst => ?starts, fun c v hres => ?queues,
      fun w hanswers => ?rest⟩
    case awake =>
      show (s0.awaitStart t).wakeTile t = s0
      rw [State.awaitStart_of_ne_starting hst, State.wakeTile_of_run hrun]
    case on =>
      have hs : s = s0.wakeTile t := congrArg (State.wakeTile · t) (State.awaitStart_of_ne_starting (by simp [hon]))
      rw [hs]
      exact State.wakeTile_of_on hon
    case starts =>
      exact ⟨Enable.started_st_ne_starting hst, congrArg (State.wakeTile · t) (State.awaitStart_of_starting hst)⟩
    case queues =>
      refine ⟨fun q w hq hst => ?_, fun q w hst => ?_, fun q hq hst hstarted => ?_, fun q hq hst hstarted => ?_,
        fun q hq hst => ?_, fun i w hi => ?_⟩
      · exact (exec_tileQstatPcWrite hres q w).trans (congrArg _ (if_pos ⟨hq, hst⟩))
      · exact (exec_tileQstatPcWrite hres q w).trans
          (congrArg _ (if_neg (by rintro ⟨-, h⟩; rcases hst with hst | hst <;> simp [s, hst] at h)))
      · rw [exec_tileQresumeWrite_one hres hq, State.startQueue_of_stopped (.inr hst) hstarted, hst]
        rfl
      · rw [exec_tileQresumeWrite_one hres hq, State.startQueue_of_stopped (.inl hst) hstarted, hst]
        rfl
      · rw [exec_tileQresumeWrite_one hres hq, State.startQueue_of_active hst]
      · exact ⟨_, exec_tileStoreLiveWrite hres w hi, fun b hb => getLsbD_liveWritten _ i w hb⟩
    case rest => exact ⟨if_pos hanswers, if_pos hanswers⟩
  case legal => rw [exec_hbmLayoutWrite_of_no_segment v hnone, if_pos hunits]
  case illegal =>
    have hwrite := exec_hbmLayoutWrite_of_no_segment v hnone
    rw [if_neg (Nat.not_le.mpr hunits)] at hwrite
    exact ⟨s.draw.1 % (hbmC + 1), Nat.lt_succ_iff.mp (Nat.mod_lt _ (Nat.succ_pos hbmC)), hwrite⟩

end Sys2Proof.Machine
end

section
/-! What reset leaves (O59). -/

namespace Sys2Proof.Machine

/-- Settles O59: no table of the part right after reset lists an entry, so that every unit is at its reset value. -/
theorem resetLeavesTheReset : Obligations.ResetLeavesTheReset := by
  unfold Obligations.ResetLeavesTheReset
  intro s
  have htile (t : Nat) : (s.tile t).en.st = .off ∧ (s.tile t).resident = none ∧ (s.tile t).storeCtl = 0x10A ∧
      ∀ a, memRead (s.tile t).store a = 0 := ⟨rfl, rfl, rfl, fun _ => rfl⟩
  have hengine (e : Nat) : (s.engine e).en.st = .off ∧ (s.engine e).ctl = 0x2000 := ⟨rfl, rfl⟩
  have hport (p : Nat) : (s.port p).en.st = .off ∧ (s.port p).up = false ∧ (s.port p).peer = 0xFFFF := ⟨rfl, rfl, rfl⟩
  have hfuses : s.fuses.legal := ⟨by decide, by decide, by decide, by decide⟩
  have hmems : s.memsWf := ⟨rfl, rfl, fun _ => rfl⟩
  exact ⟨rfl, rfl, rfl, rfl, htile, hengine, hport, fun _ => rfl, fun _ => rfl, rfl, rfl, rfl, rfl, rfl, rfl, rfl, rfl,
    rfl, rfl, rfl, rfl, rfl, rfl, rfl, rfl, rfl, hfuses, hmems⟩

end Sys2Proof.Machine
end

section
/-! The taps: samples added, panels sealed, sub-tiles collected (O25). -/

namespace Sys2Proof.Machine

/-! ### Samples added into their panels (06_curvature_taps R166) -/

/-- The tile and context beside its panels: adding a sample changes panels and their counts alone. -/
def TileCtx.besidePanels (tc : TileCtx) : TileCtx := { tc with pages := [], counts := [] }

theorem TileCtx.addSample_besidePanels (tc : TileCtx) (x : TapSample) :
    (tc.addSample x).besidePanels = tc.besidePanels := by
  refine foldl_keeps TileCtx.besidePanels (fun t k => ?_) _ tc
  dsimp only
  split <;> rfl

theorem TileCtx.tapAll_besidePanels (tc : TileCtx) :
    tc.tapAll.besidePanels = { tc with latch := [] }.besidePanels :=
  foldl_keeps TileCtx.besidePanels TileCtx.addSample_besidePanels tc.latch _

@[simp] theorem TileCtx.tapAll_latch (tc : TileCtx) : tc.tapAll.latch = [] :=
  congrArg TileCtx.latch tc.tapAll_besidePanels

@[simp] theorem TileCtx.slot_tapAll (tc : TileCtx) (k : Nat) : tc.tapAll.slot k = tc.slot k := by
  have hslots : tc.tapAll.slots = tc.slots := (congrArg TileCtx.slots tc.tapAll_besidePanels :)
  rw [TileCtx.slot, hslots, TileCtx.slot]

/-- TAP_SAMPLE takes the oldest sample of the resident context's latch. -/
theorem exec_tapSample_of_latch {s : State} {t c v : Nat} {x : TapSample} {rest : List TapSample}
    (hres : (s.tile t).resident = some c) (hvid : (s.ctx c).vid t = some v) (hlatch : (s.tc c v).latch = x :: rest) :
    exec (.tapSample t) s = .next (s.setTc c v ({ s.tc c v with latch := rest }.addSample x)) := by
  have hrun : exec (.tapSample t) s = execTapSample t s := rfl
  simp only [hrun, execTapSample, hres, hvid, TileCtx.tapOne, hlatch]

/-! ### A tap slot sealed (06_curvature_taps R173) -/

/-- A slot after sealing: a bound one has taken nothing of any step. -/
def TapSlot.sealed (x : TapSlot) : TapSlot :=
  if x.bound then { x with suspect := false, samples := 0, step := none } else x

@[simp] theorem TapSlot.sealed_sealed (x : TapSlot) : x.sealed.sealed = x.sealed := by
  unfold TapSlot.sealed
  cases hb : x.bound <;> simp [hb]

theorem TapSlot.sealed_step (x : TapSlot) : x.sealed.step = none ∨ x.bound = false := by
  unfold TapSlot.sealed
  cases x.bound
  · exact .inr rfl
  · exact .inl rfl

/-- What `State.sealSlot` does to the tile and context whose slot it seals. -/
def TileCtx.sealSlot (tc : TileCtx) (k : Nat) : TileCtx :=
  if (tc.slot k).bound then (tc.clearPanel k).setSlot k (tc.slot k).sealed else tc

theorem TileCtx.sealSlot_latch (tc : TileCtx) (k : Nat) : (tc.sealSlot k).latch = tc.latch := by
  unfold TileCtx.sealSlot
  split <;> rfl

theorem TileCtx.sealSlot_arrivedAt (tc : TileCtx) (k : Nat) : (tc.sealSlot k).arrivedAt = tc.arrivedAt := by
  unfold TileCtx.sealSlot
  split <;> rfl

theorem TileCtx.slot_sealSlot (tc : TileCtx) (k j : Nat) :
    (tc.sealSlot k).slot j = if j = k then (tc.slot j).sealed else tc.slot j := by
  unfold TileCtx.sealSlot
  split
  · have hset : ((tc.clearPanel k).setSlot k (tc.slot k).sealed).slot j =
        if j = k then (tc.slot k).sealed else tc.slot j := Tbl.get_set ..
    rw [hset]
    split
    · next hj => rw [hj]
    · rfl
  · next hbound =>
    split
    · next hj => rw [hj, TapSlot.sealed, if_neg hbound]
    · rfl

/-- Sealing slots one after another seals those that are listed. -/
theorem TileCtx.slot_foldl_sealSlot (l : List Nat) (tc : TileCtx) (j : Nat) :
    (l.foldl TileCtx.sealSlot tc).slot j = if j ∈ l then (tc.slot j).sealed else tc.slot j := by
  induction l generalizing tc with
  | nil => rfl
  | cons k l ih =>
    rw [List.foldl_cons, ih, TileCtx.slot_sealSlot]
    by_cases hk : j = k <;> by_cases hl : j ∈ l <;> simp [hk, hl]

theorem State.tc_sealSlot (s : State) (c v n k : Nat) : (s.sealSlot c v n k).tc c v = (s.tc c v).sealSlot k := by
  unfold State.sealSlot TileCtx.sealSlot
  cases hb : ((s.tc c v).slot k).bound <;> simp [TapSlot.sealed, hb]

theorem State.tc_foldl_sealSlot (s : State) (c v n : Nat) (l : List Nat) :
    (l.foldl (fun st k => st.sealSlot c v n k) s).tc c v = l.foldl TileCtx.sealSlot (s.tc c v) :=
  (List.foldl_hom (fun u : State => u.tc c v) fun u k => (u.tc_sealSlot c v n k).symm).symm

/-- The part beside what sealing changes: the tiles' contexts and the engines. -/
def State.besideSeals (s : State) : State := { s with tctx := [], engines := [] }

theorem State.sealSlot_besideSeals (s : State) (c v n k : Nat) :
    (s.sealSlot c v n k).besideSeals = s.besideSeals := by
  unfold State.sealSlot
  dsimp only
  split
  · rfl
  · split <;> rfl

theorem State.tile_eq_of_besideSeals {s u : State} (h : u.besideSeals = s.besideSeals) (t : Nat) :
    u.tile t = s.tile t := by
  have htiles : u.tiles = s.tiles := (congrArg State.tiles h :)
  rw [State.tile, htiles, State.tile]

/-- A part that differs in the tiles and in what sealing changes alone. -/
theorem State.eq_of_setTile_besideSeals {s u : State} (h : u.besideSeals = s.besideSeals) (t : Nat) (x : Tile) :
    { u.setTile t x with tctx := s.tctx, tiles := s.tiles, engines := s.engines } = s :=
  congrArg (fun w : State => { w with tctx := s.tctx, tiles := s.tiles, engines := s.engines }) h

/-! ### The arrival of a tile (05_instruction_set R139; 06_curvature_taps R173, R183) -/

/-- The part in which a tile at Milestone `n` has added its samples and sealed its slots. -/
def State.tapsSealed (s : State) (c v n : Nat) : State :=
  (List.range 16).foldl (fun st k => st.sealSlot c v n k)
    (s.setTc c v { (s.tc c v).tapAll with arrivedAt := some (n + 1) })

/-- The part in which a tile has arrived at the next Milestone and a written TAP_CTL has taken effect. -/
def State.tileArrived (s : State) (c v : Nat) : State :=
  let n := (s.ctx c).mstone
  let s2 := s.tapsSealed c v n
  let tl := s2.tile (s.physD c v)
  s2.setTile (s.physD c v) { tl with
    tapSuspend := bit tl.tapCtl.toNat 0
    tapSealed := if (List.range 16).any fun k => ((s.tc c v).slot k).bound then n % 2 ^ 32 else tl.tapSealed }

/-- The tile has arrived at Milestone `m`. -/
def TileCtx.hasArrived (tc : TileCtx) (m : Nat) : Bool :=
  match tc.arrivedAt with
  | some k => decide (m ≤ k)
  | none => false

theorem TileCtx.hasArrived_eq_false {tc : TileCtx} {m : Nat} (h : ∀ k, tc.arrivedAt = some k → k < m) :
    tc.hasArrived m = false := by
  unfold TileCtx.hasArrived
  split
  · next k hk => exact decide_eq_false (Nat.not_le.mpr (h k hk))
  · rfl

/-- A tile of a context that is on arrives once it is ready for a Milestone at which it has not arrived. -/
theorem exec_tileArrive_of_ready {s : State} {c v : Nat} (hon : (s.ctx c).on = true) (hv : v < (s.ctx c).map.length)
    (hnew : ∀ k, (s.tc c v).arrivedAt = some k → k ≤ (s.ctx c).mstone)
    (hready : s.tileReady c v ((s.ctx c).mstone + 1) = true) :
    exec (.tileArrive c v) s = .next ((s.tileArrived c v).sendGrams c) := by
  have hrun : exec (.tileArrive c v) s =
      if !(s.ctx c).on || decide ((s.ctx c).map.length ≤ v) || (s.tc c v).hasArrived ((s.ctx c).mstone + 1) ||
        !s.tileReady c v ((s.ctx c).mstone + 1) then .next s
      else .next ((s.tileArrived c v).sendGrams c) := rfl
  rw [hrun, hon, hready, TileCtx.hasArrived_eq_false fun k hk => Nat.lt_succ_of_le (hnew k hk),
    decide_eq_false (Nat.not_le.mpr hv)]
  rfl

theorem State.tapsSealed_besideSeals (s : State) (c v n : Nat) : (s.tapsSealed c v n).besideSeals = s.besideSeals := by
  rw [State.tapsSealed, foldl_keeps State.besideSeals fun st k => st.sealSlot_besideSeals c v n k]
  rfl

@[simp] theorem State.tile_tapsSealed (s : State) (c v n t : Nat) : (s.tapsSealed c v n).tile t = s.tile t :=
  State.tile_eq_of_besideSeals (s.tapsSealed_besideSeals c v n) t

theorem State.tc_tapsSealed (s : State) (c v n : Nat) :
    (s.tapsSealed c v n).tc c v =
      (List.range 16).foldl TileCtx.sealSlot { (s.tc c v).tapAll with arrivedAt := some (n + 1) } := by
  rw [State.tapsSealed, State.tc_foldl_sealSlot, State.tc_setTc_self]

theorem State.tapsSealed_arrivedAt (s : State) (c v n : Nat) :
    ((s.tapsSealed c v n).tc c v).arrivedAt = some (n + 1) := by
  rw [State.tc_tapsSealed, foldl_keeps TileCtx.arrivedAt TileCtx.sealSlot_arrivedAt]

theorem State.tapsSealed_latch (s : State) (c v n : Nat) : ((s.tapsSealed c v n).tc c v).latch = [] := by
  rw [State.tc_tapsSealed, foldl_keeps TileCtx.latch TileCtx.sealSlot_latch]
  exact TileCtx.tapAll_latch _

theorem State.slot_tapsSealed (s : State) (c v n : Nat) {k : Nat} (hk : k < 16) :
    ((s.tapsSealed c v n).tc c v).slot k = ((s.tc c v).slot k).sealed := by
  have htap : ({ (s.tc c v).tapAll with arrivedAt := some (n + 1) } : TileCtx).slot k = (s.tc c v).slot k :=
    TileCtx.slot_tapAll ..
  rw [State.tc_tapsSealed, TileCtx.slot_foldl_sealSlot, if_pos (List.mem_range.mpr hk), htap]

theorem State.tc_tileArrived (s : State) (c v : Nat) :
    (s.tileArrived c v).tc c v = (s.tapsSealed c v (s.ctx c).mstone).tc c v := by
  rw [State.tileArrived, State.tc_setTile]

/-! ### Sub-tiles received by an engine (06_curvature_taps R174) -/

/-- With every tile at the Milestone, the engine sums the sub-tiles it holds of the step, block by block. -/
theorem exec_tapSubtileReceive_of_allArrived {s : State} (eng : Nat) {c : Nat}
    (hall : s.allArrived c ((s.ctx c).mstone + 1) = true) :
    let l := (s.engine eng).subtiles.filter fun y => y.ctx == c && y.step == (s.ctx c).mstone
    exec (.tapSubtileReceive eng c) s =
      .next ((((l.map fun y => (y.fid, y.block)).eraseDups).foldl
        (fun (st : State) b => st.collectBlock eng c (s.ctx c).mstone b.1 b.2 l)
        (s.setEngine eng { s.engine eng with subtiles := (s.engine eng).subtiles.filter fun y =>
          !(y.ctx == c && y.step == (s.ctx c).mstone) })).sendGrams c) := by
  have hrun : exec (.tapSubtileReceive eng c) s = execTapSubtileReceive eng c s := rfl
  rw [hrun, execTapSubtileReceive]
  dsimp only
  rw [hall]
  rfl

/-- Settles O25: an arrival adds every sample, seals slots 0 to 15 in turn and then sets the tile's TAP_CTL and seal
count, each of which leaves the rest of the part as it is. -/
theorem tapCommandsComplete : Obligations.TapCommandsComplete := by
  refine fun s => ⟨fun t c v x rest => exec_tapSample_of_latch, fun c v hon hv hnew hready => ?arrive,
    fun eng c => exec_tapSubtileReceive_of_allArrived eng⟩
  case arrive =>
    refine ⟨s.tileArrived c v, exec_tileArrive_of_ready hon hv hnew hready, ?arrived, ?latch, fun k hk => ?slots,
      ?suspend, fun ⟨k, hk, hbound⟩ => ?seals, fun u hu => ?others, ?frame⟩
    case arrived => rw [State.tc_tileArrived, State.tapsSealed_arrivedAt]
    case latch => rw [State.tc_tileArrived, State.tapsSealed_latch]
    case slots =>
      rw [State.tc_tileArrived, State.slot_tapsSealed s c v _ hk]
      exact TapSlot.sealed_step _
    case suspend => simp [State.tileArrived]
    case seals =>
      have hany : ((List.range 16).any fun k => ((s.tc c v).slot k).bound) = true :=
        List.any_eq_true.mpr ⟨k, List.mem_range.mpr hk, hbound⟩
      rw [State.tileArrived, State.tile_setTile_self]
      exact if_pos hany
    case others => rw [State.tileArrived, State.tile_setTile, if_neg hu, State.tile_tapsSealed]
    case frame => exact State.eq_of_setTile_besideSeals (s.tapsSealed_besideSeals c v _) ..

end Sys2Proof.Machine
end

section
/-! MROOT: it waits for its Milestone and moves from the installed root (O18). -/

namespace Sys2Proof.Machine

theorem exec_mroot_of_issues {s : State} {i : Issue} {u : Upset} {e : Env} (h : Issues s i 3 1 e) :
    exec (.mroot ⟨i, u⟩) s = .next (s.act e (bodyMroot u e s)) :=
  exec_of_issues h (by decide) rfl

/-- Before the Milestone of its step has completed, an MROOT waits for it. -/
theorem bodyMroot_of_before {s : State} {e : Env} (u : Upset) (h : (s.ctx e.c).mstone < e.qu.step) :
    bodyMroot u e s = .wait (.mstone e.qu.step) := if_pos h

/-- The place that an MROOT names lies in its factor's root store, and its destination is within reach. -/
structure MrootInside (s : State) (e : Env) (f : Bytes) (m : Move) : Prop where
  status : m.status + 8 ≤ storeSize
  block : mrootBlock m.src < facBlocks f
  root : (m.rows - 1) * m.spitch + 2 * mrootCol m.src + m.rowbytes ≤
    2 * facSize f (mrootBlock m.src) * facSize f (mrootBlock m.src)
  dst : s.endOk e m.dstSpace m.dst m.dpitch m.rows m.rowbytes (m.dstTiles e.v) true = true

/-- From the Milestone of its step on, an MROOT is the move from the slot that a reader of its step selects. -/
theorem bodyMroot_moves {s : State} {i : Issue} {e : Env} {d f : Bytes} {slot : Nat} (u : Upset)
    (h : PostsDesc s i 3 1 e d) (hstep : e.qu.step ≤ (s.ctx e.c).mstone) (hok : moveOk d = true)
    (hfac : s.factor e.c (moveOf d).tid = some f) (hin : MrootInside s e f (moveOf d))
    (hslot : s.rootSel e.c f (mrootBlock (moveOf d).src) e.qu.step = some slot)
    (hsrc : s.endOk e 2 (moveOf (mrootMove f d slot)).src (moveOf (mrootMove f d slot)).spitch
      (moveOf (mrootMove f d slot)).rows (moveOf (mrootMove f d slot)).rowbytes [] false = true) :
    bodyMroot u e s = moveGo e s (mrootMove f d slot) none false none u := by
  have hlegal : (!moveOk d) = false := by simp [hok]
  have hplace : (decide (storeSize < (moveOf d).status + 8) || decide (facBlocks f ≤ mrootBlock (moveOf d).src)
      || decide (2 * facSize f (mrootBlock (moveOf d).src) * facSize f (mrootBlock (moveOf d).src) <
        ((moveOf d).rows - 1) * (moveOf d).spitch + 2 * mrootCol (moveOf d).src + (moveOf d).rowbytes)
      || !s.endOk e (moveOf d).dstSpace (moveOf d).dst (moveOf d).dpitch (moveOf d).rows (moveOf d).rowbytes
        ((moveOf d).dstTiles e.v) true) = false := by
    simp [Nat.not_lt.mpr hin.status, Nat.not_le.mpr hin.block, Nat.not_lt.mpr hin.root, hin.dst]
  rw [bodyMroot, if_neg (Nat.not_lt.mpr hstep), State.post_of_postsDesc h, Act.when_of_false hlegal]
  simp only [hfac, hslot, Act.when_of_false hplace, hsrc, Bool.not_true, Act.when_of_false]

/-- Settles O18: the body of MROOT at issue, before its Milestone and after. -/
theorem mrootCompletes : Obligations.MrootCompletes := by
  intro s i u e
  refine ⟨fun hissue hbefore => ?waits, ?moves⟩
  case waits => rw [exec_mroot_of_issues hissue, bodyMroot_of_before u hbefore]; rfl
  case moves =>
    intro d f slot hpost hstep hok hfac ⟨hstatus, hblock, hroot, hdst, hslot⟩ hsrc
    rw [exec_mroot_of_issues hpost.issues,
      bodyMroot_moves u hpost hstep hok hfac ⟨hstatus, hblock, hroot, hdst⟩ hslot hsrc]

end Sys2Proof.Machine
end

section
/-! The root engines: refreshes that start, iterate and end (O30). -/

namespace Sys2Proof.Machine

/-! ### Engines: reading what was written -/

theorem State.engine_setEngine (s : State) (g h : Nat) (x : Engine) :
    (s.setEngine g x).engine h = if h = g then x else s.engine h := by
  simp [State.engine, State.setEngine, Tbl.get_set]

@[simp] theorem State.engine_setEngine_self (s : State) (g : Nat) (x : Engine) : (s.setEngine g x).engine g = x := by
  simp [State.engine_setEngine]

@[simp] theorem State.engine_ev (s : State) (e u : Nat) (l : List Nat) (n g : Nat) :
    (s.ev e u l n).engine g = s.engine g := by
  simp [State.engine]

/-- An entry of the table changes nothing of what the engine runs and has queued. -/
@[simp] theorem Engine.updEntry_run (x : Engine) (i : Nat) (f : Bytes → Bytes) : (x.updEntry i f).run = x.run := by
  unfold Engine.updEntry; split <;> rfl
@[simp] theorem Engine.updEntry_queue (x : Engine) (i : Nat) (f : Bytes → Bytes) :
    (x.updEntry i f).queue = x.queue := by
  unfold Engine.updEntry; split <;> rfl

/-! ### A refresh starts (07_root_solver R199 to R202) -/

/-- A refresh as an engine holds it: the matrices of a block of n > 512 lie in scratch (R212). -/
def Refresh.held (r : Refresh) : Refresh := if r.n ≤ 512 then r else { r with mats := [] }

theorem State.storeMats_refresh (s : State) (x : Engine) (r : Refresh) (l : List Nat) :
    (s.storeMats x r l).2 = r.held := by
  unfold State.storeMats Refresh.held; split <;> rfl

@[simp] theorem Refresh.held_outcome (r : Refresh) : r.held.outcome = r.outcome := by
  unfold Refresh.held; split <;> rfl

/-- The refresh that a post starts: from its block and its warm root, or in FAULT when one of them could not be read
whole. -/
def State.refreshOf (s : State) (p : Post) (f b : Bytes) : Refresh :=
  let w := s.warmStart p f b
  let rd := w.1.readBlock p.ctx (facBlockAddr f p.block) (entN b)
  if w.2.2 || (rd.map (·.2.2)).getD true then
    { post := p, entryB := b, n := entN b, pcode := entP b, method := entMethod b, outcome := some 7 }
  else beginRefresh p b (((rd.map (·.2.1)).getD []).map fun l => l.map (elemToF32 3)) w.2.1

theorem State.refreshOf_of_read {s : State} {p : Post} {f b : Bytes} {rd : State × List (List Nat) × Bool}
    (hrd : (s.warmStart p f b).1.readBlock p.ctx (facBlockAddr f p.block) (entN b) = some rd)
    (hwarm : (s.warmStart p f b).2.2 = false) (hbad : rd.2.2 = false) :
    s.refreshOf p f b = beginRefresh p b (rd.2.1.map fun l => l.map (elemToF32 3)) (s.warmStart p f b).2.1 := by
  simp [State.refreshOf, hrd, hwarm, hbad]

theorem State.refreshOf_of_unread {s : State} {p : Post} {f b : Bytes} (h : (s.warmStart p f b).2.2 = true ∨
    (s.warmStart p f b).1.readBlock p.ctx (facBlockAddr f p.block) (entN b) = none) :
    (s.refreshOf p f b).outcome = some 7 := by
  rcases h with h | h <;> simp [State.refreshOf, h]

/-- An idle engine that is ON takes the first of its queued posts, and runs its refresh. -/
theorem exec_refreshStart_of_nextPost {s : State} {eng : Nat} {p : Post} {b f : Bytes}
    (hon : (s.engine eng).en.st = .on) (hrel : bit (s.engine eng).ctl.toNat 0 = false)
    (hidle : (s.engine eng).run = none) (hnext : nextPost (s.engine eng).queue = some p)
    (hent : Tbl.find (s.engine eng).table p.entry = some b) (hfac : s.factor p.ctx p.fid = some f) :
    ∃ t, exec (.refreshStart eng) s = .next t ∧ (t.engine eng).run = some (s.refreshOf p f b).held ∧
      (t.engine eng).queue = (s.engine eng).queue.filter (fun q => q != p) := by
  have hexec : exec (.refreshStart eng) s = execRefreshStart eng s := rfl
  have hready : ((s.engine eng).en.st != .on || bit (s.engine eng).ctl.toNat 0 || (s.engine eng).run.isSome) = false := by
    simp [hon, hrel, hidle]
  rw [hexec, execRefreshStart]
  simp only [hready, hnext, hent, hfac, Bool.false_eq_true, if_false]
  refine ⟨_, rfl, ?run, ?queue⟩
  case run =>
    split <;>
      simp only [State.engine_ev, State.engine_setEngine_self, Engine.updEntry_run, State.storeMats_refresh] <;> rfl
  case queue =>
    split <;> simp only [State.engine_ev, State.engine_setEngine_self, Engine.updEntry_queue]

/-! ### A refresh iterates (07_root_solver R203, R204, R212) -/

@[simp] theorem Refresh.pass_n (r : Refresh) : r.pass.n = r.n := by
  unfold Refresh.pass
  dsimp only
  split
  · rfl
  split
  · rfl
  split <;> rfl

@[simp] theorem Refresh.firstPass_n (r : Refresh) : r.firstPass.1.n = r.n := by
  unfold Refresh.firstPass
  split
  · split <;> exact Refresh.pass_n _
  · exact Refresh.pass_n _

/-- A block of n ≤ 512 has its pass on the matrices of the panel store. -/
theorem State.enginePass_of_small {s : State} {r : Refresh} (eng : Nat) (hn : r.n ≤ 512) :
    s.enginePass eng r =
      let s1 := s.setEngine eng ({ s.engine eng with run := some r.firstPass.1 }.updEntry
        r.post.entry fun b => setEntBit b 3 r.firstPass.1.warm)
      if r.firstPass.2 then s1.ev 0x049 eng [r.post.ctx] else s1 := by
  have hload (l : List Nat) : s.loadMats (s.engine eng) r l = (s, r, false) := if_pos hn
  have hstore (l : List Nat) : s.storeMats (s.engine eng) r.firstPass.1 l = (s, r.firstPass.1) :=
    if_pos (r.firstPass_n.symm ▸ hn)
  simp only [State.enginePass, hload, hstore, Bool.false_eq_true, if_false]

theorem exec_newtonIteration (x : EngineStep) (s : State) :
    exec (.newtonIteration x) s = execNewtonIteration x s := rfl

section Newton
variable {s : State} {eng : Nat} {r : Refresh} (hrun : (s.engine eng).run = some r) (hout : r.outcome = none)
  (hnewton : r.method ≠ 0) (hprods : r.prods = [])
include hrun hout hnewton hprods

/-- An engine that iterates runs the pass that is due, or the products of the next iteration. -/
theorem exec_newtonIteration_of_running : exec (.newtonIteration ⟨eng, false⟩) s =
    .next (if r.pending then s.enginePass eng r
      else (s.ev 0x041 eng [r.post.ctx]).setEngine eng { s.engine eng with run := some (
        if r.n ≤ 512 then { r.runProds (iterProds r.pcode) with k := r.k + 1 }.pass
        else { r with prods := iterProds r.pcode, panels := [] }) }) := by
  have hgo : (r.outcome.isSome || r.method == 0 || !r.prods.isEmpty) = false := by simp [hout, hnewton, hprods]
  rw [exec_newtonIteration, execNewtonIteration]
  simp only [hrun, hgo, State.engine_ev, Bool.false_eq_true, if_false]
  cases r.pending with
  | true => rfl
  | false =>
    rw [if_neg Bool.false_ne_true, if_neg Bool.false_ne_true]
    split <;> rfl

/-- A word that could not be read stops the refresh in FAULT. -/
theorem exec_newtonIteration_of_bad : exec (.newtonIteration ⟨eng, true⟩) s =
    .next (s.setEngine eng { s.engine eng with run := some (r.stop 7) }) := by
  have hgo : (r.outcome.isSome || r.method == 0 || !r.prods.isEmpty) = false := by simp [hout, hnewton, hprods]
  rw [exec_newtonIteration, execNewtonIteration]
  simp only [hrun, hgo, Bool.false_eq_true, if_false, if_true]

end Newton

/-! ### A refresh ends (07_root_solver R205, R206, R210) -/

theorem exec_refreshEnd (x : EngineStep) (s : State) : exec (.refreshEnd x) s = execRefreshEnd x s := rfl

section End
variable {s : State} {eng : Nat} {r : Refresh} (hrun : (s.engine eng).run = some r)
include hrun

/-- A refresh that has stopped, and whose root every member has when it writes one, is recorded and leaves its engine. -/
theorem exec_refreshEnd_of_stopped {st : Nat} (bad : Bool) (hout : r.outcome = some st)
    (hdist : installs st = true → r.dist = .ended) :
    let s1 := (s.recordEnd eng r.post st (if r.method = 0 then 0 else r.k) r.resid).redirty r.post st
    exec (.refreshEnd ⟨eng, bad⟩) s =
      .next ((s1.setEngine eng { s1.engine eng with run := none }).dropReplies r.post).settleRelease := by
  have hover : (installs st && r.dist != .ended) = false := by
    cases hi : installs st with
    | false => rfl
    | true => simp [hdist hi]
  rw [exec_refreshEnd, execRefreshEnd]
  simp only [hrun, hout, hover, Bool.false_eq_true, if_false]

variable (hout : r.outcome = none) (hchol : r.method = 0)
include hout hchol

/-- A CHOL refresh one of whose words could not be read stops in FAULT. -/
theorem exec_refreshEnd_of_bad : exec (.refreshEnd ⟨eng, true⟩) s =
    .next (s.setEngine eng { s.engine eng with run := some (r.stop 7) }) := by
  rw [exec_refreshEnd, execRefreshEnd]
  simp only [hrun, hout, hchol, bne_self_eq_false, Bool.false_eq_true, if_false, if_true]

/-- A CHOL refresh without a factor stops with FACTOR_FAIL. -/
theorem exec_refreshEnd_of_no_inverse (hz : cholInverse r.n (r.mat 0) = none) :
    exec (.refreshEnd ⟨eng, false⟩) s = .next (s.setEngine eng { s.engine eng with run := some (r.stop 6) }) := by
  rw [exec_refreshEnd, execRefreshEnd]
  simp only [hrun, hout, hchol, hz, bne_self_eq_false, Bool.false_eq_true, if_false]

/-- A CHOL refresh with a factor stops with its root, under a residual drawn freely. -/
theorem exec_refreshEnd_of_inverse {z : List (List W32)} (hz : cholInverse r.n (r.mat 0) = some z) :
    exec (.refreshEnd ⟨eng, false⟩) s = .next (s.draw.2.setEngine eng { s.engine eng with run := some { r.stop 1 with
      root := rootCodes (entRfmt r.entryB) z, resid := some (BitVec.ofNat 32 s.draw.1) } }) := by
  rw [exec_refreshEnd, execRefreshEnd]
  simp only [hrun, hout, hchol, hz, bne_self_eq_false, Bool.false_eq_true, if_false]

end End

/-- Settles O30: each command of an engine by the state in which its refresh stands. -/
theorem refreshEventsComplete : Obligations.RefreshEventsComplete := by
  intro s eng x
  refine ⟨fun p b f hon hrel hidle hnext hent hfac => ?start, fun r hrun hout hnewton hprods => ?newton,
    fun r st bad hrun hout hdist => exec_refreshEnd_of_stopped hrun bad hout hdist,
    fun r hrun hout hchol => ⟨exec_refreshEnd_of_bad hrun hout hchol, exec_refreshEnd_of_no_inverse hrun hout hchol,
      fun z hz => ⟨_, exec_refreshEnd_of_inverse hrun hout hchol hz⟩⟩⟩
  case start =>
    obtain ⟨t, hexec, ht, hqueue⟩ := exec_refreshStart_of_nextPost hon hrel hidle hnext hent hfac
    refine ⟨t, _, hexec, ht, hqueue, fun rd hrd hwarm hbad => ?_, fun hunread => ?_⟩
    · rw [State.refreshOf_of_read hrd hwarm hbad]; rfl
    · rw [Refresh.held_outcome, State.refreshOf_of_unread hunread]
  case newton =>
    have hexec := exec_newtonIteration_of_running hrun hout hnewton hprods
    refine ⟨fun hpend hn => ?_, fun hpend hn => ?_, fun hpend hn => ?_, fun hpend _ => ?_,
      exec_newtonIteration_of_bad hrun hout hnewton hprods⟩
    · rw [hexec, hpend, if_neg Bool.false_ne_true, if_neg (Nat.not_le.mpr hn)]
    · rw [hexec, hpend, if_neg Bool.false_ne_true, if_pos hn]
    · rw [hexec, if_pos hpend, State.enginePass_of_small eng hn]
    · rw [hexec, if_pos hpend]

end Sys2Proof.Machine
end

section
/-! The root engines: work items, deadlines and the distribution of roots (O31). -/

namespace Sys2Proof.Machine

/-! ### Work items (07_root_solver R212, R213) -/

/-- The part after the panel of a work item has been formed and written. -/
def State.panelDone (s : State) (eng t : Nat) (r : Refresh) (p : Prod) : State :=
  let o := s.panelOperands (s.engine eng) r.n r.panels.length p
  ((o.1.stageItem t).writePanel (s.engine eng) r.n r.panels.length p.target
    (o.2.1.map fun a => o.2.2.1.map fun b => dot3 (zero32 true) a b)).ev 0x04B eng [r.post.ctx]

theorem exec_workItem (eng t : Nat) (s : State) : exec (.workItem eng t) s = execWorkItem eng t s := rfl

section WorkItem
variable {s : State} {eng t : Nat} {r : Refresh} {p : Prod} {ps : List Prod} (hout : r.outcome = none)
  (hlayby : bit (s.engine eng).ctl.toNat 22 = true) (hlent : (s.tile t).lentFrom.isSome = true)
  (hres : (s.tile t).resident = some (s.engine eng).layby) (hruns : (s.tile t).runs = true)
include hout hlayby hlent hres hruns

/-- A tile that is lent to the engine's Layby context and in RUN takes a work item of a refresh that has not stopped. -/
theorem workItem_goes : (r.outcome.isSome || !bit (s.engine eng).ctl.toNat 22 || (s.tile t).lentFrom.isNone
    || (s.tile t).resident != some (s.engine eng).layby || !(s.tile t).runs) = false := by
  have hfrom : (s.tile t).lentFrom.isNone = false := by simpa using hlent
  simp [hout, hlayby, hfrom, hres, hruns]

variable (hrun : (s.engine eng).run = some r) (hprods : r.prods = p :: ps)
include hrun hprods

/-- A work item whose operands cannot be read whole ends the refresh in FAULT. -/
theorem exec_workItem_of_unread
    (hbad : (s.panelOperands (s.engine eng) r.n r.panels.length p).2.2.2 = true) :
    exec (.workItem eng t) s = .next ((s.panelOperands (s.engine eng) r.n r.panels.length p).1.setEngine eng
      { s.engine eng with run := some (r.stop 7) }) := by
  have hgo := workItem_goes hout hlayby hlent hres hruns
  rw [exec_workItem, execWorkItem]
  simp only [hrun, hprods, hgo, hbad, Bool.false_eq_true, if_false, if_true]

variable (hread : (s.panelOperands (s.engine eng) r.n r.panels.length p).2.2.2 = false)
include hread

/-- A panel that is not the last of its product is taken from the engine's list. -/
theorem exec_workItem_of_more (hmore : r.panels.length + 1 < ceilDiv r.n 256 ^ 2) :
    exec (.workItem eng t) s = .next ((s.panelDone eng t r p).setEngine eng
      { s.engine eng with run := some { r with panels := r.panels ++ [r.panels.length] } }) := by
  have hgo := workItem_goes hout hlayby hlent hres hruns
  rw [exec_workItem, execWorkItem]
  simp only [hrun, hprods, hgo, hread, Bool.false_eq_true, if_false, if_pos hmore]
  rfl

/-- The last panel of a product brings the next product, and that of an iteration its pass. -/
theorem exec_workItem_of_last (hlast : ceilDiv r.n 256 ^ 2 ≤ r.panels.length + 1)
    (hsettle : ((s.panelDone eng t r p).settleProd (s.engine eng) r.n p).2 = false) :
    exec (.workItem eng t) s = .next (((s.panelDone eng t r p).settleProd (s.engine eng) r.n p).1.setEngine eng
      { s.engine eng with run := some (if ps = [] then
        { r with prods := [], panels := [], pending := true, k := if r.warmTest then 0 else r.k + 1 }
        else { r with prods := ps, panels := [] }) }) := by
  have hgo := workItem_goes hout hlayby hlent hres hruns
  rw [exec_workItem, execWorkItem]
  unfold State.panelDone at hsettle ⊢
  simp only [hrun, hprods, hgo, hread, hsettle, Bool.false_eq_true, if_false, if_neg (Nat.not_lt.mpr hlast)]
  cases ps <;> rfl

end WorkItem

/-! ### Ends leave what other engines do, and the deadlines that contexts have met, as they are -/

@[simp] theorem State.ctx_setEngine (s : State) (g c : Nat) (x : Engine) : (s.setEngine g x).ctx c = s.ctx c := rfl
@[simp] theorem State.engine_setCtx (s : State) (c g : Nat) (x : Ctx) : (s.setCtx c x).engine g = s.engine g := rfl
@[simp] theorem State.ctx_ev (s : State) (e u : Nat) (l : List Nat) (n c : Nat) : (s.ev e u l n).ctx c = s.ctx c := by
  simp [State.ctx]

theorem State.meetBurst_engines (s : State) (e : Nat × Health) : (s.meetBurst e).engines = s.engines := by
  obtain ⟨k, h⟩ := e
  cases h with
  | single => simp [State.meetBurst, State.hbmCe]
  | uncorrectable => simp [State.meetBurst, State.hbmUe]

@[simp] theorem State.hbmWrite_engines (s : State) (a : Nat) (bs : Bytes) : (s.hbmWrite a bs).engines = s.engines :=
  foldl_keeps State.engines State.meetBurst_engines _ s

/-- A write of the part through a context's translation reaches neither engines nor contexts. -/
theorem State.ctxWrite_keeps (s : State) (c a : Nat) (bs : Bytes) :
    (s.ctxWrite c a bs).engines = s.engines ∧ (s.ctxWrite c a bs).ctxs = s.ctxs := by
  unfold State.ctxWrite
  split
  · exact ⟨State.hbmWrite_engines .., State.hbmWrite_ctxs ..⟩
  · exact ⟨rfl, rfl⟩

@[simp] theorem State.engine_setBlockSt (s : State) (c : Nat) (f : Bytes) (k : Nat) (b : BlockSt) (g : Nat) :
    (s.setBlockSt c f k b).engine g = s.engine g := by
  simp [State.engine, State.setBlockSt, State.ctxWrite_keeps]

@[simp] theorem State.ctx_setBlockSt (s : State) (c : Nat) (f : Bytes) (k : Nat) (b : BlockSt) (d : Nat) :
    (s.setBlockSt c f k b).ctx d = s.ctx d := by
  simp [State.ctx, State.setBlockSt, State.ctxWrite_keeps]

@[simp] theorem State.engine_markDirty (s : State) (c : Nat) (f : Bytes) (k g : Nat) :
    (s.markDirty c f k).engine g = s.engine g :=
  State.engine_setBlockSt ..

@[simp] theorem State.deadline_markDirty (s : State) (c : Nat) (f : Bytes) (k d : Nat) :
    ((s.markDirty c f k).ctx d).deadline = (s.ctx d).deadline := by
  simp only [State.markDirty, State.noteDirty, State.ctx_setCtx, State.ctx_setBlockSt]
  split
  · next h => rw [h]
  · rfl

@[simp] theorem State.engine_redirty (s : State) (p : Post) (st g : Nat) :
    (s.redirty p st).engine g = s.engine g := by
  unfold State.redirty
  split
  · split
    · exact State.engine_markDirty ..
    · rfl
  · rfl

@[simp] theorem State.deadline_redirty (s : State) (p : Post) (st c : Nat) :
    ((s.redirty p st).ctx c).deadline = (s.ctx c).deadline := by
  unfold State.redirty
  split
  · split
    · exact State.deadline_markDirty ..
    · rfl
  · rfl

/-- What an engine does and has still to do: its refresh and its queue. -/
def Engine.work (x : Engine) : Option Refresh × List Post := (x.run, x.queue)

@[simp] theorem Engine.updEntry_work (x : Engine) (i : Nat) (f : Bytes → Bytes) : (x.updEntry i f).work = x.work := by
  simp [Engine.work]

@[simp] theorem State.deadline_recordEnd (s : State) (g : Nat) (p : Post) (st iters : Nat) (v : Option W32) (c : Nat) :
    ((s.recordEnd g p st iters v).ctx c).deadline = (s.ctx c).deadline := by
  simp [State.recordEnd]

theorem State.engine_recordEnd_of_ne (s : State) {g h : Nat} (p : Post) (st iters : Nat) (v : Option W32) (hne : h ≠ g) :
    (s.recordEnd g p st iters v).engine h = s.engine h := by
  simp [State.recordEnd, State.engine_setEngine, hne]

theorem State.work_recordEnd (s : State) (g : Nat) (p : Post) (st iters : Nat) (v : Option W32) :
    ((s.recordEnd g p st iters v).engine g).work = (s.engine g).work := by
  simp only [State.recordEnd, State.engine_ev, State.engine_setEngine_self]
  exact Engine.updEntry_work ..

/-! ### Deadlines (07_root_solver R207 to R209) -/

/-- The SOFT posts of a context that have not started when their deadline arrives. -/
def Engine.latePosts (x : Engine) (c d : Nat) : List Post :=
  x.queue.filter fun p => p.ctx == c && decide (p.deadline ≤ d) && !entWait (Tbl.get [] x.table p.entry)

/-- An engine at a deadline of a context, its SOFT refresh stopped. -/
def Engine.stopLate (x : Engine) (c d : Nat) : Engine :=
  match x.run with
  | some r => if r.post.ctx == c && decide (r.post.deadline ≤ d) then { x with run := some r.deadline } else x
  | none => x

/-- An engine at a deadline of a context, its late posts gone as well. -/
def Engine.meetDeadline (x : Engine) (c d : Nat) : Engine :=
  let late := x.latePosts c d
  late.foldl (fun z p => z.updEntry p.entry fun b => setEntBit b 2 false)
    { x.stopLate c d with queue := (x.stopLate c d).queue.filter fun p => !late.contains p }

/-- Posts of an engine end as STALE. -/
def State.endStale (s : State) (g : Nat) (l : List Post) : State :=
  l.foldl (fun q p => (q.recordEnd g p 3 0 none).redirty p 3) s

/-- A deadline of a context arrives at an engine. -/
def State.engineDeadline (c d : Nat) (s : State) (g : Nat) : State :=
  (s.setEngine g ((s.engine g).meetDeadline c d)).endStale g ((s.engine g).latePosts c d)

/-- With every tile of an admitted context at its next Milestone, that deadline arrives at every engine. -/
theorem exec_deadlineArrive_of_allArrived {s : State} {c : Nat} (hon : (s.ctx c).on = true)
    (hnew : (s.ctx c).deadline < (s.ctx c).mstone + 1) (hall : s.allArrived c ((s.ctx c).mstone + 1) = true) :
    exec (.deadlineArrive c) s = .next ((List.range 16).foldl (State.engineDeadline c ((s.ctx c).mstone + 1))
      (s.setCtx c { s.ctx c with deadline := (s.ctx c).mstone + 1 })) := by
  have hexec : exec (.deadlineArrive c) s = execDeadlineArrive c s := rfl
  have hgo : (!(s.ctx c).on || decide ((s.ctx c).mstone + 1 ≤ (s.ctx c).deadline)
      || !s.allArrived c ((s.ctx c).mstone + 1)) = false := by
    simp [hon, hall, Nat.not_le.mpr hnew]
  rw [hexec, execDeadlineArrive]
  simp only [hgo, Bool.false_eq_true, if_false]
  rfl

theorem Engine.meetDeadline_work (x : Engine) (c d : Nat) : (x.meetDeadline c d).work =
    ((x.stopLate c d).run, (x.stopLate c d).queue.filter fun p => !(x.latePosts c d).contains p) :=
  foldl_keeps Engine.work (fun z _ => z.updEntry_work ..) _ _

theorem State.endStale_keeps (s : State) (g : Nat) (l : List Post) :
    ((s.endStale g l).engine g).work = (s.engine g).work ∧
      (∀ h, h ≠ g → (s.endStale g l).engine h = s.engine h) ∧
      ∀ c, ((s.endStale g l).ctx c).deadline = (s.ctx c).deadline := by
  refine ⟨?_, fun h hne => ?_, fun c => ?_⟩
  · refine foldl_keeps (fun st : State => (st.engine g).work) (fun st p => ?_) l s
    rw [State.engine_redirty, State.work_recordEnd]
  · refine foldl_keeps (fun st : State => st.engine h) (fun st p => ?_) l s
    rw [State.engine_redirty, State.engine_recordEnd_of_ne _ _ _ _ _ hne]
  · refine foldl_keeps (fun st : State => (st.ctx c).deadline) (fun st p => ?_) l s
    rw [State.deadline_redirty, State.deadline_recordEnd]

/-- A deadline changes the work of the engine at which it arrives, no other engine, and no context's deadline. -/
theorem State.engineDeadline_spec (c d : Nat) (s : State) (g : Nat) :
    ((s.engineDeadline c d g).engine g).work = ((s.engine g).meetDeadline c d).work ∧
      (∀ h, h ≠ g → (s.engineDeadline c d g).engine h = s.engine h) ∧
      ∀ k, ((s.engineDeadline c d g).ctx k).deadline = (s.ctx k).deadline := by
  obtain ⟨hwork, hother, hctx⟩ := (s.setEngine g ((s.engine g).meetDeadline c d)).endStale_keeps g
    ((s.engine g).latePosts c d)
  refine ⟨hwork.trans ?_, fun h hne => (hother h hne).trans ?_, hctx⟩
  · rw [State.engine_setEngine_self]
  · rw [State.engine_setEngine, if_neg hne]

theorem State.engine_foldl_deadline (c d : Nat) {h : Nat} {l : List Nat} (s : State) (hl : h ∉ l) :
    (l.foldl (State.engineDeadline c d) s).engine h = s.engine h := by
  induction l generalizing s with
  | nil => rfl
  | cons g l ih =>
    obtain ⟨hne, hl⟩ := not_or.mp (mt List.mem_cons.mpr hl)
    obtain ⟨-, hother, -⟩ := s.engineDeadline_spec c d g
    rw [List.foldl_cons, ih _ hl, hother h hne]

/-- A deadline that arrives at engines in turn changes the work of each of them. -/
theorem State.work_foldl_deadline (c d : Nat) {h : Nat} {l : List Nat} (s : State) (hnodup : l.Nodup) (hmem : h ∈ l) :
    ((l.foldl (State.engineDeadline c d) s).engine h).work = ((s.engine h).meetDeadline c d).work := by
  induction l generalizing s with
  | nil => cases hmem
  | cons g l ih =>
    obtain ⟨hg, hl⟩ := List.nodup_cons.mp hnodup
    obtain ⟨hwork, hother, -⟩ := s.engineDeadline_spec c d g
    rw [List.foldl_cons]
    by_cases hhg : h = g
    · subst hhg
      rw [State.engine_foldl_deadline c d _ hg, hwork]
    · have hin : h ∈ l := (List.mem_cons.mp hmem).resolve_left hhg
      rw [ih _ hl hin, hother h hhg]

theorem State.deadline_foldl_deadline (c d k : Nat) (l : List Nat) (s : State) :
    ((l.foldl (State.engineDeadline c d) s).ctx k).deadline = (s.ctx k).deadline := by
  refine foldl_keeps (fun st : State => (st.ctx k).deadline) (fun st g => ?_) l s
  obtain ⟨-, -, hctx⟩ := st.engineDeadline_spec c d g
  exact hctx k

theorem Engine.stopLate_of_idle {x : Engine} (c d : Nat) (h : x.run = none) : (x.stopLate c d).run = none := by
  simp [Engine.stopLate, h]

theorem Engine.stopLate_of_run {x : Engine} {r : Refresh} (c d : Nat) (h : x.run = some r) :
    (x.stopLate c d).run = some (if r.post.ctx = c ∧ r.post.deadline ≤ d then r.deadline else r) := by
  simp only [Engine.stopLate, h, Bool.and_eq_true, beq_iff_eq, decide_eq_true_eq]
  split
  · rfl
  · exact h

@[simp] theorem Engine.stopLate_queue (x : Engine) (c d : Nat) : (x.stopLate c d).queue = x.queue := by
  unfold Engine.stopLate
  split
  · split <;> rfl
  · rfl

/-- The posts that stay queued at a deadline: those of other contexts or later deadlines, and those that are not SOFT. -/
theorem Engine.mem_meetDeadline_queue (x : Engine) (c d : Nat) (p : Post) : p ∈ (x.meetDeadline c d).queue ↔
    p ∈ x.queue ∧ (p.ctx = c → p.deadline ≤ d → entWait (Tbl.get [] x.table p.entry) = true) := by
  have hqueue : (x.meetDeadline c d).queue = x.queue.filter fun p => !(x.latePosts c d).contains p :=
    (congrArg Prod.snd (x.meetDeadline_work c d)).trans (by rw [Engine.stopLate_queue])
  rw [hqueue]
  simp only [List.mem_filter, Engine.latePosts, Bool.not_eq_true', List.contains_eq_mem, decide_eq_false_iff_not,
    Bool.and_eq_true, beq_iff_eq, decide_eq_true_eq]
  refine and_congr_right fun hp => ?_
  cases entWait (Tbl.get [] x.table p.entry) <;> simp [hp]

/-- What an engine does after a deadline, by what it did before: its SOFT refresh stops, and its late posts are gone. -/
theorem Engine.after_deadline {x y : Engine} {c d : Nat} (h : y.work = (x.meetDeadline c d).work) :
    (x.run = none → y.run = none) ∧
      (∀ r, x.run = some r → y.run = some (if r.post.ctx = c ∧ r.post.deadline ≤ d then r.deadline else r)) ∧
      ∀ p, p ∈ y.queue ↔
        p ∈ x.queue ∧ (p.ctx = c → p.deadline ≤ d → entWait (Tbl.get [] x.table p.entry) = true) := by
  have hrun : y.run = (x.stopLate c d).run := congrArg Prod.fst (h.trans (x.meetDeadline_work c d))
  have hqueue : y.queue = (x.meetDeadline c d).queue := congrArg Prod.snd h
  refine ⟨fun hidle => hrun.trans (Engine.stopLate_of_idle c d hidle),
    fun r hr => hrun.trans (Engine.stopLate_of_run c d hr), fun p => ?_⟩
  rw [hqueue, Engine.mem_meetDeadline_queue]

/-! ### A root goes to its members (07_root_solver R198, R210) -/

/-- Every member that has not failed has answered. -/
theorem live_all_answered {ms : List Nat} {failed : List Nat} {rs : List (Nat × Bool)}
    (h : ∀ d ∈ ms, failed.contains d = false → ∃ p ∈ rs, p.1 = d) :
    (!((ms.filter fun d => !failed.contains d).all fun d => rs.any fun p => p.1 == d)) = false := by
  have hall : ((ms.filter fun d => !failed.contains d).all fun d => rs.any fun p => p.1 == d) = true := by
    refine List.all_eq_true.mpr fun d hd => ?_
    obtain ⟨hm, hlive⟩ := List.mem_filter.mp hd
    obtain ⟨p, hp, hpd⟩ := h d hm (by simpa using hlive)
    exact List.any_eq_true.mpr ⟨p, hp, by simp [hpd]⟩
  rw [hall, Bool.not_true]

/-- The key under which the root of a refresh travels. -/
def Refresh.travelKey (r : Refresh) (home : Nat) : List Nat :=
  rootKey 1 r.post.fid r.post.block r.post.deadline (entRfmt r.entryB) home

theorem exec_rootDistribute (eng : Nat) (s : State) : exec (.rootDistribute eng) s = execRootDistribute eng s := rfl

section Distribute
variable {s : State} {eng st : Nat} {r : Refresh} {f : Bytes} (hrun : (s.engine eng).run = some r)
  (hout : r.outcome = some st) (hinst : installs st = true) (hfac : s.factor r.post.ctx r.post.fid = some f)
include hrun hout hinst hfac

/-- A finished root is sent once the home's free slot holds no pending root. -/
theorem exec_rootDistribute_of_none {h : Bytes} (hdist : r.dist = .none)
    (hh : h = s.hdr r.post.ctx f r.post.block (s.rootFree r.post.ctx f r.post.block))
    (hfree : (hdrValid h && hdrPending h) = false) :
    exec (.rootDistribute eng) s = .next ((s.controlMulticast r.post.ctx (entRgroup r.entryB) ctlRoot
      (r.travelKey s.fab.devid) (mkHdr (entSig r.entryB) r.post.deadline true true st (if r.method = 0 then 0 else r.k)
        (r.resid.getD 0) ++ codesBytes r.root)).setEngine eng { s.engine eng with run := some { r with
          dist := .sent (s.rootMembers r.post.ctx (entRgroup r.entryB)) } }) := by
  subst hh
  rw [exec_rootDistribute, execRootDistribute]
  simp only [hrun, hout, hinst, hfac, hdist, hfree, Bool.not_true, Bool.false_eq_true, if_false]
  rfl

section Sent
variable {ms : List Nat} (hdist : r.dist = .sent ms)
  (hans : ∀ d ∈ ms, (s.ctx r.post.ctx).failed.contains d = false → ∃ p ∈ s.rootReplies ctlRootReply r.post, p.1 = d)
include hdist hans

/-- A root that every member has taken has come to its end. -/
theorem exec_rootDistribute_of_taken (htaken : ∀ p ∈ s.rootReplies ctlRootReply r.post, p.2 = true) :
    exec (.rootDistribute eng) s =
      .next (s.setEngine eng { s.engine eng with run := some { r with dist := .ended } }) := by
  have hall : ((s.rootReplies ctlRootReply r.post).all fun p => p.2) = true := List.all_eq_true.mpr htaken
  rw [exec_rootDistribute, execRootDistribute]
  simp only [hrun, hout, hinst, hfac, hdist, live_all_answered hans, hall, Bool.not_true, Bool.false_eq_true, if_false,
    if_true]

/-- A root that a member has refused is withdrawn. -/
theorem exec_rootDistribute_of_refused (href : ∃ p ∈ s.rootReplies ctlRootReply r.post, p.2 = false) :
    exec (.rootDistribute eng) s = .next ((s.controlMulticast r.post.ctx (entRgroup r.entryB) ctlRootDrop
      (r.travelKey s.fab.devid) []).setEngine eng { s.engine eng with run := some { r with dist := .withdrawn ms } }) := by
  have hall : ((s.rootReplies ctlRootReply r.post).all fun p => p.2) = false := by
    obtain ⟨p, hp, hno⟩ := href
    exact List.all_eq_false.mpr ⟨p, hp, by simp [hno]⟩
  rw [exec_rootDistribute, execRootDistribute]
  simp only [hrun, hout, hinst, hfac, hdist, live_all_answered hans, hall, Bool.not_true, Bool.false_eq_true, if_false]
  rfl

end Sent

/-- Once the withdrawals have been answered, the refresh has ended as refused. -/
theorem exec_rootDistribute_of_withdrawn {ms : List Nat} (hdist : r.dist = .withdrawn ms)
    (hans : ∀ d ∈ ms, (s.ctx r.post.ctx).failed.contains d = false →
      ∃ p ∈ s.rootReplies ctlDropReply r.post, p.1 = d) :
    exec (.rootDistribute eng) s =
      .next (s.setEngine eng { s.engine eng with run := some { r with dist := .ended, outcome := some 8 } }) := by
  rw [exec_rootDistribute, execRootDistribute]
  simp only [hrun, hout, hinst, hfac, hdist, live_all_answered hans, Bool.not_true, Bool.false_eq_true, if_false]

end Distribute

/-! ### A member takes a root (07_root_solver R194, R198, R210) -/

/-- An exchange taken from the list of those that have come. -/
def State.takenControl (s : State) (k : Control) : State :=
  { s with fab := { s.fab with controls := s.fab.controls.erase k } }

/-- A new root written pending into a free slot and listed. -/
def State.listRoot (s : State) (c : Nat) (f : Bytes) (blk tag home : Nat) (data : Bytes) : State :=
  let slot := s.rootFree c f blk
  let s1 := (s.ctxWrite c (rootMat f blk slot) (data.drop 64)).ctxWrite c (rootHdr f blk slot) (data.take 64)
  { s1 with installs := s1.installs ++ [⟨c, rootHdr f blk slot, tag, home⟩] }

theorem exec_rootAccept (c : Nat) (s : State) : exec (.rootAccept c) s = execRootAccept c s := rfl

section Accept
variable {s : State} {c : Nat} {k : Control} {mode fid blk tag rfmt home : Nat} {f : Bytes}
  (hfind : s.fab.controls.find? (fun y => y.ctx == c && (y.kind == ctlRoot || y.kind == ctlRootDrop) && s.rootOpen c y) =
    some k) (hkey : k.key = [mode, fid, blk, tag, rfmt, home])
include hfind hkey

/-- A withdrawal clears the slot of its root. -/
theorem exec_rootAccept_of_drop (hkind : k.kind = ctlRootDrop) : exec (.rootAccept c) s =
    .next (((s.takenControl k).dropRoot c fid blk tag).controlReply c home ctlDropReply [fid, blk, tag] [1]) := by
  rw [exec_rootAccept, execRootAccept]
  simp only [hfind, hkey, if_pos hkind]
  rfl

variable (hkind : k.kind = ctlRoot) (hfac : (s.takenControl k).factor c fid = some f)
include hkind hfac

/-- A root sent to a member of its group: an identity is written, a computed root listed, or refused when the list is
full. -/
theorem exec_rootAccept_of_root : exec (.rootAccept c) s =
    .next (if mode = 0 then
        ((s.takenControl k).writeIdentity c f blk rfmt).controlReply c home ctlRootReply [fid, blk, tag] [1]
      else if 8192 ≤ s.installs.length then
        (s.takenControl k).controlReply c home ctlRootReply [fid, blk, tag] [0]
      else ((s.takenControl k).listRoot c f blk tag home (((k.inputs[0]?).map (·.2.2)).getD [])).controlReply c home
        ctlRootReply [fid, blk, tag] [1]) := by
  have hroot : ¬ k.kind = ctlRootDrop := by rw [hkind]; decide
  unfold State.takenControl at hfac
  rw [exec_rootAccept, execRootAccept]
  simp only [hfind, hkey, if_neg hroot, hfac]
  split
  · rfl
  split <;> rfl

end Accept

/-- Settles O31: work items by what their operands and their place in the product are, deadlines engine by engine, and
roots by how far they have come. -/
theorem workItemsDeadlinesRoots : Obligations.WorkItemsDeadlinesRoots := by
  refine ⟨fun s => ⟨?work, ?deadline⟩, fun s => ⟨?distribute, ?accept⟩⟩
  case work =>
    intro eng t r p ps x i hrun hprods hout hlayby hlent hres hruns o
    exact ⟨exec_workItem_of_unread hout hlayby hlent hres hruns hrun hprods, fun hread =>
      ⟨exec_workItem_of_more hout hlayby hlent hres hruns hrun hprods hread,
        exec_workItem_of_last hout hlayby hlent hres hruns hrun hprods hread⟩⟩
  case deadline =>
    intro c hon hnew hall d
    refine ⟨_, exec_deadlineArrive_of_allArrived hon hnew hall, ?_, fun g hg => ?_⟩
    · rw [State.deadline_foldl_deadline, State.ctx_setCtx_self]
    have hwork := State.work_foldl_deadline c d (s.setCtx c { s.ctx c with deadline := d }) List.nodup_range
      (List.mem_range.mpr hg)
    rw [State.engine_setCtx] at hwork
    exact Engine.after_deadline hwork
  case distribute =>
    intro eng r st f x hrun hout hinst hfac
    exact ⟨fun hdist hfree => exec_rootDistribute_of_none hrun hout hinst hfac hdist rfl hfree,
      fun ms hdist hans => ⟨exec_rootDistribute_of_taken hrun hout hinst hfac hdist hans,
        exec_rootDistribute_of_refused hrun hout hinst hfac hdist hans⟩,
      fun ms hdist hans => exec_rootDistribute_of_withdrawn hrun hout hinst hfac hdist hans⟩
  case accept =>
    intro c k mode fid blk tag rfmt home f hfind hkey
    refine ⟨exec_rootAccept_of_drop hfind hkey, fun hkind hfac => ?_⟩
    have hexec := exec_rootAccept_of_root hfind hkey hkind hfac
    exact ⟨fun hid => hexec.trans (congrArg _ (if_pos hid)),
      fun hnew hfull => hexec.trans (congrArg _ ((if_neg hnew).trans (if_pos hfull))),
      fun hnew hroom => hexec.trans (congrArg _ ((if_neg hnew).trans (if_neg (Nat.not_le.mpr hroom))))⟩

end Sys2Proof.Machine
end

section
/-! STREAM posts, FRAG_EMPTY, the management-assisted path, and credits of stage queues (O20). -/

namespace Sys2Proof.Machine

/-! ### Sending a frame leaves the flow entries as they are (09_causeway_collectives R264, R268, R275) -/

/-- The flow entries that streams hold. -/
def State.flows (s : State) : Tbl Stream := s.fab.streams

@[simp] theorem State.owe_flows (s : State) (p vc n : Nat) : (s.owe p vc n).flows = s.flows := rfl

@[simp] theorem State.transmit_flows (s : State) (p : Nat) (t : TxFrame) : (s.transmit p t).flows = s.flows := by
  unfold State.transmit
  dsimp only
  split <;> rfl

@[simp] theorem State.drainPort_flows (p n : Nat) (s : State) : (State.drainPort p n s).flows = s.flows := by
  induction n generalizing s with
  | zero => rfl
  | succ n ih =>
    unfold State.drainPort
    split
    · rfl
    · rw [ih, State.transmit_flows]; rfl

@[simp] theorem State.enqueue_flows (s : State) (p : Nat) (t : TxFrame) : (s.enqueue p t).flows = s.flows :=
  State.drainPort_flows ..

@[simp] theorem State.route_flows (s : State) (t : TxFrame) : (s.route t).flows = s.flows := by
  unfold State.route
  split
  · rfl
  split
  · rfl
  · exact foldl_keeps State.flows (fun _ _ => State.enqueue_flows ..) _ s

@[simp] theorem State.sendFrame_flows (s : State) (f : Frame) : (s.sendFrame f).flows = s.flows := by
  unfold State.sendFrame
  dsimp only
  split
  · rfl
  · exact State.route_flows ..

@[simp] theorem State.reportRing_flows (s : State) (c peer flow freed taken : Nat) :
    (s.reportRing c peer flow freed taken).flows = s.flows := by
  unfold State.reportRing
  split
  · rfl
  · exact State.sendFrame_flows ..

/-! ### Posts (09_causeway_collectives R283, R288, R293) -/

/-- A CPOST that issues does what its body says; the collectives of posts that have just issued begin. -/
theorem exec_cpost_of_issues {s : State} {i : Issue} {e : Env} {x : Instr} (h : Issues s i 4 0 e)
    (hx : exec x s = .next (s.cpost i)) : exec x s = .next ((s.act e (bodyCpost e s)).kick).retryHeld := by
  rw [hx, State.cpost, State.issue_of_issues h (by decide)]

/-- The checks that a post of either kind passes: the descriptor is legal and its status word inside the store, the
context is a primary with a shard map, the addresses are in range, the epoch is the job's, and no v1 link is in the way
(R273, R283, Table 9.10). -/
structure PostPasses (s : State) (e : Env) (d : Bytes) (g : Group) : Prop where
  primary : (s.ctx e.c).kind = 0
  legal : cpostOk d = true
  status : cStatus d + 8 ≤ storeSize
  mapped : (s.smap e.c).isSome = true
  group : (s.group e.c (cGroup d)).getD ⟨[], 2⟩ = g
  ranges : s.collRanges e.c e.t d g.members.length
    (s.nextRank e.c (cGroup d) (ranksIn s.fab.devid g.members)) = true
  epoch : s.epochOk e.c d = true
  version : s.versionLow e.c d g.members = false

theorem CollBegins.passes {s : State} {e : Env} {d : Bytes} {g : Group} (h : CollBegins s e d g) : PostPasses s e d g :=
  ⟨h.primary, h.legal, h.status, h.mapped, h.group.symm, h.ranges, h.epoch, h.version⟩

section Post
variable {s : State} {i : Issue} {e : Env} {d : Bytes} {g : Group} (hpost : PostsDesc s i 4 0 e d)
include hpost

/-- A STREAM whose flow entry is free takes it: a sending one is in flight with its work to do, a receiving one has
done its work. -/
theorem bodyCpost_of_stream (hpass : PostPasses s e d g) (hop : cOp d = 7)
    (hfree : s.entryUsed (cFlow d) = false) : bodyCpost e s =
    if cSend d then
      .go (s.beginStream e d) (fun f => { f with
        posted := true, statusAt := some (cStatus d), work := .post d, poison := false }) Queue.advance
    else
      .go (s.beginStream e d) (fun f => { f with
        posted := true, statusAt := some (cStatus d), status := 0, poison := false }) Queue.advance := by
  obtain ⟨hprimary, hlegal, hstatus, hmapped, hgroup, hranges, hepoch, hversion⟩ := hpass
  have hnone : (Tbl.find s.fab.streams (cFlow d)).isSome = false := (Bool.or_eq_false_iff.mp hfree).1
  have hminor : s.minor e = false := by simp [State.minor, hprimary]
  rw [bodyCpost, Act.when_of_false hminor, State.post_of_postsDesc hpost]
  simp [Act.when, hlegal, Nat.not_lt.mpr hstatus, Option.isSome_iff_ne_none.mp hmapped, hgroup, hop, opStream,
    opFragEmpty, hranges, hepoch, hversion, hnone, hfree]

/-- FRAG_EMPTY of a tensor of the job is counted on its group (log 110) and in flight with its work to do. -/
theorem bodyCpost_of_fragEmpty (hbegins : CollBegins s e d g) (hop : cOp d = 8)
    (htensor : (s.tensor e.c (cTid d)).isSome = true)
    (hentry : ((s.smap e.c).bind fun m => m.tensorEntry (cTid d)).isSome = true) : bodyCpost e s =
    .go (s.countPost e.c (cGroup d) (s.nextRank e.c (cGroup d) (ranksIn s.fab.devid g.members))).1
      (fun f => { f with posted := true, statusAt := some (cStatus d), poison := false, work := .post d,
                         frags := cCount d }) Queue.advance := by
  obtain ⟨hprimary, hlegal, hstatus, hmapped, hgroup, hranges, hepoch, hversion⟩ := hbegins.passes
  obtain ⟨x, hx⟩ := Option.isSome_iff_exists.mp htensor
  obtain ⟨b, hb⟩ := Option.isSome_iff_exists.mp hentry
  have hminor : s.minor e = false := by simp [State.minor, hprimary]
  have hplace : (cGroup d == 0 || ascending (((s.groupRec e.c (cGroup d)).map (·.members)).getD [] |>.map fun m =>
      (indexOf? m (((s.groupRec e.c 0).map (·.members)).getD [])).getD 0x10000)) = true := by
    simpa using hbegins.order
  rw [bodyCpost, Act.when_of_false hminor, State.post_of_postsDesc hpost]
  simp [Act.when, hlegal, Nat.not_lt.mpr hstatus, Option.isSome_iff_ne_none.mp hmapped, hgroup, hop, opStream,
    opFragEmpty, hranges, hepoch, hversion, hbegins.member, hplace, hx, hb]

end Post

/-- The stream of a STREAM post, as its flow entry holds it (R288; 13_fault_tolerance R408). -/
def State.streamOf (s : State) (e : Env) (d : Bytes) : Stream :=
  { ctx := e.c, vt := e.v, sends := cSend d, queue := e.q, seq := e.qu.seq, peer := s.standIn e.c (cPeer d)
    flow := cFlow d, addr := if cSend d then cSrc d else cDst d, hbm := cSend d && cSrcHbm d, depth := cTaddr d
    unit := cUnit d, rows := cCount d, opened := !cSend d }

/-- A STREAM post puts its stream into its flow entry, and changes no other. -/
theorem State.beginStream_flows (s : State) (e : Env) (d : Bytes) :
    (s.beginStream e d).flows = Tbl.set s.flows (cFlow d) (s.streamOf e d) := by
  rw [State.beginStream, apply_ite State.flows, State.reportRing_flows, ite_self]
  rfl

theorem State.find_beginStream (s : State) (e : Env) (d : Bytes) :
    Tbl.find (s.beginStream e d).fab.streams (cFlow d) = some (s.streamOf e d) := by
  rw [← State.flows, State.beginStream_flows, Tbl.find_set, if_pos rfl]

/-! ### The management-assisted path and credits (09_causeway_collectives R294; 10_parallel_mapping R321) -/

/-- With no collective on the management-assisted path, the oldest one that waits for it begins. -/
theorem State.nextManaged_of_waiting {s : State} {k : Coll}
    (hidle : ∀ j ∈ s.fab.colls, j.entry = none → j.queued = true) (hk : s.fab.colls.find? (·.queued) = some k) :
    s.nextManaged = (s.setColl { k with queued := false }).startColl { k with queued := false } := by
  have hnone : (s.fab.colls.any fun j => j.entry.isNone && !j.queued) = false := by
    simpa [List.any_eq_false] using hidle
  rw [State.nextManaged, hnone, if_neg Bool.false_ne_true, hk]

/-- A sender with sends not yet credited gets a credit back. -/
theorem State.queueCredit_of_sender {s : State} {k : Nat} (hvalid : (s.endpoint k).valid = true)
    (hsender : (s.endpoint k).receiver = false) (howed : (s.endpoint k).credits < (s.endpoint k).sends) :
    s.queueCredit k = s.setEndpoint k { s.endpoint k with credits := (s.endpoint k).credits + 1 } :=
  if_pos (by simp [hvalid, hsender, howed])

/-- Settles O20: the body of each post once its checks are passed, and the two commands by their guards. -/
theorem streamPostsAndManagedPath : Obligations.StreamPostsAndManagedPath := by
  refine ⟨?stream, ?fragEmpty, fun s => ⟨fun k hidle hk => ?managed, fun k hvalid hsender howed => ?credit⟩⟩
  case stream =>
    intro s i e d g hpost hprimary hlegal hstatus hmapped hgroup hranges hepoch hversion posted hop hfree
    have hbody := bodyCpost_of_stream hpost
      ⟨hprimary, hlegal, hstatus, hmapped, hgroup.symm, hranges, hepoch, hversion⟩ hop hfree
    refine ⟨fun hsend => ?_, fun hreceive => ?_, _, s.find_beginStream e d, rfl, rfl, rfl, rfl, rfl, rfl⟩
    · rw [if_pos hsend] at hbody
      rw [exec_cpost_of_issues hpost.issues rfl, hbody]
      rfl
    · rw [if_neg (by simp [hreceive])] at hbody
      rw [exec_cpost_of_issues hpost.issues rfl, hbody]
      rfl
  case fragEmpty =>
    intro s i e d g hpost hbegins hop htensor hentry posted
    rw [exec_cpost_of_issues hpost.issues rfl,
      bodyCpost_of_fragEmpty hpost hbegins hop htensor hentry]
    rfl
  case managed => exact congrArg (fun t => Host.Outcome.next t.retryHeld) (State.nextManaged_of_waiting hidle hk)
  case credit => exact congrArg _ (State.queueCredit_of_sender hvalid hsender howed)

end Sys2Proof.Machine
end

section
/-! A forced fetch that merges deltas with a bad burst (O32). -/

namespace Sys2Proof.Machine

/-- The record of a paged tensor: TID 1, one fragment of one element, its log at 4096. -/
def pagedRecord : Bytes :=
  leBytes 4 1 ++ leBytes 4 1 ++ leBytes 4 1 ++ [1, 1, 0, 0] ++ leBytes 4 1 ++ [0, 0, 1, 0] ++ List.replicate 40 0 ++
    leBytes 8 4096 ++ List.replicate 56 0

/-- The read of the one fragment of page 0, answered. -/
def pageRead : Remote :=
  { tag := 0, ctx := 0, key := [1, 1, 0, 0], off := 0, host := true, write := false, len := 16384, answered := true
    failed := false }

/-- A part whose forced fetch of page 0 of tensor 1 has read the page's copy, and in whose HBM one bit of the first delta
in the page's log is bad. -/
def badDelta : State :=
  { State.reset with
    ctxs := [(0, { segs := leBytes 8 (2 ^ 63 + 2 ^ 62 + 2 ^ 19) })]
    uoaDev := { stalls := [(0, 1, 0)] }
    remotes := [pageRead]
    hbm := { State.reset.hbm with
      mem := memWriteBytes (memWriteBytes [] 128 pagedRecord) 16 (leBytes 8 256 ++ leBytes 4 1)
      ecc := [((4096 + 128) / 32, .single)] } }

theorem badDelta_tensor : badDelta.tensor 0 1 = some ⟨1, pagedRecord⟩ := by decide +kernel

theorem badDelta_pageAt : badDelta.pageAt 0 ⟨1, pagedRecord⟩ 0 = some (256, List.replicate 32 0) := by decide +kernel

/-- The corrected bursts whose write-backs an outcome has queued (11_memory_tiers R341). -/
def corrections : Res → Nat
  | .next s => s.hbm.wbacks.length
  | _ => 0

/-- The merge meets the bad burst in the delta that it reads. -/
theorem corrections_forcedFetchDone_badDelta : corrections (exec (.forcedFetchDone 0 1 0) badDelta) = 1 := by
  decide +kernel

/-- Refutes O32: the deltas that a forced fetch merges are read under their codes, so a burst of them with one bad bit is
corrected and queued for its write-back (R341); the statement has the merge leave HBM as it was. Its clauses of the
write-back, of the norm sum and of the digest leave out the codes of what they read in the same way. -/
theorem not_updateCommandsComplete : ¬ Obligations.UpdateCommandsComplete := by
  rintro ⟨hupdates, -⟩
  obtain ⟨-, hfetches, -, -⟩ := hupdates badDelta
  obtain ⟨-, hdone, -⟩ := hfetches 0 1 0 _ _ badDelta_tensor badDelta_pageAt
  obtain ⟨hmerges, -⟩ := hdone (by decide) (by decide) (by decide)
  have hsays := congrArg corrections (hmerges ⟨pageRead, by decide, rfl, rfl, rfl⟩)
  rw [corrections_forcedFetchDone_badDelta] at hsays
  exact absurd hsays (by decide +kernel)

end Sys2Proof.Machine
end

section
/-! Milestones: arrival, completion, the next step, and resync (O33). -/

namespace Sys2Proof.Machine

/-! ### Arrival (08_update_on_arrival R242; 13_fault_tolerance R417) -/

theorem exec_deviceArrive (c : Nat) (s : State) : exec (.deviceArrive c) s = execDeviceArrive c s := rfl

/-- A device that may arrive does so at once without a diagnostic, and under one when both its digests are there. -/
theorem exec_deviceArrive_of_mayArrive {s : State} {c : Nat} {j : Job} (hjob : (s.ctx c).job = some j)
    (hmay : s.mayArrive c = true) (hdiag : (s.ctx c).diagArmed = true →
      (s.ctx c).recov.diagDigest.isSome = true ∧ (s.ctx c).recov.diagSecond.isSome = true) :
    exec (.deviceArrive c) s =
      .next ((s.setCtx c { s.ctx c with job := some { j with arrived := true } }).tryAgree c) := by
  have hready : (!s.mayArrive c || ((s.ctx c).diagArmed && (s.ctx c).recov.diagDigest.isNone)) = false := by
    cases ha : (s.ctx c).diagArmed with
    | false => simp [hmay]
    | true => simpa [hmay, ← Option.isSome_iff_ne_none] using (hdiag ha).1
  have hover : ((s.ctx c).diagArmed && (s.ctx c).recov.diagSecond.isNone) = false := by
    cases ha : (s.ctx c).diagArmed with
    | false => rfl
    | true => simpa [← Option.isSome_iff_ne_none] using (hdiag ha).2
  rw [exec_deviceArrive, execDeviceArrive]
  simp only [hready, hover, hjob, Bool.false_and, Bool.false_eq_true, if_false, Option.map_some]

theorem exec_deviceArrive_of_not_mayArrive {s : State} {c : Nat} (h : s.mayArrive c = false) :
    exec (.deviceArrive c) s = .next s := by
  rw [exec_deviceArrive, execDeviceArrive]
  exact if_pos (by simp [h])

/-! ### Completion (01_organisation R27; 08_update_on_arrival R243) -/

theorem exec_milestoneComplete {s : State} {c : Nat} {j : Job} (hjob : (s.ctx c).job = some j)
    (scales : List (Nat × List (Nat × Nat))) : exec (.milestoneComplete c scales) s =
      if j.agreed && (s.ctx c).recov.phase == 0 then .next (s.completeMilestone c scales).retryHeld else .next s := by
  have hrun : exec (.milestoneComplete c scales) s = execMilestoneComplete c scales s := rfl
  rw [hrun, execMilestoneComplete]
  simp only [hjob]

@[simp] theorem State.putTensor_ctxs (s : State) (c : Nat) (x : Tensor) : (s.putTensor c x).ctxs = s.ctxs := by
  unfold State.putTensor
  split
  · exact State.hbmWrite_ctxs ..
  · rfl

@[simp] theorem State.putNorm_ctxs (s : State) (c n : Nat) (x : Tensor) : (s.putNorm c n x).ctxs = s.ctxs := by
  unfold State.putNorm
  split
  · exact State.putTensor_ctxs ..
  · rfl

@[simp] theorem State.commitTensor_ctxs (s : State) (c m : Nat) (x : Tensor) : (s.commitTensor c m x).ctxs = s.ctxs := by
  unfold State.commitTensor
  dsimp only
  split
  · rfl
  · exact State.putTensor_ctxs ..

/-- The part after the norms and the slots of step `m - 1` have been committed (08_update_on_arrival R235, Table 8.5). -/
def State.slotsCommitted (s : State) (c m : Nat) : State :=
  let s1 := if (s.ctx c).special then s else (s.normTensors c).foldl (fun st t => st.putNorm c (m - 1) t) s
  (s1.jobTensors c).foldl (fun st t =>
    let st1 := st.commitTensor c m t
    if (s.ctx c).switchStep == some (m - 1) && !t.frozen then (match st1.tensor c t.tid with
      | some y => st1.putTensor c (y.setSlot ((m - 1) % 2) 0 (y.tag ((m - 1) % 2)))
      | none => st1)
    else st1) s1

/-- Norms and slots stand in tensor records: their commit leaves the contexts as they are. -/
theorem State.slotsCommitted_ctxs (s : State) (c m : Nat) : (s.slotsCommitted c m).ctxs = s.ctxs := by
  refine (foldl_keeps State.ctxs (fun st t => ?tensor) _ _).trans ?norms
  case tensor =>
    dsimp only
    split
    · split
      · rw [State.putTensor_ctxs, State.commitTensor_ctxs]
      · exact State.commitTensor_ctxs ..
    · exact State.commitTensor_ctxs ..
  case norms =>
    split
    · rfl
    · exact foldl_keeps State.ctxs (fun _ _ => State.putNorm_ctxs ..) _ s

/-- A job with the step after Milestone `m` still to begin: nothing of that step has arrived or been summed. -/
def Job.atMilestone (j : Job) (m : Nat) : Job :=
  { j with mstone := m, begun := false, arrived := false, childArr := [], sentArr := [], agreed := false, norms := []
           digest := none, chatDue := true }

/-- A context whose job has come to Milestone `m`: no fragment of its step has been applied, and a Switchback or a
replacement step that it was is over. -/
def Ctx.atMilestone (x : Ctx) (m : Nat) (switched : Bool) : Ctx :=
  let replaced := x.bundle.step == some (m - 1)
  { x with job := x.job.map (·.atMilestone m), applied := []
           bundle := if replaced then { x.bundle with step := none, verified := false } else x.bundle
           bundleAt := if replaced then 0 else x.bundleAt
           switchStep := if switched then none else x.switchStep }

/-- The commit of a step brings the context to the Milestone, and then forms CHAT if its parameters are there. -/
theorem State.commitStep_eq (s : State) (c m : Nat) : s.commitStep c m =
    ((s.slotsCommitted c m).setCtx c
      (((s.slotsCommitted c m).ctx c).atMilestone m ((s.ctx c).switchStep == some (m - 1)))).formChats c := rfl

/-- CHAT, whether it is formed or not, changes of its context no more than that it is due. -/
theorem State.ctx_formChats (s : State) (c : Nat) : ∃ due : Job → Bool,
    (s.formChats c).ctx c = { s.ctx c with job := (s.ctx c).job.map fun k => { k with chatDue := due k } } := by
  have hsame : s.ctx c = { s.ctx c with job := (s.ctx c).job.map fun k => { k with chatDue := k.chatDue } } := by
    simp
  unfold State.formChats
  split
  · exact ⟨_, hsame⟩
  split
  · exact ⟨_, hsame⟩
  split
  · exact ⟨_, hsame⟩
  refine ⟨fun _ => false, ?formed⟩
  case formed =>
    rw [State.ctx_setCtx_self, State.ctx, foldl_keeps State.ctxs (fun st x => ?tensor), State.ctx]
    case tensor =>
      dsimp only
      split
      · rfl
      · split <;> simp

/-- The commit of a step begins a new step of the job. -/
theorem State.commitStep_job {s : State} {c : Nat} {j : Job} (hjob : (s.ctx c).job = some j) (m : Nat) :
    ((s.commitStep c m).ctx c).applied = [] ∧
      ∃ due, ((s.commitStep c m).ctx c).job = some { j.atMilestone m with chatDue := due } := by
  have hctx : (s.slotsCommitted c m).ctx c = s.ctx c := by rw [State.ctx, State.slotsCommitted_ctxs, State.ctx]
  rw [State.commitStep_eq, hctx]
  obtain ⟨due, hdue⟩ := State.ctx_formChats ((s.slotsCommitted c m).setCtx c
    ((s.ctx c).atMilestone m ((s.ctx c).switchStep == some (m - 1)))) c
  rw [hdue, State.ctx_setCtx_self]
  exact ⟨rfl, due (j.atMilestone m), by simp [Ctx.atMilestone, hjob]⟩

/-- The last PERMUTE of a Switchback step makes its slots WRITTEN. -/
theorem exec_switchbackWritten_of_done {s : State} {c m : Nat} (hstep : (s.ctx c).switchStep = some m)
    (hat : (s.ctx c).mstone = m) (hdone : s.permutesDue c ≤ (s.ctx c).permutes) :
    exec (.switchbackWritten c) s = .next (s.switchWritten c m) := by
  have hrun : exec (.switchbackWritten c) s = execSwitchbackWritten c s := rfl
  rw [hrun, execSwitchbackWritten]
  simp only [hstep, hat, hdone, and_self, if_true]

/-! ### Resync (08_update_on_arrival R247) -/

/-- The tensors whose CURRENT slots a resync copies. -/
def State.resyncDue (s : State) (c : Nat) : List Nat := ((s.jobTensors c).filter (·.replica)).map (·.tid)

/-- The part with the copies of a resync laid over its own slots. -/
def State.resynced (s : State) (c m : Nat) (copies : List (Nat × Bytes × Bytes)) : State :=
  (copies.filter fun p => (s.resyncDue c).contains p.1).foldl (fun st p => st.resyncTensor c m p) s

section Resync
variable {s : State} {c : Nat} {j : Job} {copies : List (Nat × Bytes × Bytes)} (hjob : (s.ctx c).job = some j)
include hjob

theorem exec_resync_of_copies (hres : j.resync = true) (hall : ∀ t ∈ s.resyncDue c, ∃ p ∈ copies, p.1 = t) :
    exec (.resync c copies) s = .next (((s.resynced c j.mstone copies).setCtx c
      { (s.resynced c j.mstone copies).ctx c with
        job := ((s.resynced c j.mstone copies).ctx c).job.map fun k => { k with resync := false } }).tryBegin c) := by
  have hgo : ¬ (!j.resync || !(s.resyncDue c).all fun t => copies.any fun p => p.1 == t) = true := by
    simpa [hres] using hall
  have hrun : exec (.resync c copies) s = execResync c copies s := rfl
  rw [hrun, execResync]
  simp only [hjob]
  exact if_neg hgo

theorem exec_resync_of_missing (hmiss : j.resync = false ∨ ∃ t ∈ s.resyncDue c, ∀ p ∈ copies, p.1 ≠ t) :
    exec (.resync c copies) s = .next s := by
  have hwait : (!j.resync || !(s.resyncDue c).all fun t => copies.any fun p => p.1 == t) = true := by
    rcases hmiss with hoff | ⟨t, ht, hnone⟩
    · simp [hoff]
    · have hcopies : (copies.any fun p => p.1 == t) = false := by simpa using hnone
      have hall : ((s.resyncDue c).all fun t => copies.any fun p => p.1 == t) = false :=
        List.all_eq_false.mpr ⟨t, ht, by simp [hcopies]⟩
      simp [hall]
  have hrun : exec (.resync c copies) s = execResync c copies s := rfl
  rw [hrun, execResync]
  simp only [hjob]
  exact if_pos hwait

end Resync

/-- Settles O33: each command by the guard that its condition meets, and the commit of a step by what it leaves of the
context. -/
theorem milestoneCommandsComplete : Obligations.MilestoneCommandsComplete := by
  intro s c j hjob
  refine ⟨fun hmay hoff => exec_deviceArrive_of_mayArrive hjob hmay (by simp [hoff]),
    fun hmay _ hfirst hsecond => exec_deviceArrive_of_mayArrive hjob hmay fun _ => ⟨hfirst, hsecond⟩,
    exec_deviceArrive_of_not_mayArrive, fun scales hagreed hphase => ?completes, fun scales hopen => ?waits, ?commit,
    fun m => exec_switchbackWritten_of_done, fun copies => ⟨exec_resync_of_copies hjob, exec_resync_of_missing hjob⟩⟩
  case completes => rw [exec_milestoneComplete hjob, if_pos (by simp [hagreed, hphase])]
  case waits => rw [exec_milestoneComplete hjob, if_neg (by simp [hopen])]
  case commit =>
    obtain ⟨happlied, due, hnew⟩ := State.commitStep_job hjob (j.mstone + 1)
    exact ⟨_, rfl, happlied, _, hnew, rfl, rfl, rfl, rfl, rfl, rfl⟩

end Sys2Proof.Machine
end

section
/-! The fabric's identification register (O38). -/

namespace Sys2Proof.Machine

/-! ### FAB_ID as a register (09_causeway_collectives R295, Table 9.11; 00_scope R13) -/

/-- FAB_ID in the register index. -/
def fabIdReg : Reg := { name := .fabId, idx := 0, bytes := 4 }

theorem State.regOf_fabId (s : State) : s.regOf 0x90000 = some (fabIdReg, 0) := by
  have hat : regAt 0x90000 = some (fabIdReg, 0) := by decide
  rw [State.regOf, hat]
  rfl

/-- A read whose access is one part of a register that its reader may see has the value of that part. -/
theorem State.cfgRead_one {s : State} {hidden : State → Reg → Bool} {addr width : Nat} {r : Reg} {lo w : Nat}
    (h : s.accParts addr width = [⟨some r, lo, w, 0⟩]) (hseen : hidden s r = false) :
    (s.cfgRead hidden addr width).val = (s.readPart r lo w).1 := by
  simp [State.cfgRead, h, Acc.read, hseen]

theorem State.cfgRead_fabId (s : State) : (s.cfgRead (fun _ _ => false) 0x90000 4).val = s.fab.id.toNat := by
  rw [State.cfgRead_one (State.accParts_narrow s.regOf_fabId (by decide)) rfl]
  exact Nat.mod_eq_of_lt s.fab.id.isLt

/-! ### Writes (09_causeway_collectives R295; 18_test_calibration R514) -/

/-- What FAB_ID holds after `v` is written. -/
def fabIdHeld (v : W32) : W32 := BitVec.ofNat 32 (setFld v.toNat 0 2 0)

/-- The two lowest bits are 0, and the others are those written. -/
theorem getLsbD_fabIdHeld (v : W32) {i : Nat} (hi : i < 32) :
    (fabIdHeld v).getLsbD i = (decide (2 ≤ i) && v.getLsbD i) := by
  rw [fabIdHeld, BitVec.getLsbD_ofNat, testBit_setFld, decide_eq_true hi, Bool.true_and]
  split
  · next hlow => simp [Nat.not_le.mpr (by omega : i < 2)]
  · next hhigh => simp [(by omega : 2 ≤ i), BitVec.getLsbD]

theorem exec_fabIdWrite_of_off {s : State} (v : W32) (hoff : ∀ q, q < 24 → s.portState q = 0) :
    exec (.fabIdWrite v) s = .next { s with fab := { s.fab with id := fabIdHeld v } } :=
  if_pos (by simpa using hoff)

theorem exec_fabIdWrite_of_port {s : State} (v : W32) {q : Nat} (hq : q < 24) (hon : s.portState q ≠ 0) :
    exec (.fabIdWrite v) s = .next s :=
  if_neg (by simpa using ⟨q, hq, hon⟩)

/-- Settles O38: the register's place and value, and the two cases of a write. -/
theorem fabIdHoldsItsFields : Obligations.FabIdHoldsItsFields :=
  ⟨fun s => ⟨⟨fabIdReg, s.regOf_fabId, rfl, rfl⟩, s.cfgRead_fabId, rfl, rfl, rfl, rfl,
    fun v hoff => ⟨_, exec_fabIdWrite_of_off v hoff, fun _ hi => getLsbD_fabIdHeld v hi, rfl⟩,
    fun v _ hq hon => exec_fabIdWrite_of_port v hq hon⟩, rfl⟩

end Sys2Proof.Machine
end

section
/-! The group collectives at their post (O19). -/

namespace Sys2Proof.Machine

/-! ### Reads of a collective leave the fabric as it is (04_tile_store_vector R106; 11_memory_tiers R341) -/

theorem State.meetBurst_fab (s : State) (e : Nat × Health) : (s.meetBurst e).fab = s.fab := by
  unfold State.meetBurst
  split
  · exact State.ev_fab ..
  · exact State.ev_fab ..

@[simp] theorem State.hbmRead_fab (s : State) (a n : Nat) : (s.hbmRead a n).s.fab = s.fab :=
  foldl_keeps State.fab State.meetBurst_fab (s.badBursts a n) s

theorem State.meetWord_fab (t req : Nat) (s : State) (e : Nat × Health) : (State.meetWord t req s e).fab = s.fab := by
  unfold State.meetWord
  split
  · exact State.ev_fab ..
  · exact (State.ev_fab ..).trans (State.ev_fab ..)

@[simp] theorem State.storeRead_fab (s : State) (t req a n : Nat) : (s.storeRead t req a n).s.fab = s.fab :=
  foldl_keeps State.fab (State.meetWord_fab t req) ((s.tile t).badWords a n) s

@[simp] theorem State.readRange_fab (s : State) (c t : Nat) (hbm : Bool) (a n : Nat) :
    (s.readRange c t hbm a n).s.fab = s.fab := by
  unfold State.readRange State.ctxRead
  split
  · cases s.xlate c a n false with
    | none => rfl
    | some d => exact s.hbmRead_fab d n
  · exact s.storeRead_fab t 2 a n

@[simp] theorem State.collReads_fab (s : State) (c t : Nat) (d : Bytes) (n r : Nat) :
    (s.collReads c t d n r).2.s.fab = s.fab := by
  have htable : (s.collReads c t d n r).1.s.fab = s.fab := by
    unfold State.collReads
    dsimp only
    split
    · exact State.readRange_fab ..
    · exact State.readRange_fab ..
    · exact State.readRange_fab ..
    · rfl
  rw [← htable]
  unfold State.collReads
  dsimp only
  rw [apply_ite Rd.s, apply_ite State.fab, State.readRange_fab, ite_self]

/-! ### A collective enters the tables (09_causeway_collectives R283, R293, R294) -/

/-- A collective as its post enters it: what it reads of its source and table, its number on its group, and the lowest
free flow entry, none when the post is refused. -/
def State.collOf (s : State) (e : Env) (d : Bytes) (g : Group) (rank : Nat) : Coll :=
  let counted := s.countPost e.c (cGroup d) rank
  let rd := counted.1.collReads e.c e.t d g.members.length rank
  { ctx := e.c, vt := e.v, queue := e.q, seq := e.qu.seq, rank := rank, desc := d, cseq := counted.2
    entry := rd.2.s.freeEntry, queued := rd.2.s.freeEntry.isNone, own := rd.2.bytes, table := rd.1.bytes
    ue := rd.1.ue || rd.2.ue }

theorem State.collOf_queued (s : State) (e : Env) (d : Bytes) (g : Group) (rank : Nat) :
    (s.collOf e d g rank).queued = (s.collOf e d g rank).entry.isNone := by
  dsimp only [State.collOf]

theorem State.beginColl_fab (s : State) (e : Env) (d : Bytes) (g : Group) (rank : Nat) :
    (s.beginColl e d g rank).fab = { (s.countPost e.c (cGroup d) rank).1.fab with
      colls := s.fab.colls ++ [s.collOf e d g rank]
      refused := if (s.collOf e d g rank).entry.isNone then satInc 16 s.fab.refused else s.fab.refused } := by
  unfold State.beginColl
  dsimp only
  rw [apply_ite State.fab, State.setCtx_fab, ite_self, apply_ite State.fab, State.ev_fab, State.collReads_fab]
  unfold State.collOf
  dsimp only
  split <;> rfl

theorem State.beginColl_colls (s : State) (e : Env) (d : Bytes) (g : Group) (rank : Nat) :
    (s.beginColl e d g rank).fab.colls = s.fab.colls ++ [s.collOf e d g rank] := by
  rw [State.beginColl_fab]

theorem State.beginColl_refused (s : State) (e : Env) (d : Bytes) (g : Group) (rank : Nat) :
    (s.beginColl e d g rank).fab.refused =
      if (s.collOf e d g rank).entry.isNone then satInc 16 s.fab.refused else s.fab.refused := by
  rw [State.beginColl_fab]

/-! ### The posts (09_causeway_collectives R283 to R287, Table 9.10) -/

/-- Each of the seven posts is a CPOST, with an OP below that of STREAM. -/
theorem exec_groupPosts {x : (Issue → Instr) × Nat} (hx : x ∈ groupPosts) (i : Issue) (s : State) :
    exec (x.1 i) s = .next (s.cpost i) ∧ x.2 < opStream := by
  simp only [groupPosts, List.mem_cons, List.not_mem_nil, or_false] at hx
  rcases hx with rfl | rfl | rfl | rfl | rfl | rfl | rfl <;> exact ⟨rfl, by decide⟩

section Post
variable {s : State} {i : Issue} {e : Env} {d : Bytes} {g : Group} (hpost : PostsDesc s i 4 0 e d)
include hpost

/-- A collective of a group that may begin is entered and in flight with its work to do. -/
theorem bodyCpost_of_collective (hbegins : CollBegins s e d g) (hop : cOp d < opStream) : bodyCpost e s =
    .go (s.beginColl e d g (s.nextRank e.c (cGroup d) (ranksIn s.fab.devid g.members))) (fun f => { f with
      posted := true, statusAt := some (cStatus d), work := .post d, poison := false }) Queue.advance := by
  obtain ⟨hprimary, hlegal, hstatus, hmapped, hgroup, hranges, hepoch, hversion⟩ := hbegins.passes
  have hminor : s.minor e = false := by simp [State.minor, hprimary]
  have hstream : cOp d ≠ 7 := Nat.ne_of_lt hop
  have hempty : cOp d ≠ 8 := Nat.ne_of_lt (Nat.lt_succ_of_lt hop)
  have hplace : (cGroup d == 0 || ascending (((s.groupRec e.c (cGroup d)).map (·.members)).getD [] |>.map fun m =>
      (indexOf? m (((s.groupRec e.c 0).map (·.members)).getD [])).getD 0x10000)) = true := by
    simpa using hbegins.order
  rw [bodyCpost, Act.when_of_false hminor, State.post_of_postsDesc hpost]
  simp [Act.when, hlegal, Nat.not_lt.mpr hstatus, Option.isSome_iff_ne_none.mp hmapped, hgroup, hstream, hempty,
    opStream, opFragEmpty, hranges, hepoch, hversion, hbegins.member, hplace]

/-- A legal post of a context without a shard map is in flight with its work done, at status 0x03. -/
theorem bodyCpost_of_unmapped (hprimary : (s.ctx e.c).kind = 0) (hlegal : cpostOk d = true)
    (hstatus : cStatus d + 8 ≤ storeSize) (hmap : (s.smap e.c).isNone = true) : bodyCpost e s =
    .go s (fun f => { f with
      posted := true, statusAt := some (cStatus d), status := 3, poison := false }) Queue.advance := by
  have hminor : s.minor e = false := by simp [State.minor, hprimary]
  rw [bodyCpost, Act.when_of_false hminor, State.post_of_postsDesc hpost, Act.when_of_false (by simp [hlegal]),
    Act.when_of_false (decide_eq_false (Nat.not_lt.mpr hstatus)), if_pos hmap]

end Post

/-- Settles O19: the body of a collective post once its checks are passed, what it enters, and the body of a post
without a shard map. -/
theorem groupPostsComplete : Obligations.GroupPostsComplete := by
  refine ⟨fun s i e d g x hx hpost hop hbegins => ?mapped,
    fun s i e d x hx hpost hop hprimary hlegal hstatus hmap => ?unmapped⟩
  case mapped =>
    intro rank b
    obtain ⟨hexec, hlt⟩ := exec_groupPosts hx i s
    refine ⟨?_, s.collOf e d g rank, s.beginColl_colls e d g rank, rfl, rfl, rfl, rfl, rfl, rfl, rfl, rfl,
      s.collOf_queued e d g rank, s.beginColl_refused e d g rank⟩
    rw [exec_cpost_of_issues hpost.issues hexec, bodyCpost_of_collective hpost hbegins (hop ▸ hlt)]
    rfl
  case unmapped =>
    rw [exec_cpost_of_issues hpost.issues (exec_groupPosts hx i s).1,
      bodyCpost_of_unmapped hpost hprimary hlegal hstatus hmap]
    rfl

end Sys2Proof.Machine
end

section
/-! Frames at a link, and frames delivered (O36). -/

namespace Sys2Proof.Machine

/-! ### The order of frames at a link (09_causeway_collectives R264, R266) -/

section Link
variable {s : State} {p : Nat} {f : Frame}

theorem State.linkRx_of_not_heard (hdeaf : (s.port p).hears f = false) : s.linkRx p f = (s, false) := by
  simp [State.linkRx, hdeaf]

variable (hhears : (s.port p).hears f = true)
include hhears

/-- An ACK or NAK has no place in the order: it is taken whatever its number. -/
theorem State.linkRx_of_bare (hbare : f.bare = true) : s.linkRx p f = (s.linkTake p ((s.port p).take f), true) := by
  simp [State.linkRx, hhears, hbare]

variable (hbare : f.bare = false)
include hbare

theorem State.linkRx_of_next (hnext : f.lseq = (s.port p).rxSeq) : s.linkRx p f =
    (s.linkTake p { (s.port p).take f with rxSeq := ((s.port p).rxSeq + 1) % 65536, naked := false }, true) := by
  simp [State.linkRx, hhears, hbare, hnext]

theorem State.linkRx_of_earlier (hne : f.lseq ≠ (s.port p).rxSeq) (hearlier : lseqBefore f.lseq (s.port p).rxSeq = true) :
    s.linkRx p f = (s, false) := by
  simp [State.linkRx, hhears, hbare, hne, hearlier]

theorem State.linkRx_of_gap (hne : f.lseq ≠ (s.port p).rxSeq) (hlater : lseqBefore f.lseq (s.port p).rxSeq = false) :
    s.linkRx p f = (s.nak p, false) := by
  simp [State.linkRx, hhears, hbare, hne, hlater]

end Link

/-! ### A frame that arrives (09_causeway_collectives R263, R273, R275) -/

/-- Each of the commands that bring a frame receives it, when the frame is of the command's type. -/
theorem exec_frameCmds {x : (Nat → Frame → Instr) × Nat} (hx : x ∈ frameCmds) {f : Frame} (hty : f.ty = x.2) (p : Nat)
    (s : State) : exec (x.1 p f) s = .next (s.receive p f) := by
  have htype : ofType f x.2 = true := by simp [ofType, hty]
  simp only [frameCmds, List.mem_cons, List.not_mem_nil, or_false] at hx
  rcases hx with rfl | rfl | rfl | rfl | rfl | rfl <;> exact if_pos htype

/-- A frame that the device sent to itself is delivered once, from the inbox (log 58). -/
theorem State.receive_inbox (s : State) (f : Frame) : s.receive 24 f = if s.fab.inbox.contains f
    then ({ s with fab := { s.fab with inbox := s.fab.inbox.erase f } }).deliver 24 f else s :=
  if_pos rfl

/-- A frame as it stands behind the link: over a v1 link it stands for the current values (R273). -/
def State.readAt (s : State) (p : Nat) (f : Frame) : Frame := if (s.port p).ver = 1 then s.readV1 f else f

section Receive
variable {s : State} {p : Nat} {f : Frame} (hp : p < 24)
include hp

theorem State.receive_of_refused (hlink : (s.linkRx p f).2 = false) : s.receive p f = (s.linkRx p f).1 := by
  simp [State.receive, Nat.ne_of_lt hp, hlink]

variable (hlink : (s.linkRx p f).2 = true)
include hlink

theorem State.receive_of_reserved (hbad : frameOk ((s.linkRx p f).1.port p) f = false) :
    s.receive p f = (s.linkRx p f).1.dropFrame p f := by
  simp [State.receive, Nat.ne_of_lt hp, hlink, hbad]

theorem State.receive_of_frameOk (hok : frameOk ((s.linkRx p f).1.port p) f = true) :
    s.receive p f =
      let r := (s.linkRx p f).1
      if (r.readAt p f).dst = r.fab.devid then r.deliver p (r.readAt p f) else r.forward p (r.readAt p f) := by
  rw [State.receive, if_neg (Nat.ne_of_lt hp)]
  simp only [hlink, hok, Bool.not_true, Bool.false_eq_true, if_false]
  exact ite_not ..

end Receive

/-! ### Delivery (09_causeway_collectives R272, R276) -/

section Deliver
variable {s : State} {p c : Nat} {f : Frame} (hctx : s.ctxOfJob f.job = some c)
include hctx

theorem State.deliver_of_past (h : f.epoch < s.jobEpoch c) : s.deliver p f = s.staleFrame [c] p f := by
  simp [State.deliver, hctx, h]

theorem State.deliver_of_future (h : s.jobEpoch c < f.epoch) : s.deliver p f = s.holdFrame p f := by
  simp [State.deliver, hctx, h, Nat.not_lt.mpr (Nat.le_of_lt h)]

variable (hepoch : f.epoch = s.jobEpoch c)
include hepoch

theorem State.deliver_of_stranger (h : s.jobMember c f.src = false) : s.deliver p f = s.staleFrame [c] p f := by
  simp [State.deliver, hctx, hepoch, h]

theorem State.deliver_of_member (h : s.jobMember c f.src = true) : s.deliver p f = s.deliverNow c p f := by
  simp [State.deliver, hctx, hepoch, h]

end Deliver

/-! ### Requests of peers (11_memory_tiers R345) -/

section Serve
variable {s : State} {f : Frame} {tag addr total : Nat}

theorem State.serve_of_unlent (write : Bool) (off len : Nat) (h : s.lendAddr f.job addr total = none) :
    s.serve f tag write addr total off len none = s.respond f tag false [] := by
  simp [State.serve, h]

variable {a : Nat} (h : s.lendAddr f.job addr total = some a)
include h

theorem State.serve_write (off len : Nat) : s.serve f tag true addr total off len none =
    (s.dataWrite (a + off) f.payload).respond f tag true [] := by
  simp [State.serve, h]

theorem State.serve_read (off len : Nat) : s.serve f tag false addr total off len none =
    (s.hbmRead (a + off) len).s.respond f tag true (s.hbmRead (a + off) len).bytes := by
  simp [State.serve, h]

end Serve

/-- A request delivered is served once its frame is checked and has left the receive buffer. -/
theorem State.deliverNow_of_request {f : Frame} {tag addr total off len : Nat} {write : Bool}
    {queue : Option (Nat × Bool)} (hty : f.ty = 5) (hmsg : f.msg = some (.request tag write addr total off len queue))
    (s : State) (c p : Nat) : s.deliverNow c p f =
      (((s.checkE2e [c] p f).freeFrame p f).serve f tag write addr total off len queue).afterAccs s := by
  simp [State.deliverNow, State.reqFrame, hty, hmsg]

/-- Settles O36: the link by the frame's number, a frame behind the link by its header, a delivery by its epoch, and a
request by its window. -/
theorem framesAreTakenInOrder : Obligations.FramesAreTakenInOrder := by
  refine ⟨fun s p f hp => ⟨fun x hx hty hdeaf => ?deaf, fun hhears hbare => ⟨State.linkRx_of_next hhears hbare,
      State.linkRx_of_earlier hhears hbare, State.linkRx_of_gap hhears hbare⟩, fun x hx hty => ?arrives⟩,
    fun s f x hx hty => ?inbox, fun s p f => ⟨fun c hctx => ⟨State.deliver_of_past hctx, State.deliver_of_future hctx,
      State.deliver_of_stranger hctx, State.deliver_of_member hctx⟩,
      fun c tag addr total off len write hty hmsg => ?request⟩⟩
  case deaf =>
    have hlink := State.linkRx_of_not_heard hdeaf
    rw [exec_frameCmds hx hty, State.receive_of_refused hp (congrArg Prod.snd hlink), hlink]
  case arrives =>
    rw [exec_frameCmds hx hty]
    exact ⟨fun hlink => congrArg _ (State.receive_of_refused hp hlink),
      fun hlink hbad => congrArg _ (State.receive_of_reserved hp hlink hbad),
      fun hlink hok => congrArg _ (State.receive_of_frameOk hp hlink hok)⟩
  case inbox => rw [exec_frameCmds hx hty, State.receive_inbox]
  case request =>
    intro s0
    have hserve := State.deliverNow_of_request hty hmsg s c p
    refine ⟨fun hwindow => ?refused, fun a hwindow => ⟨fun hwrite => ?write, fun hread => ?read⟩⟩
    case refused => rw [hserve, State.serve_of_unlent write off len hwindow]
    case write => rw [hserve, hwrite, State.serve_write hwindow]
    case read => rw [hserve, hread, State.serve_read hwindow]

end Sys2Proof.Machine
end

section
/-! Hellos, acknowledgements, resends and retrains of a port, and the arming of a Switchback (O37). -/

namespace Sys2Proof.Machine

/-! ### Hellos and missed beats (09_causeway_collectives R269 to R271; 13_fault_tolerance R394) -/

theorem exec_helloSend_of_beats {s : State} {p : Nat} (hbeats : (s.port p).beats = true) (hok : s.aon.failed = false) :
    exec (.helloSend p) s = .next (s.sendHello p s.helloState) :=
  if_pos (by simp [hbeats, hok])

theorem exec_helloSend_of_failed {s : State} (p : Nat) (hfailed : s.aon.failed = true) :
    exec (.helloSend p) s = .next s :=
  if_neg (by simp [hfailed])

theorem exec_helloRx (p : Nat) (f : Frame) (s : State) : exec (.helloRx p f) s = execHelloRx p f s := rfl

section HelloRx
variable {s : State} {p : Nat} {f : Frame} (hty : f.ty = 0)
include hty

theorem exec_helloRx_of_refused (hlink : (s.linkRx p f).2 = false) :
    exec (.helloRx p f) s = .next (s.linkRx p f).1 := by
  simp [exec_helloRx, execHelloRx, hty, hlink]

variable (hlink : (s.linkRx p f).2 = true)
include hlink

theorem exec_helloRx_of_reserved (hbad : frameOk ((s.linkRx p f).1.port p) f = false) :
    exec (.helloRx p f) s = .next ((s.linkRx p f).1.dropFrame p f) := by
  simp [exec_helloRx, execHelloRx, hty, hlink, hbad]

theorem exec_helloRx_of_frameOk (hok : frameOk ((s.linkRx p f).1.port p) f = true) : exec (.helloRx p f) s =
    .next ((((s.linkRx p f).1.freeFrame p f).checkE2e [] p f).takeHello p f.payload) := by
  simp [exec_helloRx, execHelloRx, hty, hlink, hok]

end HelloRx

/-- A beat missed is counted, and the eighth loses the port. -/
theorem exec_missedBeat_of_up {s : State} {p : Nat} (hst : (s.port p).en.st ≠ .off) (hup : (s.port p).up = true) :
    exec (.missedBeat p) s =
      let s1 := (s.setPort p { s.port p with missed := (s.port p).missed + 1 }).ev 0x064 p []
      .next (if (s.port p).missed + 1 < 8 then s1 else s1.losePort p) :=
  if_neg (by simp [hst, hup])

/-! ### Acknowledgements and resends (09_causeway_collectives R263 to R266) -/

/-- What an ACK or NAK that is heard comes to at the link: it is taken, or discarded for its version. -/
theorem State.bareRx_of_heard {s : State} {p : Nat} {f : Frame} (hbare : f.bare = true)
    (hhears : (s.port p).hears f = true) : s.bareRx p f =
      (if frameOk (s.port p) f then s.linkTake p ((s.port p).take f) else s.dropFrame p f, frameOk (s.port p) f) := by
  cases hok : frameOk (s.port p) f with
  | true => simp [State.bareRx, hok, State.linkRx_of_bare hhears hbare]
  | false => simp [State.bareRx, hok, hhears]

theorem exec_ackRx {f : Frame} (hty : f.ty = 1) (p : Nat) (s : State) :
    exec (.ackRx p f) s = .next (s.bareRx p f).1 := if_pos hty

theorem exec_nakRx {f : Frame} (hty : f.ty = 2) (p : Nat) (s : State) : exec (.nakRx p f) s =
    .next (if (s.bareRx p f).2 then (s.bareRx p f).1.resend p else (s.bareRx p f).1) := if_pos hty

theorem exec_ackSend_of_live {s : State} {p : Nat} (hlive : (s.port p).live = true) :
    exec (.ackSend p) s = .next (s.sendBare p 1) := if_pos hlive

theorem exec_retryTimeout_of_live {s : State} {p : Nat} (hlive : (s.port p).live = true) :
    exec (.retryTimeout p) s = .next (s.resend p) := if_pos hlive

theorem exec_badFcsFrame_of_fabric {p : Nat} (hp : p < 24) (s : State) :
    exec (.badFcsFrame p) s = .next (s.nak p) := if_neg (Nat.ne_of_lt hp)

theorem State.nak_of_live {s : State} {p : Nat} (hlive : (s.port p).live = true) (hfirst : (s.port p).naked = false) :
    s.nak p = (s.setPort p { s.port p with naked := true }).sendBare p 2 := if_neg (by simp [hlive, hfirst])

theorem State.nak_of_naked {s : State} {p : Nat} (hnaked : (s.port p).naked = true) : s.nak p = s :=
  if_pos (by simp [hnaked])

theorem State.port_setPort (s : State) (p q : Nat) (x : Port) :
    (s.setPort p x).port q = if q = p then x else s.port q := Tbl.get_set ..

theorem State.port_congr {s t : State} (h : t.fab = s.fab) (p : Nat) : t.port p = s.port p := by
  simp [State.port, h]

/-- A resend counts at every frame of the replay buffer, and keeps them all. -/
theorem State.resend_replay (s : State) (p : Nat) : ((s.resend p).port p).replay =
    (s.port p).replay.map fun r => { r with resent := r.resent + 1 } := by
  have hemit (l : List Sent) (t : State) : (l.foldl (fun (st : State) r => st.emit (.frame p r.frame)) t).fab = t.fab :=
    foldl_keeps State.fab (fun st r => st.emit_fab _) l t
  unfold State.resend
  dsimp only
  split
  · rw [State.port_congr (hemit ..), State.port_setPort, if_pos rfl]
  · rw [State.port_congr (State.ev_fab ..), State.port_congr (hemit ..), State.port_setPort, if_pos rfl]

/-! ### Retrains (09_causeway_collectives R267) -/

theorem exec_portRetrain_of_due {s : State} {p : Nat} (hlive : (s.port p).live = true)
    (hdue : ∃ r ∈ (s.port p).replay, 8 ≤ r.resent) :
    exec (.portRetrain p) s = .next (s.setPort p { s.port p with retraining := true }) :=
  if_pos (by simpa [hlive] using hdue)

theorem exec_portRetrain_of_not_due {s : State} {p : Nat} (hfew : ∀ r ∈ (s.port p).replay, r.resent < 8) :
    exec (.portRetrain p) s = .next s :=
  if_neg (by simpa using fun _ => hfew)

/-- A port whose retrain has ended well: what its peer lacks is to be resent, with its count begun again. -/
def Port.retrained (x : Port) (lack : Nat) : Port :=
  { x with retraining := false, failedRetrains := 0
           replay := (x.replay.filter fun r => !lseqBefore r.frame.lseq lack).map fun r => { r with resent := 0 } }

section RetrainEnd
variable {s : State} {p : Nat} (hretrains : (s.port p).retraining = true) (lack : Nat) (recent : Bool)
include hretrains

theorem exec_portRetrainEnd_of_done : exec (.portRetrainEnd p true lack recent) s =
    .next (((s.setPort p ((s.port p).retrained lack)).ev 0x061 p []).resend p) :=
  if_neg (by simp [hretrains])

theorem exec_portRetrainEnd_of_failed : exec (.portRetrainEnd p false lack recent) s =
    let n := if recent then (s.port p).failedRetrains + 1 else 1
    let s1 := s.setPort p { s.port p with failedRetrains := n }
    .next (if n < 3 then s1 else s1.losePort p) :=
  if_neg (by simp [hretrains])

end RetrainEnd

/-! ### FAB_SWITCH_AT (10_parallel_mapping R327) -/

theorem exec_fabSwitchAtWrite_zero (c : Nat) (s : State) :
    exec (.fabSwitchAtWrite c 0) s = .next (s.setCtx c { s.ctx c with switchAt := 0 }) := rfl

/-- The code with which a Switchback is checked, 0 when it is armed. -/
def State.switchCode (s : State) (c m : Nat) : Nat :=
  if (s.ctx c).job.isNone then 9
  else s.checkMap c (s.ctx c).switchAddr.toNat (s.jobEpoch c + 1) ((s.ctx c).badSwitch m)

theorem exec_fabSwitchAtWrite_of_ne_zero {m : Nat} (hm : m ≠ 0) (c : Nat) (s : State) :
    exec (.fabSwitchAtWrite c m) s = .next (s.setCtx c { s.ctx c with
      smapCode := s.switchCode c m, switchAt := if s.switchCode c m = 0 then m else 0 }) := if_neg hm

/-- Settles O37: each command of a port by its guard, the link for an ACK and a NAK, and FAB_SWITCH_AT by its value. -/
theorem linkUpkeepCompletes : Obligations.LinkUpkeepCompletes := by
  refine ⟨fun s p => ?link, fun s p => ?retrain⟩
  case link =>
    refine ⟨exec_helloSend_of_beats, exec_helloSend_of_failed p, fun f hty => ⟨exec_helloRx_of_refused hty,
      exec_helloRx_of_reserved hty, exec_helloRx_of_frameOk hty⟩, fun hst hup hfew => ?missed, fun hst hup hmany => ?lost,
      fun hlive => ⟨exec_ackSend_of_live hlive, exec_retryTimeout_of_live hlive⟩, fun f hty hhears => ?bare,
      fun hp hlive hfirst => ?nak, fun hp hnaked => ?naked, rfl, s.resend_replay p⟩
    case missed =>
      rw [exec_missedBeat_of_up hst hup]
      exact congrArg _ (if_pos hfew)
    case lost =>
      rw [exec_missedBeat_of_up hst hup]
      exact congrArg _ (if_neg (Nat.not_lt.mpr hmany))
    case bare =>
      have hrx := State.bareRx_of_heard (by simpa [Frame.bare] using hty) hhears
      refine ⟨fun hack => ?_, fun hnak => ?_⟩
      · rw [exec_ackRx hack, hrx]
      · rw [exec_nakRx hnak, hrx]
    case nak => rw [exec_badFcsFrame_of_fabric hp, State.nak_of_live hlive hfirst]
    case naked => rw [exec_badFcsFrame_of_fabric hp, State.nak_of_naked hnaked]
  case retrain =>
    exact ⟨exec_portRetrain_of_due, fun _ => exec_portRetrain_of_not_due,
      fun hretrains lack recent => ⟨(s.port p).retrained lack, exec_portRetrainEnd_of_done hretrains lack recent,
        rfl, rfl, rfl, rfl⟩,
      fun hretrains lack recent => exec_portRetrainEnd_of_failed hretrains lack recent,
      fun c m => ⟨exec_fabSwitchAtWrite_zero c s, fun hm => exec_fabSwitchAtWrite_of_ne_zero hm c s⟩⟩

end Sys2Proof.Machine
end

section
/-! A fetch for use that merges a delta with a bad burst (O34). -/

namespace Sys2Proof.Machine

/-- The record of `pagedRecord` with slot 1 of its master and of its working copy outside the first segment. -/
def fetchedRecord : Bytes := putRec (putRec pagedRecord 32 8 (2 ^ 30)) 48 8 (2 ^ 30 + 16384)

/-- The part of `badDelta` at Milestone 1, with its page FETCHING and its copy read, and with a record of step 0 in the
page's log. The segment of slot 1 is not valid, which only keeps short what the writes come to: the delta is read before
them, and under its codes. -/
def badFetch : State :=
  { badDelta with
    ctxs := [(0, { badDelta.ctx 0 with job := some { mstone := 1 } })]
    hbm := { badDelta.hbm with
      mem := [(128, fetchedRecord), (256, [3]), (264, [1]), (4096 + 8, [1])].foldl
        (fun m (p : Nat × Bytes) => memWriteBytes m p.1 p.2) badDelta.hbm.mem } }

theorem badFetch_tensor : badFetch.tensor 0 1 = some ⟨1, fetchedRecord⟩ := by decide +kernel

theorem badFetch_pageAt : badFetch.pageAt 0 ⟨1, fetchedRecord⟩ 0 =
    some (256, leBytes 8 3 ++ leBytes 8 1 ++ List.replicate 16 0) := by decide +kernel

/-- The merge meets the bad burst in the delta that it reads. -/
theorem corrections_fetchDone_badFetch : corrections (exec (.fetchDone 0 1 0) badFetch) = 1 := by decide +kernel

/-- Refutes O34: the deltas that a fetch for use merges are read under their codes, so a burst of them with one bad bit is
corrected and queued for its write-back (R341); the clause of FETCH_DONE leaves out the codes of what the merge reads. -/
theorem not_waysideCommandsComplete : ¬ Obligations.WaysideCommandsComplete := by
  intro hall
  obtain ⟨-, -, hpages⟩ := hall badFetch 0
  obtain ⟨-, -, hfetched, -⟩ := hpages 1 0 _ _ badFetch_tensor badFetch_pageAt
  have hsays := congrArg corrections (hfetched (by decide) (by decide) (by decide) (by decide))
  rw [corrections_fetchDone_badFetch] at hsays
  exact absurd hsays (by decide +kernel)

end Sys2Proof.Machine
end

section
/-! Model bundles: a replacement armed, verified, loaded chunk by chunk, read again and aborted (O35). -/

namespace Sys2Proof.Machine

/-! ### A write of the bundle's Milestone (11_memory_tiers R354, R365) -/

theorem exec_hbmBundleAtWrite_of_step {s : State} {c : Nat} (m : Nat) (hstep : (s.ctx c).bundle.step ≠ none) :
    exec (.hbmBundleAtWrite c m) s = .next s :=
  if_pos (Option.isSome_iff_ne_none.mpr hstep)

theorem exec_hbmBundleAtWrite_of_none {s : State} {c : Nat} (m : Nat) (hnone : (s.ctx c).bundle.step = none) :
    exec (.hbmBundleAtWrite c m) s =
      if m = 0 then .next (s.setCtx c { s.ctx c with bundleAt := 0, bundle := {} })
      else if m ≤ (s.ctx c).mstone ∨ (s.ctx c).bundleAddr.toNat % 64 ≠ 0 ∨ (s.ctx c).switchAt = m then
        .next (s.setCtx c { s.ctx c with bundleAt := 0, bundle := { code := 1 } })
      else .next (s.setCtx c { s.ctx c with bundleAt := m, bundle := { st := 1 } }) :=
  if_neg (by simp [hnone])

/-! ### Verification (11_memory_tiers R353, R357) -/

/-- The code with which verification fails, 0 when the bundle is verified. -/
def State.verifyCode (s : State) (c : Nat) : Nat :=
  if !s.manifestOk c then 2 else if !s.keyTrusted c then 3 else if !s.sigOk c then 4 else 0

theorem exec_bundleVerify (c : Nat) (s : State) : exec (.bundleVerify c) s = execBundleVerify c s := rfl

section Verify

variable {s : State} {c n : Nat} (hstep : (s.ctx c).bundle.step = some n) (hst : (s.ctx c).bundle.st = 2)
include hstep hst

theorem exec_bundleVerify_of_verified (hcode : s.verifyCode c = 0) :
    exec (.bundleVerify c) s =
      .next ((s.setBundle c { (s.ctx c).bundle with st := 3, verified := true }).goOn c n) := by
  simp only [exec_bundleVerify, execBundleVerify, hstep]
  exact (if_neg (not_not_intro hst)).trans (if_neg (not_not_intro hcode))

theorem exec_bundleVerify_of_failed {k : Nat} (hcode : s.verifyCode c = k + 1) :
    exec (.bundleVerify c) s = .next (s.setBundle c { (s.ctx c).bundle with st := 5, code := k + 1 }) := by
  have hfails : s.verifyCode c ≠ 0 := hcode ▸ k.succ_ne_zero
  rw [← hcode]
  simp only [exec_bundleVerify, execBundleVerify, hstep]
  exact (if_neg (not_not_intro hst)).trans (if_pos hfails)

end Verify

/-! ### Chunks (11_memory_tiers R355) -/

/-- What a chunk's pass over staging reads. -/
def State.readChunk (s : State) (c : Nat) (ch : Bytes) : Rd :=
  (s.ctxRead c (s.mfStage c + chDoff ch) (16384 * chNfrag ch)).getD ⟨s, [], false⟩

/-- A chunk's held fragments written into slot b in the pass that reads it. -/
def State.loadChunk (s : State) (c n : Nat) (y : Tensor) (ch : Bytes) : State :=
  (s.chunkHeld c y ch).foldl (fun st h => st.writeFragment c (st.unitOf c y h.2.2) y h.2.1 h.2.2 ((n + 1) % 2) n
    (fragCodes (sliceB (s.readChunk c ch).bytes (16384 * h.1) 16384))) (s.readChunk c ch).s

/-- The pages of a chunk's held fragments that are away asked for. -/
def State.askChunk (s : State) (c : Nat) (y : Tensor) (ch : Bytes) : State :=
  (s.chunkHeld c y ch).foldl (fun st h =>
    if st.atHome c y h.2.2 then st else st.askFetch c y (y.pageOf h.2.2) false) s

theorem exec_chunkHashed (c : Nat) (s : State) : exec (.chunkHashed c) s = execChunkHashed c s := rfl

theorem exec_chunkHashed_of_due {s : State} {c n : Nat} {y : Tensor} (hstep : (s.ctx c).bundle.step = some n)
    (hst : (s.ctx c).bundle.st = 3) (hdue : (s.ctx c).bundle.done < mfChunks (s.mfHdr c))
    (hy : s.tensor c (chTid (s.mfChunk c (s.ctx c).bundle.done)) = some y)
    (hheld : s.chunkHeld c y (s.mfChunk c (s.ctx c).bundle.done) ≠ []) :
    let b := (s.ctx c).bundle
    let ch := s.mfChunk c b.done
    exec (.chunkHashed c) s =
      if (s.chunkHeld c y ch).any fun h => !s.atHome c y h.2.2 then .next (s.askChunk c y ch)
      else if sha3_512 (s.readChunk c ch).bytes ≠ chDigest ch then
        .next ((s.loadChunk c n y ch).setBundle c { b with st := 5, code := 5, chunk := b.done })
      else .next (((s.loadChunk c n y ch).setBundle c { b with done := b.done + 1 }).goOn c n) := by
  have hgo : ¬ ((s.ctx c).bundle.st ≠ 3 ∨ (s.chunkHeld c y (s.mfChunk c (s.ctx c).bundle.done)).isEmpty ∨
      mfChunks (s.mfHdr c) ≤ (s.ctx c).bundle.done) := by
    rintro (h | h | h)
    · exact h hst
    · exact hheld (List.isEmpty_iff.mp h)
    · exact absurd hdue (Nat.not_lt.mpr h)
  simp only [exec_chunkHashed, execChunkHashed, hstep, hy]
  exact if_neg hgo

/-! ### RETRY and ABORT (11_memory_tiers R357) -/

theorem exec_abort (c : Nat) (s : State) : exec (.abort c) s = execAbort c s := rfl

theorem exec_abort_of_loading {s : State} {c n : Nat} (hstep : (s.ctx c).bundle.step = some n)
    (hst : (s.ctx c).bundle.st = 2 ∨ (s.ctx c).bundle.st = 3 ∨ (s.ctx c).bundle.st = 5) :
    let s1 := (s.jobTensors c).foldl (fun st x =>
      if x.frozen || (x.slotSt ((n + 1) % 2) == 4 && x.tag ((n + 1) % 2) == n + 1) then st else st.carry c n x) s
    exec (.abort c) s = .next (s1.setBundle c { (s1.ctx c).bundle with st := 6 }) := by
  simp only [exec_abort, execAbort, hstep]
  exact if_pos hst

theorem exec_retry_of_digest {s : State} {c : Nat} (hst : (s.ctx c).bundle.st = 5) (hcode : (s.ctx c).bundle.code = 5) :
    exec (.retry c) s = .next (s.setBundle c { (s.ctx c).bundle with st := 3, code := 0, chunk := 0 }) :=
  if_pos ⟨hst, hcode⟩

/-- Settles O35: a write of the Milestone by its guards, verification by its code, a chunk by whether its fragments are at
home and by its digest. -/
theorem bundleCommandsComplete : Obligations.BundleCommandsComplete := by
  intro s c m x b
  refine ⟨exec_hbmBundleAtWrite_of_step m, fun hnone hzero => ?disarmed, fun hnone hlater halign hswitch => ?armed,
    fun hnone hne hbad => ?refused, fun n hstep hst => ?verify, exec_retry_of_digest,
    fun n y hstep hst hdue hy hheld => ?chunk, fun n hstep hst => exec_abort_of_loading hstep hst⟩
  case disarmed => rw [exec_hbmBundleAtWrite_of_none m hnone, if_pos hzero]
  case armed =>
    have hgood : ¬ (m ≤ x.mstone ∨ x.bundleAddr.toNat % 64 ≠ 0 ∨ x.switchAt = m) := by
      rintro (h | h | h)
      · omega
      · exact h halign
      · exact hswitch h
    rw [exec_hbmBundleAtWrite_of_none m hnone, if_neg (Nat.ne_zero_of_lt hlater), if_neg hgood]
  case refused => rw [exec_hbmBundleAtWrite_of_none m hnone, if_neg hne, if_pos hbad]
  case verify =>
    refine ⟨fun hmf hkey hsig => exec_bundleVerify_of_verified hstep hst ?_,
      fun hmf hkey hsig => exec_bundleVerify_of_failed hstep hst ?_,
      fun hmf hkey => exec_bundleVerify_of_failed hstep hst ?_,
      fun hmf => exec_bundleVerify_of_failed hstep hst ?_⟩
    · simp [State.verifyCode, hmf, hkey, hsig]
    · simp [State.verifyCode, hmf, hkey, hsig]
    · simp [State.verifyCode, hmf, hkey]
    · simp [State.verifyCode, hmf]
  case chunk =>
    have hchunk := exec_chunkHashed_of_due hstep hst hdue hy hheld
    refine ⟨fun haway => hchunk.trans (if_pos haway), fun hhome hbad => ?_, fun hhome hgood => ?_⟩
    · exact hchunk.trans ((if_neg (ne_true_of_eq_false hhome)).trans (if_pos hbad))
    · exact hchunk.trans ((if_neg (ne_true_of_eq_false hhome)).trans (if_neg (not_not_intro hgood)))

end Sys2Proof.Machine
end

section
/-! Requests about contexts (O40). -/

namespace Sys2Proof.Machine

/-! ### An accepted request: its answer now or later (14_host_port R436, R440) -/

section Accepted
variable {s : State} {ty : Nat} {m : Ncp} {p : Perm} {lenOk : Bool} {body : State → NcpAct}
  (hacc : NcpAccepts s ty m p) (hlen : lenOk = true)
include hacc hlen

/-- An accepted request whose body answers at once is answered. -/
theorem State.ncp_of_done {t : State} {status : Nat} {payload : Bytes}
    (hbody : body (s.ncpTaken ty m) = .done t status payload) :
    s.ncp ty m p lenOk body = t.replies ty m status payload := by
  rw [hlen, State.ncp_of_accepts hacc, hbody]
  rfl

/-- An accepted request whose body leaves the answer for later is not answered. -/
theorem State.ncp_of_later {t : State} (hbody : body (s.ncpTaken ty m) = .later t) :
    s.ncp ty m p lenOk body = t := by
  rw [hlen, State.ncp_of_accepts hacc, hbody]
  rfl

end Accepted

@[simp] theorem State.ncpTaken_tiles (s : State) (ty : Nat) (m : Ncp) : (s.ncpTaken ty m).tiles = s.tiles := by
  unfold State.ncpTaken; split <;> rfl
@[simp] theorem State.ncpTaken_tile (s : State) (ty : Nat) (m : Ncp) (t : Nat) :
    (s.ncpTaken ty m).tile t = s.tile t := by
  simp [State.tile]
@[simp] theorem State.ncpTaken_ctx (s : State) (ty : Nat) (m : Ncp) (c : Nat) :
    (s.ncpTaken ty m).ctx c = s.ctx c := by
  simp [State.ctx]

/-! ### CTX_SWITCH (12_contexts_scheduling R376) -/

/-- Every tile of a context's map holds the context, or is on loan from it. -/
def State.inPlace (s : State) (c : Nat) : Bool :=
  (s.ctx c).map.all fun t => (s.tile t).resident == some c || (s.tile t).lentFrom == some c

theorem State.inPlace_iff {s : State} {c : Nat} : s.inPlace c = true ↔
    ∀ t ∈ (s.ctx c).map, (s.tile t).resident = some c ∨ (s.tile t).lentFrom = some c := by
  simp [State.inPlace]

theorem State.inPlace_ncpTaken (s : State) (ty : Nat) (m : Ncp) (c : Nat) :
    (s.ncpTaken ty m).inPlace c = s.inPlace c := by
  simp [State.inPlace]

section Switch
variable {s : State} {m : Ncp} (hacc : NcpAccepts s 0x22 m .owner) (hlen : m.payload = [])
  (hkind : (s.ctx m.ctx).kind = 0)
include hacc hlen hkind

theorem exec_ctxSwitch_of_away (haway : s.inPlace m.ctx = false) :
    let t := s.ncpTaken 0x22 m
    exec (.ctxSwitch m) s = .next (State.deferReq { t with ctxBlk := { t.ctxBlk with
      switches := t.ctxBlk.switches.filter (· != m.ctx) ++ [m.ctx] } } 0x22 m) := by
  rw [← State.inPlace_ncpTaken s 0x22 m] at haway
  rw [← State.ncpTaken_ctx s 0x22 m] at hkind
  exact congrArg _ (State.ncp_of_later hacc (by simp [hlen])
    ((if_neg (not_not_intro hkind)).trans (if_neg (ne_true_of_eq_false haway))))

theorem exec_ctxSwitch_of_inPlace (hthere : s.inPlace m.ctx = true) :
    exec (.ctxSwitch m) s = .next ((s.ncpTaken 0x22 m).replies 0x22 m 0 []) := by
  rw [← State.inPlace_ncpTaken s 0x22 m] at hthere
  rw [← State.ncpTaken_ctx s 0x22 m] at hkind
  exact congrArg _ (State.ncp_of_done hacc (by simp [hlen])
    ((if_neg (not_not_intro hkind)).trans (if_pos hthere)))

end Switch

/-- Settles O40: an accepted request comes to what its body does on the state in which its tag is taken, and each body
by its own guards. -/
theorem contextRequestsComplete : Obligations.ContextRequestsComplete := by
  intro s m
  refine ⟨fun hacc hlen => ?create, fun hacc hlen => ?destroy, fun hacc hlen hkind => ?switch,
    fun hacc hlen hnone => ?claim, fun hacc hlen => ?start, fun hacc hlen hsig hn => ?doorbell,
    fun hacc hlen hi hsig hflags hv => ?watch⟩
  case create => exact congrArg _ (State.ncp_of_done hacc (by simp [hlen]) rfl)
  case destroy => exact congrArg _ (State.ncp_of_later hacc (by simp [hlen]) (by rfl))
  case switch =>
    refine ⟨fun haway => exec_ctxSwitch_of_away hacc hlen hkind ?_,
      fun hthere => exec_ctxSwitch_of_inPlace hacc hlen hkind (State.inPlace_iff.mpr hthere)⟩
    obtain ⟨u, hu, hresident, hlent⟩ := haway
    exact Bool.eq_false_iff.mpr fun hthere => (State.inPlace_iff.mp hthere u hu).elim hresident hlent
  case claim =>
    exact congrArg _ (State.ncp_of_done hacc (by simp [hlen]) (if_neg (by simp [hnone])))
  case start =>
    exact ⟨fun hmask => congrArg _ (State.ncp_of_done hacc (by simp [hlen]) (if_neg (Nat.not_le.mpr hmask))),
      fun hmask => congrArg _ (State.ncp_of_done hacc (by simp [hlen]) (if_pos hmask))⟩
  case doorbell =>
    have hform : ¬ (32 ≤ recN m.payload 1 1 ∨ recN m.payload 2 2 = 0) := not_or.mpr ⟨Nat.not_le.mpr hsig, hn⟩
    rw [← State.ncpTaken_ctx s 0x25 m]
    exact ⟨fun hin => congrArg _ (State.ncp_of_done hacc (by simp [hlen])
        ((if_neg hform).trans (if_neg (Nat.not_le.mpr hin)))),
      fun hout => congrArg _ (State.ncp_of_done hacc (by simp [hlen]) ((if_neg hform).trans (if_pos hout)))⟩
  case watch =>
    have hform : ¬ (16 ≤ recN m.payload 0 1 ∨ 32 ≤ recN m.payload 2 1 ∨ 2 ≤ recN m.payload 3 1) := by omega
    rw [← State.ncpTaken_ctx s 0x26 m] at hv
    exact congrArg _ (State.ncp_of_done hacc (by simp [hlen])
      ((if_neg hform).trans (if_neg (Nat.not_le.mpr hv))))

end Sys2Proof.Machine
end

section
/-! Contexts change places: gang switches, lending, evaluations and the preemption limit (O47). -/

namespace Sys2Proof.Machine

/-! ### Gang switches (12_contexts_scheduling R376, R377) -/

/-- No switch asked for before that to `c` shares a tile with it. -/
def State.switchTurn (s : State) (c : Nat) : Bool :=
  (s.ctxBlk.switches.takeWhile (· != c)).all fun b => (s.switchTiles b).all fun t => !(s.switchTiles c).contains t

theorem State.switchTurn_iff {s : State} {c : Nat} : s.switchTurn c = true ↔
    ∀ b ∈ s.ctxBlk.switches.takeWhile (· != c), ∀ t ∈ s.switchTiles b, t ∉ s.switchTiles c := by
  simp [State.switchTurn]

/-- What the command comes to, by whether the switch was asked for and it is its turn. -/
theorem exec_switchExecute (c : Nat) (s : State) : exec (.switchExecute c) s =
    if !s.ctxBlk.switches.contains c || !s.switchTurn c || !(s.ctx c).on || (s.ctx c).ending || !s.mayGang c then
      .next s
    else .next (State.answerLater { s.gang c with ctxBlk := { (s.gang c).ctxBlk with
      switches := (s.gang c).ctxBlk.switches.filter (· != c) } } 0x22 c 0) := rfl

/-- What the command comes to, by whether the switch was asked for and its tiles have reached their points. -/
theorem exec_preemptTimeout (c : Nat) (s : State) : exec (.preemptTimeout c) s =
    if !s.ctxBlk.switches.contains c || s.atPoints c then .next s
    else .next (((((c :: s.outsOf c).foldl State.unyield
      { s with ctxBlk := { s.ctxBlk with switches := s.ctxBlk.switches.filter (· != c) } }).logSwitch 5
      ((s.outsOf c).headD 0) c (Config.freeNat s.free)).ev 0x0A7 0 [c]).answerLater 0x22 c 0x0B) := rfl

/-! ### Layby lending (12_contexts_scheduling R379, R381) -/

theorem exec_laybyLend (t : Nat) (s : State) : exec (.laybyLend t) s = execLaybyLend t s := rfl

theorem exec_laybyReclaim (t : Nat) (s : State) : exec (.laybyReclaim t) s = execLaybyReclaim t s := rfl

/-! ### Evaluations (12_contexts_scheduling R383) -/

/-- Every tile of evaluation `e` is in RUN, not lent, and holds the parent `p` at a preemption point. -/
def State.evalReady (s : State) (e p : Nat) : Bool :=
  (s.ctx e).map.all fun t => (s.tile t).runs && (s.tile t).lentFrom.isNone && (s.tile t).resident == some p
    && s.atPoint p t

theorem State.evalReady_iff {s : State} {e p : Nat} : s.evalReady e p = true ↔
    ∀ t ∈ (s.ctx e).map, (s.tile t).runs = true ∧ (s.tile t).lentFrom = none ∧ (s.tile t).resident = some p ∧
      s.atPoint p t = true := by
  simp [State.evalReady, and_assoc]

/-- What the command comes to, by whether the evaluation is due and its parent's tiles may move. -/
theorem exec_evaluationSwitchIn (e : Nat) (s : State) :
    let x := s.ctx e
    let p := x.parent
    exec (.evaluationSwitchIn e) s =
      if x.kind != 2 || !x.on || x.ending || !s.evalPending p || s.nextEval p != some e || !s.evalReady e p
          || (s.sigs.any fun y => y.ctx == p) then .next s
      else .next ((((x.map.foldl (fun (st : State) t => (st.saveTile p t).loadTile e t) s).stampUp e).logSwitch 3 p e
        (s.switchCycles (x.map.map fun t => (t, [p, e])))).ringHeld e) := rfl

/-- Every queue of a context is idle. -/
def State.queuesIdle (s : State) (c : Nat) : Bool :=
  (List.range (s.ctx c).map.length).all fun v => (List.range 4).all fun q => (s.queue c v q).st == .idle

theorem State.queuesIdle_iff {s : State} {c : Nat} : s.queuesIdle c = true ↔
    ∀ v q, v < (s.ctx c).map.length → q < 4 → (s.queue c v q).st = .idle := by
  simp only [State.queuesIdle, List.all_eq_true, List.mem_range, beq_iff_eq]
  exact ⟨fun h v q hv hq => h v hv q hq, fun h v hv q hq => h v q hv hq⟩

/-- Evaluation `e` may give its tiles back: it has some, none is starting, and nothing of it is on its way. -/
structure EvalMayLeave (s : State) (e : Nat) : Prop where
  kind : (s.ctx e).kind = 2
  switchedIn : ∃ t ∈ (s.ctx e).map, (s.tile t).resident = some e
  awake : ∀ t ∈ (s.ctx e).map, (s.tile t).en.st ≠ .starting
  landed : ∀ f ∈ s.flight, f.ctx ≠ e
  signalled : ∀ y ∈ s.sigs, y.ctx ≠ e

/-- An evaluation that is to end, or whose queues are all idle, gives its tiles back; in the second case its end is
reported (R383). -/
theorem exec_evaluationSwitchOut_of_mayLeave {s : State} {e : Nat} (hleave : EvalMayLeave s e)
    (hended : s.queuesIdle e = true ∨ (s.ctx e).en.st = .stopping) :
    exec (.evaluationSwitchOut e) s =
      if (s.ctx e).en.st == .stopping then .next (((s.evalBack e).endContext e).settleEnding (s.ctx e).parent)
      else .next ((((s.evalBack e).ctxEvent e 7 [1]).endContext e).settleEnding (s.ctx e).parent) := by
  obtain ⟨hkind, hin, hawake, hlanded, hsignalled⟩ := hleave
  have hend : (s.queuesIdle e || (s.ctx e).en.st == .stopping) = true := by simpa using hended
  have hrun : exec (.evaluationSwitchOut e) s = execEvaluationSwitchOut e s := rfl
  rw [hrun]
  refine if_neg ?_
  rw [← State.queuesIdle, hend]
  simpa [hkind] using ⟨⟨⟨hin, hawake⟩, hlanded⟩, hsignalled⟩

/-! ### The preemption limit (12_contexts_scheduling R374) -/

/-- A context that is to end and still has something in flight loses it, and stops (R374). -/
theorem exec_destroyPreemptionLimit_of_busy {s : State} {c : Nat} (hadmitted : s.isAdmitted c = true)
    (hends : (s.ctx c).ending = true ∨ (s.ctx c).en.st = .stopping) (hbusy : s.drained c = false) :
    ∃ u : State, exec (.destroyPreemptionLimit c) s = .next (State.stopContext { u with
      flight := u.flight.filter fun f => f.ctx != c
      sigs := u.sigs.filter fun y => y.ctx != c
      remotes := u.remotes.filter fun r => r.ctx != c } c) := by
  have hends' : ((s.ctx c).ending || (s.ctx c).en.st == .stopping) = true := by simpa using hends
  exact ⟨_, if_neg (by simp [hadmitted, hends', hbusy])⟩

/-- Settles O47: each command acts where every part of its guard holds; a context past the preemption limit keeps only
what is of other contexts. -/
theorem contextSwitchesComplete : Obligations.ContextSwitchesComplete := by
  intro s
  refine ⟨fun c hasked hturn hon hstays hgang => ?executed, fun c hasked hlate => ?cancelled,
    fun c hpoints => ?atPoints, fun c hnot => ?notAsked, ?lent, ?reclaimed, ?switchedIn, ?switchedOut,
    fun c hadmitted hends hbusy => ?limit⟩
  case executed =>
    have hturn' : s.switchTurn c = true := State.switchTurn_iff.mpr hturn
    rw [exec_switchExecute, if_neg]
    simp [hasked, hturn', hon, hstays, hgang]
  case cancelled =>
    rw [exec_preemptTimeout, if_neg]
    simp [hasked, hlate]
  case atPoints =>
    rw [exec_preemptTimeout, if_pos]
    simp [hpoints]
  case notAsked =>
    rw [exec_switchExecute, exec_preemptTimeout]
    exact ⟨if_pos (by simp [hnot]), if_pos (by simp [hnot])⟩
  case lent =>
    refine fun t p v hresident hv hkind hown hen hon hstays hlayby hmap hnone hgang hruns hstalled hpoint hsigs
      hlives => ?_
    simp only [exec_laybyLend, execLaybyLend, hresident, hv, Option.getD_some]
    exact if_neg (by simpa [hkind, hown, hen, hon, hstays, hlayby, hmap, hnone, hgang, hruns, hstalled, hpoint, hlives]
      using hsigs)
  case reclaimed =>
    intro t p l hlent hresident hawake hdue hdone
    simp only [exec_laybyReclaim, execLaybyReclaim, hlent, hresident]
    exact if_neg (by simp [hawake, hdue, hdone])
  case switchedIn =>
    refine fun e hkind hon hstays hpending hnext hsigs htiles => ?_
    have hready : s.evalReady e (s.ctx e).parent = true := State.evalReady_iff.mpr htiles
    rw [exec_evaluationSwitchIn, if_neg]
    simpa [hkind, hon, hstays, hpending, hnext, hready] using hsigs
  case switchedOut =>
    refine fun e hkind hin hawake hlanded hsignalled => ?_
    have hleave : EvalMayLeave s e := ⟨hkind, hin, hawake, hlanded, hsignalled⟩
    refine ⟨fun hstop => ?_, fun hgoes hidle => ?_⟩
    · exact (exec_evaluationSwitchOut_of_mayLeave hleave (.inr hstop)).trans (if_pos (by simpa using hstop))
    · exact (exec_evaluationSwitchOut_of_mayLeave hleave (.inl (State.queuesIdle_iff.mpr hidle))).trans
        (if_neg (by simpa using hgoes))
  case limit =>
    obtain ⟨u, hrun⟩ := exec_destroyPreemptionLimit_of_busy hadmitted hends hbusy
    exact ⟨_, hrun, fun f hf => by simpa using (List.mem_filter.mp hf).2,
      fun y hy => by simpa using (List.mem_filter.mp hy).2, fun r hr => by simpa using (List.mem_filter.mp hr).2⟩

end Sys2Proof.Machine
end

section
/-! A step runs the command at the front of the queue (O1). -/

namespace Sys2Proof.Machine

theorem step_of_cons {s : State} {c : Instr} {rest : List Instr} (h : s.pending = c :: rest) :
    step s = exec c { s with pending := rest } := by
  simp only [step, h]

theorem step_of_nil {s : State} (h : s.pending = []) : step s = .next s := by
  simp only [step, h]

/-- Settles O1: a step by whether a command waits. -/
theorem stepRunsFrontCommand : Obligations.StepRunsFrontCommand :=
  ⟨fun _ _ _ => step_of_cons, fun _ => step_of_nil⟩

end Sys2Proof.Machine
end

section
/-! How a request is received (O39). -/

namespace Sys2Proof.Machine

/-! ### A request before it acts (14_host_port R434 to R436, Table 14.5) -/

theorem State.ncp_of_forged {s : State} {ty : Nat} {m : Ncp} (hserved : s.ncpServed = true)
    (hforged : s.authentic ty m = false) (p : Perm) (lenOk : Bool) (body : State → NcpAct) :
    s.ncp ty m p lenOk body = s.authDiscard := by
  simp [State.ncp, hserved, hforged]

section Authentic
variable {s : State} {ty : Nat} {m : Ncp} (hserved : s.ncpServed = true) (hauth : s.authentic ty m = true)
include hserved hauth

/-- A tag seen before, of a type that lets the part sleep, gets its answer again. -/
theorem State.ncp_of_repeated {r : Reply} (hasleep : wakesDeep ty = false)
    (hseen : (s.slot m.slot).cache.find? (fun e => e.1 == m.tag) = some (m.tag, some r))
    (p : Perm) (lenOk : Bool) (body : State → NcpAct) :
    s.ncp ty m p lenOk body =
      (State.ev { s with host := { s.host with dup := satInc 16 s.host.dup } } 0x0AE 0 []).sendReply m.slot r := by
  simp [State.ncp, hserved, hauth, hasleep, hseen]

theorem State.ncp_of_stale (hasleep : wakesDeep ty = false)
    (hnew : (s.slot m.slot).cache.find? (fun e => e.1 == m.tag) = none)
    (hout : m.tag ≤ (s.slot m.slot).high ∨ (s.slot m.slot).high + 64 < m.tag)
    (p : Perm) (lenOk : Bool) (body : State → NcpAct) :
    s.ncp ty m p lenOk body = s.sendReply m.slot { ty := ty, tag := m.tag, status := 8, ctx := m.ctx, payload := [] } := by
  have hwindow : ¬ ((s.slot m.slot).high < m.tag ∧ m.tag ≤ (s.slot m.slot).high + 64) := by omega
  simp [State.ncp, hserved, hauth, hasleep, hnew, hwindow]

/-- A request whose tag is in the window acts on the state in which its tag is taken. -/
theorem State.ncp_of_inWindow (hnew : (s.slot m.slot).cache.find? (fun e => e.1 == m.tag) = none)
    (hlow : (s.slot m.slot).high < m.tag) (hhigh : m.tag ≤ (s.slot m.slot).high + 64)
    (p : Perm) (lenOk : Bool) (body : State → NcpAct) :
    s.ncp ty m p lenOk body = State.ncpFinish ty m ((s.ncpTaken ty m).ncpAct ty m p lenOk body) := by
  have hslot : (if wakesDeep ty = true then s.wakeDeep else s).slot m.slot = s.slot m.slot := by split <;> rfl
  simp [State.ncp, State.ncpTaken, hserved, hauth, hslot, hnew, hlow, hhigh]

end Authentic

@[simp] theorem State.romServes_ncpTaken (s : State) (ty : Nat) (m : Ncp) :
    (s.ncpTaken ty m).romServes = s.romServes := by
  simp [State.romServes]

/-- A request of a wrong form does not act. -/
theorem State.ncpAct_of_badForm {s : State} {ty : Nat} {m : Ncp} {lenOk : Bool} (hrom : s.romServes = false)
    (hbad : m.ver ≠ 1 ∨ m.flags ≠ 0 ∨ m.status ≠ 0 ∨ 64 ≤ m.ctx ∨ lenOk = false) (p : Perm) (body : State → NcpAct) :
    s.ncpAct ty m p lenOk body = .done s 4 [] := by
  have hform : m.ver ≠ 1 ∨ m.flags ≠ 0 ∨ m.status ≠ 0 ∨ 64 ≤ m.ctx ∨ !lenOk ∨ (fwType ty && !s.romServes) := by
    simp only [Bool.not_eq_true']
    tauto
  unfold State.ncpAct
  rw [hrom, if_neg (by simp), ← hrom]
  exact if_pos hform

/-- A request of a session that lacks the permission of its type is answered with the status of what it lacks. -/
theorem State.ncp_of_denied {s : State} {ty : Nat} {m : Ncp} {p : Perm} {st : Nat}
    (hsession : NcpAccepts s ty m .session) (hdenied : s.permStatus p m = st) (hst : st ≠ 0) (body : State → NcpAct) :
    s.ncp ty m p true body = (s.ncpTaken ty m).replies ty m st [] := by
  obtain ⟨hserved, hauth, hnew, ⟨hlow, hhigh⟩, ⟨hver, hflags, hstatus, hctx⟩, hstage, -⟩ := hsession
  have hact : (s.ncpTaken ty m).ncpAct ty m p true body = .done (s.ncpTaken ty m) st [] := by
    unfold State.ncpAct
    simp only [State.romServes_ncpTaken, State.permStatus_taken, hdenied, hstage, hver, hflags, hstatus]
    simp [Nat.not_le.mpr hctx, hst]
  rw [State.ncp_of_inWindow hserved hauth hnew hlow hhigh, hact]
  rfl

/-! ### What an owner's request lacks (12_contexts_scheduling R368; 14_host_port Table 14.4) -/

theorem State.permStatus_owner_of_absent {s : State} {m : Ncp} (hattached : (s.slot m.slot).st = 2)
    (habsent : s.isAdmitted m.ctx = false) : s.permStatus .owner m = 9 := by
  simp [State.permStatus, hattached, habsent]

theorem State.permStatus_owner_of_stranger {s : State} {m : Ncp} (hattached : (s.slot m.slot).st = 2)
    (hadmitted : s.isAdmitted m.ctx = true) (hother : (s.ctx m.ctx).owner ≠ some m.slot)
    (hplain : (s.slot m.slot).admin = false) : s.permStatus .owner m = 3 := by
  simp [State.permStatus, hattached, hadmitted, hother, hplain]

/-- Settles O39: a request by whether it verifies, by its tag, by its form and by what it lacks. -/
theorem requestsAreChecked : Obligations.RequestsAreChecked := by
  intro s m hserved x
  refine ⟨fun ty hty hforged => ?discard, fun hforged => ?forged, fun hauth => ⟨fun r hseen => ?repeated,
    fun hnew hout => ?stale, fun hnew hlow hhigh hrom hbad => ?badForm⟩, fun hacc hlen => ?accepted,
    fun hsession hlen hattached => ⟨fun habsent => ?absent, fun hadmitted hother hplain => ?stranger⟩⟩
  case discard =>
    have hrun : exec (.ncpAuthDiscard ty m) s = execNcpAuthDiscard ty m s := rfl
    simp [hrun, execNcpAuthDiscard, hserved, hty, hforged]
  case forged => exact congrArg _ (State.ncp_of_forged hserved hforged ..)
  case repeated => exact congrArg _ (State.ncp_of_repeated hserved hauth (by decide) hseen ..)
  case stale => exact congrArg _ (State.ncp_of_stale hserved hauth (by decide) hnew hout ..)
  case badForm =>
    have hform : m.ver ≠ 1 ∨ m.flags ≠ 0 ∨ m.status ≠ 0 ∨ 64 ≤ m.ctx ∨ (m.payload.length == 0) = false := by
      simpa using hbad
    have hact := State.ncpAct_of_badForm (s := s.ncpTaken 0x04 m) (ty := 0x04)
      ((State.romServes_ncpTaken ..).trans hrom) hform .attached fun st => .done st 0 []
    exact congrArg _ ((State.ncp_of_inWindow hserved hauth hnew hlow hhigh ..).trans (congrArg _ hact))
  case accepted => exact congrArg _ (State.ncp_of_done hacc (by simp [hlen]) rfl)
  case absent =>
    exact congrArg _ ((congrArg (s.ncp 0x24 m .owner · _) (by simp [hlen])).trans
      (State.ncp_of_denied hsession (State.permStatus_owner_of_absent hattached habsent) (by decide) _))
  case stranger =>
    exact congrArg _ ((congrArg (s.ncp 0x24 m .owner · _) (by simp [hlen])).trans
      (State.ncp_of_denied hsession (State.permStatus_owner_of_stranger hattached hadmitted hother hplain) (by decide) _))

end Sys2Proof.Machine
end

section
/-! Requests about slots, queue pairs, regions, mappings and registers (O41). -/

namespace Sys2Proof.Machine

/-! ### What taking a tag leaves of the host port (14_host_port R435) -/

section Taken
variable (s : State) (ty : Nat) (m : Ncp)

@[simp] theorem State.ncpTaken_qps : (s.ncpTaken ty m).host.qps = s.host.qps := by
  unfold State.ncpTaken; split <;> rfl
@[simp] theorem State.ncpTaken_regions : (s.ncpTaken ty m).host.regions = s.host.regions := by
  unfold State.ncpTaken; split <;> rfl
@[simp] theorem State.ncpTaken_maps : (s.ncpTaken ty m).host.maps = s.host.maps := by
  unfold State.ncpTaken; split <;> rfl
@[simp] theorem State.qp_ncpTaken (n : Nat) : (s.ncpTaken ty m).qp n = s.qp n := by simp [State.qp]
@[simp] theorem State.region_ncpTaken (h : Nat) : (s.ncpTaken ty m).region h = s.region h := by simp [State.region]
@[simp] theorem State.isAdmitted_ncpTaken (c : Nat) : (s.ncpTaken ty m).isAdmitted c = s.isAdmitted c := by
  simp [State.isAdmitted]
@[simp] theorem State.segsMeet_ncpTaken (base len : Nat) :
    (s.ncpTaken ty m).segsMeet base len = s.segsMeet base len := by
  have hadmitted : (s.ncpTaken ty m).isAdmitted = s.isAdmitted := funext (s.isAdmitted_ncpTaken ty m)
  simp [State.segsMeet, hadmitted]
@[simp] theorem State.admin_ncpTaken : ((s.ncpTaken ty m).slot m.slot).admin = (s.slot m.slot).admin := by
  rw [State.ncpTaken_slot]

end Taken

/-! ### Numbers that the part picks (14_host_port R443) -/

theorem pickUnused_lt (used : Nat → Bool) (start n : Nat) {bound : Nat} (hpos : 0 < bound) :
    pickUnused used start bound n < bound := by
  unfold pickUnused
  rcases hfind : ((List.range n).map fun i => (start + i) % bound).find? fun k => !used k with _ | k
  · exact Nat.mod_lt _ hpos
  · obtain ⟨i, -, hi⟩ := List.mem_map.mp (List.mem_of_find?_eq_some hfind)
    exact hi ▸ Nat.mod_lt _ hpos

/-! ### The requests (14_host_port R438 to R445) -/

section QueuePairs
variable {s : State} {m : Ncp}

/-- The queue pair that QP_OPEN opens, with its starting PSN. -/
def newQp (m : Ncp) (psn : Nat) : Qp :=
  { slot := m.slot, peerQpn := recN m.payload 0 4 % 2 ^ 24, gid := recN m.payload 8 16, mtu := recN m.payload 24 1
    txPsn := psn, rxPsn := recN m.payload 4 4 % 2 ^ 24 }

/-- The region that REGION_ADD adds. -/
def newRegion (m : Ncp) : Region :=
  { slot := m.slot, qpn := recN m.payload 0 4, rkey := recN m.payload 4 4, base := recN m.payload 8 8
    len := recN m.payload 16 8, access := recN m.payload 24 1 }

/-- The mapping that HBM_MAP makes, with whether its addresses meet a segment. -/
def newMap (m : Ncp) (meet : Bool) : HbmMap :=
  { slot := m.slot, staging := recN m.payload 0 1 == 1, ctx := m.ctx, base := recN m.payload 1 8
    len := recN m.payload 9 8, isOpen := recN m.payload 0 1 == 0 || !meet }

/-- QP_OPEN of a legal MTU with room for a queue pair (R443). -/
theorem exec_qpOpen_of_room (hacc : NcpAccepts s 0x30 m .attached) (hlen : m.payload.length = 25)
    (hmtu : 3 ≤ recN m.payload 24 1 ∧ recN m.payload 24 1 ≤ 5) (hroom : s.host.qps.length < 512) :
    ∃ (n psn : Nat) (t : State), n < 2 ^ 24 ∧ psn < 2 ^ 24 ∧ t.host.qps = s.host.qps ∧
      exec (.qpOpen m) s = .next ((t.setQp n (newQp m psn)).replies 0x30 m 0 (leBytes 4 n ++ leBytes 4 psn)) := by
  let d := (s.ncpTaken 0x30 m).draw
  let e := d.2.draw
  refine ⟨pickUnused (fun k => (e.2.qp k).isSome) d.1 (2 ^ 24) 513, e.1 % 2 ^ 24, e.2, pickUnused_lt _ _ _ (by decide),
    Nat.mod_lt _ (by decide), State.ncpTaken_qps .., congrArg _ (State.ncp_of_done hacc (by simp [hlen]) ?_)⟩
  have hlegal : ¬ (recN m.payload 24 1 < 3 ∨ 5 < recN m.payload 24 1) := by omega
  have hfew : ¬ 512 ≤ (s.ncpTaken 0x30 m).host.qps.length := by simpa using hroom
  exact (if_neg hlegal).trans (if_neg hfew)

theorem exec_qpClose_of_open (hacc : NcpAccepts s 0x31 m .attached) (hlen : m.payload.length = 4) {q : Qp}
    (hq : s.qp (recN m.payload 0 4) = some q) :
    exec (.qpClose m) s = .next (
      if q.slot = m.slot then ((s.ncpTaken 0x31 m).closeQp (recN m.payload 0 4)).replies 0x31 m 0 []
      else (s.ncpTaken 0x31 m).replies 0x31 m 3 []) := by
  have hq' : (s.ncpTaken 0x31 m).qp (recN m.payload 0 4) = some q := (State.qp_ncpTaken ..).trans hq
  split <;> rename_i hslot <;>
    exact congrArg _ (State.ncp_of_done hacc (by simp [hlen]) (by simp only [hq', hslot, if_true, if_false]))

/-- REGION_ADD over a queue pair of the sender with room for a region (R443). -/
theorem exec_regionAdd_of_room (hacc : NcpAccepts s 0x32 m .attached) (hlen : m.payload.length = 25) {q : Qp}
    (hq : s.qp (recN m.payload 0 4) = some q) (haccess : recN m.payload 24 1 < 4) (hown : q.slot = m.slot)
    (hroom : s.host.regions.length < 1024) :
    ∃ h t, 1 ≤ h ∧ h ≤ 65535 ∧ exec (.regionAdd m) s = .next (State.replies t 0x32 m 0 (leBytes 2 h)) ∧
      t.host.regions = Tbl.set s.host.regions h (newRegion m) := by
  let u := s.ncpTaken 0x32 m
  let k := pickUnused (fun k => (Tbl.find u.host.regions (k + 1)).isSome) u.draw.1 65535 1025
  have hk : k < 65535 := pickUnused_lt _ _ _ (by decide)
  have hq' : (s.ncpTaken 0x32 m).qp (recN m.payload 0 4) = some q := (State.qp_ncpTaken ..).trans hq
  have hfew : ¬ 1024 ≤ u.host.regions.length := by simpa [u] using hroom
  refine ⟨k + 1, { u.draw.2 with host := { u.draw.2.host with
      regions := Tbl.set u.draw.2.host.regions (k + 1) (newRegion m) } }, Nat.succ_pos k, hk,
    congrArg _ (State.ncp_of_done hacc (by simp [hlen]) ?_), congrArg (Tbl.set · _ _) (State.ncpTaken_regions ..)⟩
  simp only [hq']
  exact (if_neg (Nat.not_le.mpr haccess)).trans ((if_neg (not_not_intro hown)).trans (if_neg hfew))

theorem exec_regionDel_of_allowed (hacc : NcpAccepts s 0x33 m .attached) (hlen : m.payload.length = 2) {r : Region}
    (hr : s.region (recN m.payload 0 2) = some r) (hallowed : r.slot = m.slot ∨ (s.slot m.slot).admin = true) :
    let t := s.ncpTaken 0x33 m
    exec (.regionDel m) s = .next ((State.settleRegions { t with host := { t.host with
      regions := Tbl.set t.host.regions (recN m.payload 0 2) { r with removing := true } } }).replies 0x33 m 0 []) := by
  have hr' : (s.ncpTaken 0x33 m).region (recN m.payload 0 2) = some r := (State.region_ncpTaken ..).trans hr
  have hgo : ¬ (r.slot ≠ m.slot ∧ !((s.ncpTaken 0x33 m).slot m.slot).admin) := by
    rw [State.admin_ncpTaken]
    rcases hallowed with h | h <;> simp [h]
  refine congrArg _ (State.ncp_of_done hacc (by simp [hlen]) ?_)
  simp only [hr']
  exact if_neg hgo

end QueuePairs

/-- HBM_MAP that is allowed takes an rkey, open unless a staging window meets a segment (R445). -/
theorem exec_hbmMap_of_allowed {s : State} {m : Ncp} (hacc : NcpAccepts s 0x34 m .attached)
    (hlen : m.payload.length = 17) (hallowed : recN m.payload 0 1 = 0 ∧ s.isAdmitted m.ctx = true ∧
      (s.ctx m.ctx).owner = some m.slot ∨ recN m.payload 0 1 = 1 ∧ (s.slot m.slot).admin = true) :
    ∃ k t, k < 2 ^ 32 ∧ exec (.hbmMap m) s = .next (State.replies t 0x34 m 0 (leBytes 4 k)) ∧
      t.host.maps = Tbl.set s.host.maps k (newMap m (s.segsMeet (recN m.payload 1 8) (recN m.payload 9 8))) := by
  let u := s.ncpTaken 0x34 m
  let k := pickUnused (fun j => (Tbl.find u.host.maps j).isSome) u.draw.1 (2 ^ 32) (u.host.maps.length + 1)
  have hk : k < 2 ^ 32 := pickUnused_lt _ _ _ (by decide)
  let w := newMap m (u.segsMeet (recN m.payload 1 8) (recN m.payload 9 8))
  refine ⟨k, { u.draw.2 with host := { u.draw.2.host with maps := Tbl.set u.draw.2.host.maps k w } }, hk,
    congrArg _ (State.ncp_of_done hacc (by simp [hlen]) ?_),
    congrArg₂ (fun maps meet => Tbl.set maps k (newMap m meet)) (State.ncpTaken_maps ..) (State.segsMeet_ncpTaken ..)⟩
  rcases hallowed with ⟨hkind, hadmitted, hown⟩ | ⟨hkind, hadmin⟩
  · exact (if_neg (by omega)).trans ((if_neg (by simp [hadmitted])).trans ((if_neg (by simp [hown])).trans
      (if_neg (by simp [hkind]))))
  · exact (if_neg (by omega)).trans ((if_neg (by simp [hkind])).trans ((if_neg (by simp [hkind])).trans
      (if_neg (by simp [hadmin]))))

/-- Settles O41: an accepted request comes to what its body does on the state in which its tag is taken. -/
theorem slotRequestsComplete : Obligations.SlotRequestsComplete := by
  intro s m
  refine ⟨fun hacc hlen => ?detach, fun hacc hlen => ?ack,
    fun hacc hlen hlow hhigh hroom => exec_qpOpen_of_room hacc hlen ⟨hlow, hhigh⟩ hroom,
    fun hacc hlen q hq => ⟨fun hown => ?closed, fun hother => ?denied⟩,
    fun hacc hlen q hq haccess hown hroom => exec_regionAdd_of_room hacc hlen hq haccess hown hroom,
    fun hacc hlen r hr hallowed => exec_regionDel_of_allowed hacc hlen hr hallowed,
    fun hacc hlen hkind hadmitted hown => ?mapped, fun hacc hlen hkind hadmin => ?staged,
    fun hacc hlen hform hin => ?reads, fun hacc hform hlen hin => ?writes⟩
  case detach => exact congrArg _ (State.ncp_of_later hacc (by simp [hlen]) (by rfl))
  case ack => exact congrArg _ (State.ncp_of_done hacc (by simp [hlen]) rfl)
  case closed => exact (exec_qpClose_of_open hacc hlen hq).trans (congrArg _ (if_pos hown))
  case denied => exact (exec_qpClose_of_open hacc hlen hq).trans (congrArg _ (if_neg hother))
  case mapped => simpa [newMap, hkind] using exec_hbmMap_of_allowed hacc hlen (.inl ⟨hkind, hadmitted, hown⟩)
  case staged => simpa [newMap, hkind] using exec_hbmMap_of_allowed hacc hlen (.inr ⟨hkind, hadmin⟩)
  case reads =>
    exact congrArg _ (State.ncp_of_done hacc (by simp [hlen, hform]) (if_neg (ne_true_of_eq_false hin)))
  case writes =>
    exact congrArg _ (State.ncp_of_done hacc (by simp [hlen, hform]) (if_neg (ne_true_of_eq_false hin)))

end Sys2Proof.Machine
end

section
/-! A session begins, is proven and ends (O42). -/

namespace Sys2Proof.Machine

/-! ### ATTACH (14_host_port R437) -/

theorem exec_attach (m : Ncp) (s : State) : exec (.attach m) s = execAttach m s := rfl

section Attach
variable {s : State} {m : Ncp} (hserved : s.ncpServed = true)
include hserved

theorem exec_attach_of_badHeader (hbad : attachOk m = false) :
    exec (.attach m) s = .next (s.wakeDeep.attachReply m 0xFF 0 4 []) := by
  simp [exec_attach, execAttach, hserved, hbad]

variable (hok : attachOk m = true) (hversions : recN m.payload 0 1 ≤ 1 ∧ 1 ≤ recN m.payload 1 1)
include hok hversions

theorem exec_attach_of_lowest {a : Nat} (ha : a < 8) (hfree : (s.slot a).st = 0)
    (hlowest : ∀ b, b < a → (s.slot b).st ≠ 0) : exec (.attach m) s = .next (s.wakeDeep.attach m a) := by
  have hshared : ¬ (1 < recN m.payload 0 1 ∨ recN m.payload 1 1 = 0) := by omega
  have hfind : (List.range 8).find? (fun a => (s.slot a).st == 0) = some a := by
    rw [List.find?_range_eq_some]
    exact ⟨by simpa using hfree, List.mem_range.mpr ha, fun b hb => by simpa using hlowest b hb⟩
  simp [exec_attach, execAttach, hserved, hok, hshared, hfind]

theorem exec_attach_of_full (hfull : ∀ a, a < 8 → (s.slot a).st ≠ 0) :
    exec (.attach m) s = .next (s.wakeDeep.attachReply m 0xFF 0 6 []) := by
  have hshared : ¬ (1 < recN m.payload 0 1 ∨ recN m.payload 1 1 = 0) := by omega
  have hfind : (List.range 8).find? (fun a => (s.slot a).st == 0) = none := by
    rw [List.find?_range_eq_none]
    exact fun a ha => by simpa using hfull a ha
  simp [exec_attach, execAttach, hserved, hok, hshared, hfind]

end Attach

/-- The slot attached is pending, and the others are as they were. -/
theorem State.slot_attach (s : State) (m : Ncp) (a b : Nat) :
    ((s.attach m a).slot a).st = 1 ∧ (b ≠ a → (s.attach m a).slot b = s.slot b) := by
  constructor
  · simp [State.attach, State.attachReply, State.slot, State.setSlot, State.emit]
  · intro hne
    simp [State.attach, State.attachReply, State.slot, State.setSlot, State.emit, State.freeBytes, State.draw,
      Tbl.get_set_ne _ _ _ hne]

/-! ### AUTH (14_host_port R437) -/

/-- The answer to an AUTH. -/
def State.authReply (s : State) (m : Ncp) (status : Nat) : State :=
  s.answer m.slot { ty := 2, tag := 0, status := status, ctx := m.ctx, payload := [] }

section Auth
variable {s : State} {m : Ncp} (hserved : s.ncpServed = true) (hready : s.sec.stage = 9)
  (hauth : s.authentic 2 m = true) (hform : m.ver = 1 ∧ m.flags = 0 ∧ m.status = 0 ∧ m.ctx < 64 ∧ m.tag = 0)
  (hlen : m.payload.length = 4627) (hpending : (s.slot m.slot).st = 1)
include hserved hready hauth hform hlen hpending

/-- Under a key that a fuse entry accepts, the signature decides. -/
theorem exec_auth_of_accepted {f : AgentFuse} (hf : s.fuses.accepts (s.slot m.slot).agentKey = some f) :
    exec (.auth m) s = .next (if Config.mldsaVerify (s.slot m.slot).agentKey (ascii "ngutas-agent-v1")
        (s.slot m.slot).transcript m.payload
      then (s.wakeDeep.setSlot m.slot { s.slot m.slot with st := 2, admin := f.admin }).authReply m 0
      else (s.wakeDeep.authReply m 7).freeSlot m.slot) := by
  obtain ⟨hver, hflags, hstatus, hctx, htag⟩ := hform
  have hrom : s.wakeDeep.romServes = false := by simp [State.romServes, hready]
  have hf' : s.wakeDeep.fuses.accepts (s.slot m.slot).agentKey = some f := hf
  have hrun : exec (.auth m) s = execAuth m s := rfl
  simp [hrun, execAuth, State.auth, State.authReply, hserved, hauth, hrom, hpending, hver, hflags, hstatus, htag, hlen,
    Nat.not_le.mpr hctx, hf']
  rfl

theorem exec_auth_of_unknown (hnone : s.fuses.accepts (s.slot m.slot).agentKey = none) :
    exec (.auth m) s = .next ((s.wakeDeep.authReply m 7).freeSlot m.slot) := by
  obtain ⟨hver, hflags, hstatus, hctx, htag⟩ := hform
  have hrom : s.wakeDeep.romServes = false := by simp [State.romServes, hready]
  have hnone' : s.wakeDeep.fuses.accepts (s.slot m.slot).agentKey = none := hnone
  have hrun : exec (.auth m) s = execAuth m s := rfl
  simp [hrun, execAuth, State.auth, State.authReply, hserved, hauth, hrom, hpending, hver, hflags, hstatus, htag, hlen,
    Nat.not_le.mpr hctx, hnone']

end Auth

/-! ### Silence and resends (14_host_port R438, R442) -/

theorem exec_agentTimeout_of_used {s : State} {a : Nat} (ha : a < 8) (hused : (s.slot a).st ≠ 0) :
    exec (.agentTimeout a) s = .next (s.freeSlot a) :=
  congrArg _ (if_pos ⟨ha, hused⟩)

theorem exec_eventResend_of_unacknowledged {s : State} {a : Nat} (hserved : s.ncpServed = true)
    (hevents : (s.slot a).events ≠ []) : exec (.eventResend a) s = .next (State.ev ((s.slot a).events.foldl
      (fun (st : State) e => st.emit (.event a e.num e.code e.ctx e.lost e.payload)) s) 0x0AF 0 []
      (s.slot a).events.length) :=
  if_neg (by simp [hserved, hevents])

/-- Settles O42: ATTACH by its header and by whether a slot is free, AUTH by the fuse entry and the signature. -/
theorem sessionsBeginAndEnd : Obligations.SessionsBeginAndEnd := by
  intro s m hserved s0 say
  refine ⟨fun hok hlow hhigh => ⟨fun a ha hfree hlowest => ⟨?taken, ?others⟩, fun hfull => ?full⟩,
    exec_attach_of_badHeader hserved, fun hready hauth hver hflags hstatus hctx htag hlen hpending => ?auth,
    fun a ha hused => exec_agentTimeout_of_used ha hused, fun a => exec_eventResend_of_unacknowledged hserved⟩
  case taken => exact exec_attach_of_lowest hserved hok ⟨hlow, hhigh⟩ ha hfree hlowest
  case others => exact ⟨(s0.slot_attach m a a).1, fun b => (s0.slot_attach m a b).2⟩
  case full => exact exec_attach_of_full hserved hok ⟨hlow, hhigh⟩ hfull
  case auth =>
    have hform : m.ver = 1 ∧ m.flags = 0 ∧ m.status = 0 ∧ m.ctx < 64 ∧ m.tag = 0 :=
      ⟨hver, hflags, hstatus, hctx, htag⟩
    refine ⟨fun f hf => ?_, exec_auth_of_unknown hserved hready hauth hform hlen hpending⟩
    have hrun := exec_auth_of_accepted hserved hready hauth hform hlen hpending hf
    exact ⟨fun hgood => hrun.trans (congrArg _ (if_pos hgood)),
      fun hbad => hrun.trans (congrArg _ (if_neg (ne_true_of_eq_false hbad)))⟩

end Sys2Proof.Machine
end

section
/-! The host link and its addresses (O43). -/

namespace Sys2Proof.Machine

/-! ### The link (14_host_port R429, R450) -/

theorem exec_hostLinkUp_of_ready {s : State} {speed : Nat} (hclocked : s.clocked = true) (hen : s.host.en.st ≠ .off)
    (hpll : s.host.pll = true) (hdown : s.host.link = false)
    (hmode : s.host.runMode = 0 → anModes.contains speed = true) :
    exec (.hostLinkUp speed) s = .next { s with
      host := { s.host with link := true, speed := if s.host.runMode = 0 then speed else s.host.runMode,
                            en := s.host.en.started }
      sec := { s.sec with stage := if s.sec.stage = 3 then 4 else s.sec.stage } } := by
  have hresolved : (s.host.runMode == 0 && !anModes.contains speed) = false := by
    by_cases h : s.host.runMode = 0
    · rw [hmode h, Bool.not_true, Bool.and_false]
    · simp [h]
  exact if_neg (by simp only [hclocked, hpll, hdown, hresolved]; simpa using hen)

/-! ### Addresses (14_host_port R431) -/

theorem exec_duplicateAddressDetectionEnd {s : State} {a : Nat} (ha : s.host.tentative = some a) (dup : Bool) :
    exec (.duplicateAddressDetectionEnd dup) s = .next { s with host := { s.host with
      tentative := none, dadFail := dup, addr := if dup then none else some a } } := by
  have hrun : exec (.duplicateAddressDetectionEnd dup) s = execDuplicateAddressDetectionEnd dup s := rfl
  simp only [hrun, execDuplicateAddressDetectionEnd, ha]

section Asked
variable {s : State} {a : Nat}

/-- What is asked of an address of the part is answered. -/
theorem exec_asked_of_own (hlink : s.host.link = true) (hown : s.ownsAddr a = true) (data : Bytes) :
    exec (.neighbourSolicitation a) s = .next (s.emit (.advert a)) ∧
      exec (.echoRequest a data) s = .next (s.emit (.echoReply a data)) :=
  ⟨congrArg _ (if_pos (by simp [hlink, hown])), congrArg _ (if_pos (by simp [hlink, hown]))⟩

theorem exec_asked_of_foreign (hforeign : s.ownsAddr a = false) (data : Bytes) :
    exec (.neighbourSolicitation a) s = .next s ∧ exec (.echoRequest a data) s = .next s :=
  ⟨congrArg _ (if_neg (by simp [hforeign])), congrArg _ (if_neg (by simp [hforeign]))⟩

end Asked

/-! ### Pauses (14_host_port R430) -/

theorem exec_pfcFrame_of_heeded {s : State} {prio : Nat} (hlink : s.host.link = true)
    (hpfc : bit s.host.runPfc 3 = true) (hprio : fld s.host.runPfc 0 3 = prio) (quanta : Nat) :
    exec (.pfcFrame prio quanta) s = .next (
      if quanta = 0 then s.host.heldTx.foldl (fun (st : State) x => st.emit (.rdma x))
        { s with host := { s.host with paused := false, heldTx := [] } }
      else { s with host := { s.host with paused := true } }) :=
  congrArg _ (if_pos (by simp [hlink, hpfc, hprio]))

theorem exec_pfcFrame_of_other {s : State} {prio : Nat} (hprio : fld s.host.runPfc 0 3 ≠ prio) (quanta : Nat) :
    exec (.pfcFrame prio quanta) s = .next s :=
  congrArg _ (if_neg (by simp [hprio]))

/-- Settles O43: each command of the host link by its guard. -/
theorem hostLinkCommandsComplete : Obligations.HostLinkCommandsComplete := by
  intro s h
  refine ⟨fun speed => exec_hostLinkUp_of_ready, rfl, fun v => rfl,
    fun a ha => ⟨exec_duplicateAddressDetectionEnd ha false, exec_duplicateAddressDetectionEnd ha true⟩,
    fun a data hlink hown => exec_asked_of_own hlink hown data, fun a data hforeign => exec_asked_of_foreign hforeign data,
    fun prio quanta hlink hpfc => ⟨fun hprio hpause => ?paused, fun hprio hgo => ?resumed,
      fun hother => exec_pfcFrame_of_other hother quanta⟩, fun hserved => congrArg _ (if_pos hserved)⟩
  case paused => exact (exec_pfcFrame_of_heeded hlink hpfc hprio quanta).trans (congrArg _ (if_neg hpause))
  case resumed => exact (exec_pfcFrame_of_heeded hlink hpfc hprio quanta).trans (congrArg _ (if_pos hgo))

end Sys2Proof.Machine
end

section
/-! RoCEv2 packets, answers and retransmission (O44). -/

namespace Sys2Proof.Machine

/-! ### Packets (14_host_port R443, R445) -/

theorem exec_rdmaPacketRx (p : Rdma) (s : State) : exec (.rdmaPacketRx p) s = execRdmaPacketRx p s := rfl

section Packet
variable {s : State} {p : Rdma} {q : Qp} (hlink : s.host.link = true) (hready : s.sec.stage = 9)
  (hq : s.qp p.qpn = some q)
include hlink hready hq

/-- A marked request after the next one in order is answered with a congestion notification, and dropped. -/
theorem exec_rdmaPacketRx_of_marked (hecn : p.ecn = true) (hop : p.op = .write ∨ p.op = .read)
    (hne : p.psn ≠ q.rxPsn) (hlater : psnBefore p.psn q.rxPsn = false) :
    exec (.rdmaPacketRx p) s = .next (s.wakeDeep.rdmaAnswer q .cnp 0 []) := by
  rcases hop with h | h <;> simp [exec_rdmaPacketRx, execRdmaPacketRx, hlink, hready, hq, hecn, h, hne, hlater]

variable (hecn : p.ecn = false)
include hecn

theorem exec_rdmaPacketRx_of_cnp (hop : p.op = .cnp) : exec (.rdmaPacketRx p) s =
    .next ((s.wakeDeep.setQp p.qpn { q with rate := q.rate / 2 }).ev 0x0B3 0 []) := by
  simp [exec_rdmaPacketRx, execRdmaPacketRx, hlink, hready, hq, hecn, hop]

theorem exec_rdmaPacketRx_of_answer (hop : p.op = .response ∨ p.op = .ack ∨ p.op = .nakAccess) :
    exec (.rdmaPacketRx p) s = .next (s.wakeDeep.rdmaAnswered p.qpn q p) := by
  rcases hop with h | h | h <;> simp [exec_rdmaPacketRx, execRdmaPacketRx, hlink, hready, hq, hecn, h]

/-- The next request in order moves the expected number on by its packets, and is served. -/
theorem exec_rdmaPacketRx_of_next (hop : p.op = .write ∨ p.op = .read) (hnext : p.psn = q.rxPsn) :
    exec (.rdmaPacketRx p) s = .next ((s.wakeDeep.setQp p.qpn { q with
      rxPsn := (q.rxPsn + rdmaPackets p (mtuBytes q.mtu)) % 2 ^ 24 }).rdmaServe q p false) := by
  rcases hop with h | h <;>
    simp [exec_rdmaPacketRx, execRdmaPacketRx, hlink, hready, hq, hecn, h, hnext, rdmaPackets]

/-- A request out of order is served again when it is an earlier one, and dropped when it is a later one. -/
theorem exec_rdmaPacketRx_of_other (hop : p.op = .write ∨ p.op = .read) (hne : p.psn ≠ q.rxPsn) :
    exec (.rdmaPacketRx p) s =
      .next (if psnBefore p.psn q.rxPsn then s.wakeDeep.rdmaServe q p true else s.wakeDeep) := by
  rcases hop with h | h <;> cases hb : psnBefore p.psn q.rxPsn <;>
    simp [exec_rdmaPacketRx, execRdmaPacketRx, hlink, hready, hq, hecn, h, hne, hb]

end Packet

/-! ### Packets sent (14_host_port R430) -/

theorem State.foldl_rdmaEmit_of_sending (l : List RdmaSent) {s : State} (hsends : s.host.paused = false) :
    l.foldl (fun (st : State) r => st.rdmaEmit r.pkt) s = { s with out := s.out ++ l.map fun r => .rdma r.pkt } := by
  induction l generalizing s with
  | nil => simp
  | cons r l ih =>
    have hemit : s.rdmaEmit r.pkt = s.emit (.rdma r.pkt) := if_neg (ne_true_of_eq_false hsends)
    rw [List.foldl_cons, hemit, ih (s := s.emit (.rdma r.pkt)) hsends]
    simp [State.emit]

theorem State.foldl_rdmaEmit_of_paused (l : List RdmaSent) {s : State} (hpaused : s.host.paused = true) :
    l.foldl (fun (st : State) r => st.rdmaEmit r.pkt) s =
      { s with host := { s.host with heldTx := s.host.heldTx ++ l.map (·.pkt) } } := by
  induction l generalizing s with
  | nil => simp
  | cons r l ih =>
    have hwait : s.rdmaEmit r.pkt = { s with host := { s.host with heldTx := s.host.heldTx ++ [r.pkt] } } :=
      if_pos hpaused
    rw [List.foldl_cons, hwait, ih (s := { s with host := { s.host with heldTx := s.host.heldTx ++ [r.pkt] } }) hpaused]
    simp

/-! ### Requests not answered (14_host_port R444) -/

/-- A request sent once more. -/
def RdmaSent.again (r : RdmaSent) : RdmaSent := { r with retries := r.retries + 1 }

theorem exec_roceRetransmitTimeout (n : Nat) (s : State) :
    exec (.roceRetransmitTimeout n) s = execRoceRetransmitTimeout n s := rfl

section Timeout
variable {s : State} {n : Nat} {q : Qp} (hlink : s.host.link = true) (hq : s.qp n = some q)
include hlink hq

theorem exec_roceRetransmitTimeout_of_few (hsent : q.sent ≠ []) (hfew : ∀ r ∈ q.sent, r.retries < 7) :
    exec (.roceRetransmitTimeout n) s =
      .next (((q.sent.foldl (fun (st : State) r => st.rdmaEmit r.pkt) s).setQp n
        { q with sent := q.sent.map RdmaSent.again }).ev 0x0B2 0 [] q.sent.length) := by
  have hlive : (q.sent.any fun r => decide (7 ≤ r.retries)) = false := by
    rw [List.any_eq_false]
    exact fun r hr => by simpa using hfew r hr
  simp only [exec_roceRetransmitTimeout, execRoceRetransmitTimeout, hq, hlink, hlive]
  exact (if_neg (by simp [hsent])).trans (if_neg Bool.false_ne_true)

theorem exec_roceRetransmitTimeout_of_many (hmany : ∃ r ∈ q.sent, 7 ≤ r.retries) :
    exec (.roceRetransmitTimeout n) s = .next ((q.sent.foldl
      (fun (st : State) r => st.answerRemote r.tag false []) s).setQp n { q with sent := [] }) := by
  have hdead : (q.sent.any fun r => decide (7 ≤ r.retries)) = true := by simpa using hmany
  obtain ⟨r, hr, -⟩ := hmany
  simp only [exec_roceRetransmitTimeout, execRoceRetransmitTimeout, hq, hlink, hdead]
  exact (if_neg (by simp [List.ne_nil_of_mem hr])).trans (if_pos trivial)

end Timeout

@[simp] theorem State.qp_setQp_self (s : State) (n : Nat) (q : Qp) : (s.setQp n q).qp n = some q := by
  simp [State.qp, State.setQp, Tbl.find_set]

@[simp] theorem State.qp_ev (s : State) (e u : Nat) (l : List Nat) (k n : Nat) : (s.ev e u l k).qp n = s.qp n := by
  simp [State.qp]

theorem exec_roceRateRecovery_of_open {s : State} {n : Nat} {q : Qp} (hq : s.qp n = some q) :
    exec (.roceRateRecovery n) s = .next (s.setQp n { q with rate := min 65536 (q.rate + 4096) }) := by
  have hrun : exec (.roceRateRecovery n) s = execRoceRateRecovery n s := rfl
  simp only [hrun, execRoceRateRecovery, hq]

/-- Settles O44: a packet by its kind and its place in the order, a timeout by the retries so far. -/
theorem rdmaCompletes : Obligations.RdmaCompletes := by
  intro s p q hlink hready hq s0
  refine ⟨exec_rdmaPacketRx_of_marked hlink hready hq, exec_rdmaPacketRx_of_cnp hlink hready hq,
    exec_rdmaPacketRx_of_answer hlink hready hq, fun hecn hop hnext => ?write,
    fun hecn hop hnext => exec_rdmaPacketRx_of_next hlink hready hq hecn (.inr hop) hnext,
    fun hecn hop hne => ⟨fun hearlier => ?earlier, fun hlater => ?later⟩,
    fun hsent hfew hsends => ?resent, fun hsent hfew hpaused => ?held,
    exec_roceRetransmitTimeout_of_many hlink hq, exec_roceRateRecovery_of_open hq⟩
  case write =>
    have hone : rdmaPackets p (mtuBytes q.mtu) = 1 := by simp [rdmaPackets, hop]
    exact hone ▸ exec_rdmaPacketRx_of_next hlink hready hq hecn (.inl hop) hnext
  case earlier =>
    exact (exec_rdmaPacketRx_of_other hlink hready hq hecn hop hne).trans (congrArg _ (if_pos hearlier))
  case later =>
    exact (exec_rdmaPacketRx_of_other hlink hready hq hecn hop hne).trans
      (congrArg _ (if_neg (ne_true_of_eq_false hlater)))
  case resent =>
    refine ⟨_, exec_roceRetransmitTimeout_of_few hlink hq hsent hfew, ?_, ?_⟩
    · rw [State.qp_ev, State.qp_setQp_self]
      rfl
    · rw [State.foldl_rdmaEmit_of_sending _ hsends, State.ev_out]
      rfl
  case held =>
    refine ⟨_, exec_roceRetransmitTimeout_of_few hlink hq hsent hfew, ?_, ?_, ?_⟩
    · rw [State.qp_ev, State.qp_setQp_self]
      rfl
    · rw [State.foldl_rdmaEmit_of_paused _ hpaused, State.ev_out]
      rfl
    · rw [State.foldl_rdmaEmit_of_paused _ hpaused, State.ev_host]
      rfl

end Sys2Proof.Machine
end

section
/-! The boot, firmware offers and attestation (O45). -/

namespace Sys2Proof.Machine

/-! ### The ROM starts (15_boot_security R451) -/

theorem exec_bootStart_of_ready {s : State} (lands : Nat) (hpower : s.pmc.aon = true ∧ s.pmc.powered = true)
    (hlevel : s.pmc.resetLevel = true) (htrip : s.pmc.trip = false) (hstage : s.sec.stage = 0)
    (hfree : jtagHolds s.tst.ir = false) :
    ∃ t, exec (.bootStart lands) s = .next t ∧ t.sec.stage = s.fuses.bootStage ∧ t.pmc.rst.accepted = true ∧
      t.pmc.stopped = false ∧ t.fuses = s.fuses ∧ t.host.mode = (if lands % 8 = 7 then 0 else lands % 8) ∧
      t.sec.bootSvn = s.fuses.svn := by
  obtain ⟨haon, hpowered⟩ := hpower
  have hrun : exec (.bootStart lands) s = execBootStart lands s := rfl
  have hgo : ¬ ((!s.pmc.aon || !s.pmc.powered || !s.pmc.resetLevel || s.pmc.trip || s.sec.stage ≠ 0 ||
      jtagHolds s.tst.ir) = true) := by
    simp [haon, hpowered, hlevel, htrip, hstage, hfree]
  refine ⟨_, hrun.trans (if_neg hgo), ?_⟩
  split <;> exact ⟨rfl, rfl, rfl, rfl, rfl, rfl⟩

/-! ### The firmware fetch (15_boot_security R453 to R456) -/

section Fetch
variable {s : State} {m : Ncp}

theorem exec_fwOffer_of_header (hacc : NcpAccepts s 0x50 m .session) (hlen : m.payload.length = 7424) :
    let t := s.ncpTaken 0x50 m
    let r := t.offerResult m.payload
    exec (.fwOffer m) s = .next (State.ncpFinish 0x50 m (if r ≠ 0 then (t.fwFail r true).fwAnswer r
      else State.fwAnswer { t with sec := { t.sec with
        stage := 5, fwKey := (t.signer m.payload).getD 0
        fetch := some { slot := m.slot, header := m.payload } } } 0)) := by
  have hform : (m.payload.length == 7424) = true := by simp [hlen]
  exact congrArg _ ((congrArg (s.ncp 0x50 m .session · _) hform).trans (State.ncp_of_accepts hacc _))

variable {f : FwFetch} (hf : s.sec.fetch = some f) (hslot : f.slot = m.slot)
include hf hslot

/-- Data of the slot that holds the fetch, by their offset and the body's length (R454). -/
theorem exec_fwData_of_holder (hacc : NcpAccepts s 0x51 m .session) (hlow : 20 ≤ m.payload.length)
    (hhigh : m.payload.length - 4 ≤ 8176) (hmod : (m.payload.length - 4) % 16 = 0) :
    let t := s.ncpTaken 0x51 m
    let off := recN m.payload 0 4
    exec (.fwData m) s = .next (State.ncpFinish 0x51 m (
      if off ≠ f.body.length then (t.fwFail 6 false).fwAnswer 6
      else if bodyLen f.header < off + (m.payload.length - 4) then (t.fwFail 9 false).fwAnswer 9
      else State.fwAnswer { t with sec := { t.sec with
        fetch := some { f with body := f.body ++ m.payload.drop 4 } } } 0)) := by
  have hform : (decide (20 ≤ m.payload.length) && decide (m.payload.length - 4 ≤ 8176) &&
      (m.payload.length - 4) % 16 == 0) = true := by
    simp [hlow, hhigh, hmod]
  have hf' : (s.ncpTaken 0x51 m).sec.fetch = some f := (congrArg _ (State.ncpTaken_sec ..)).trans hf
  refine congrArg _ ((congrArg (s.ncp 0x51 m .session · _) hform).trans ((State.ncp_of_accepts hacc _).trans ?_))
  simp only [hf']
  exact congrArg _ (if_neg (not_not_intro hslot))

variable (hacc : NcpAccepts s 0x52 m .session) (hlen : m.payload = []) (hall : bodyLen f.header ≤ f.body.length)
include hacc hlen hall

/-- The end of a whole body, by its digest (R456). -/
theorem exec_fwEnd_of_whole :
    let t := s.ncpTaken 0x52 m
    exec (.fwEnd m) s = .next (if sha3_512 f.body ≠ bodyDigest f.header then
        State.ncpFinish 0x52 m (State.fwAnswer { t.fwFail 7 true with
          sec := { (t.fwFail 7 true).sec with stage := 4, fetch := none } } 7)
      else (t.replies 0x52 m 0 (leBytes 1 0 ++ leBytes 4 t.sec.nextOff)).handover f) := by
  have hform : (m.payload.length == 0) = true := by simp [hlen]
  have hf' : (s.ncpTaken 0x52 m).sec.fetch = some f := (congrArg _ (State.ncpTaken_sec ..)).trans hf
  have hgo : ¬ (f.slot ≠ m.slot ∨ f.body.length < bodyLen f.header) := by
    rintro (h | h)
    · exact h hslot
    · omega
  refine congrArg _ ((congrArg (s.ncp 0x52 m .session · _) hform).trans ((State.ncp_of_accepts hacc _).trans ?_))
  simp only [hf']
  rw [if_neg hgo]
  split <;> rfl

end Fetch

theorem exec_fwAbort_of_holder {s : State} {m : Ncp} (hacc : NcpAccepts s 0x53 m .session) (hlen : m.payload = [])
    (hholds : s.sec.holds m.slot = true) :
    let t := s.ncpTaken 0x53 m
    exec (.fwAbort m) s = .next (State.ncpFinish 0x53 m
      (State.fwAnswer { t with sec := { t.sec with stage := 4, fetch := none } } 0)) := by
  have hform : (m.payload.length == 0) = true := by simp [hlen]
  have hholds' : (s.ncpTaken 0x53 m).sec.holds m.slot = true := by rw [State.ncpTaken_sec, hholds]
  exact congrArg _ ((congrArg (s.ncp 0x53 m .session · _) hform).trans ((State.ncp_of_accepts hacc _).trans
    (congrArg _ (if_pos hholds'))))

/-- Answering a request leaves the boot as it is. -/
@[simp] theorem State.answer_sec (s : State) (a : Nat) (r : Reply) : (s.answer a r).sec = s.sec := rfl

/-! ### INIT ends (15_boot_security R452) -/

theorem exec_initDone_of_trained {s : State} (hstage : s.sec.stage = 8) (hok : s.aon.failed = false)
    (htrained : ∀ k, k < 12 → (s.stack k).st ≠ .training) :
    exec .initDone s = .next
      (((List.range 16).filter fun e => bit s.pmc.engEn e).foldl State.enableEngine
        (((List.range 256).filter fun t => s.pmc.tileEn.getLsbD t).foldl State.enableTile
          { s with sec := { s.sec with stage := 9, linked := true } })) := by
  have hnone : ((List.range 12).any fun k => (s.stack k).st == .training) = false := by
    rw [List.any_eq_false]
    exact fun k hk => by simpa using htrained k (List.mem_range.mp hk)
  exact if_neg (by simp only [hstage, hok, hnone]; decide)

/-- Settles O45: the boot by its guard, an offer by its result, data by their offset, an end by its digest. -/
theorem bootCommandsComplete : Obligations.BootCommandsComplete := by
  intro s m
  refine ⟨fun lands haon hpowered hlevel htrip hstage hfree =>
      exec_bootStart_of_ready lands ⟨haon, hpowered⟩ hlevel htrip hstage hfree,
    fun hacc hlen => ⟨fun hbad => ?refused, fun hgood => ?held⟩,
    fun hacc hlow hhigh hmod f hf hslot => ⟨fun hgap => ?gap, fun hnext hfits => ?next⟩,
    fun hacc hlen f hf hslot hall => ⟨fun hmatch => ?entered, fun hdiffers => ?discarded⟩,
    exec_fwAbort_of_holder, exec_initDone_of_trained, fun hacc hlen => ?attest⟩
  case refused => exact (exec_fwOffer_of_header hacc hlen).trans (congrArg _ (congrArg _ (if_pos hbad)))
  case held =>
    exact (exec_fwOffer_of_header hacc hlen).trans (congrArg _ (congrArg _ (if_neg (not_not_intro hgood))))
  case gap =>
    exact (exec_fwData_of_holder hf hslot hacc hlow hhigh hmod).trans
      (congrArg _ (congrArg _ (if_pos hgap)))
  case next =>
    exact (exec_fwData_of_holder hf hslot hacc hlow hhigh hmod).trans
      (congrArg _ (congrArg _ ((if_neg (not_not_intro hnext)).trans (if_neg (Nat.not_lt.mpr hfits)))))
  case entered =>
    exact (exec_fwEnd_of_whole hf hslot hacc hlen hall).trans (congrArg _ (if_neg (not_not_intro hmatch)))
  case discarded =>
    exact ⟨_, (exec_fwEnd_of_whole hf hslot hacc hlen hall).trans (congrArg _ (if_pos hdiffers)), rfl, rfl⟩
  case attest => exact congrArg _ (State.ncp_of_done hacc (by simp [hlen]) rfl)

end Sys2Proof.Machine
end

section
/-! Fuse programming (O46). -/

namespace Sys2Proof.Machine

/-! ### Programming begins (15_boot_security R465) -/

theorem State.program_fuses (s : State) (c : Nat) : (s.program c).fuses = s.fuses := by
  unfold State.program
  split <;> rfl

/-- Programming that is under way is not disturbed. -/
theorem State.program_prog_of_busy {s : State} (hbusy : s.sec.prog ≠ none) (c : Nat) :
    (s.program c).sec.prog = s.sec.prog := by
  unfold State.program
  split
  · exact if_neg (by simpa [Option.isNone_iff_eq_none] using hbusy)
  · rfl

theorem State.program_of_ready {s : State} (hstage : s.sec.stage = 9) (hidle : s.sec.prog = none) (c : Nat) :
    s.program c = { s with sec := { s.sec with
      target := c, prog := some (c, (List.range 8).flatMap fun i => leBytes 8 (Tbl.get 0 s.sec.fuseData i).toNat) } } := by
  simp [State.program, State.fuseCtl, hstage, hidle]

/-! ### Programming ends (15_boot_security R460, R465) -/

theorem exec_fuseProgDone (s : State) : exec .fuseProgDone s = execFuseProgDone s := rfl

theorem exec_fuseProgDone_of_busy {s : State} {c : Nat} {d : Bytes} (hbusy : s.sec.prog = some (c, d)) :
    let r := s.fuses.programmed c (fwSvn s.sec.header) d
    exec .fuseProgDone s = .next { s with fuses := r.1, sec := { s.sec with prog := none, err := r.2 } } := by
  simp only [exec_fuseProgDone, execFuseProgDone, hbusy]

/-- Whatever is programmed, the lifecycle stays, and the security version stays or grows by one up to 64. -/
theorem Fuses.programmed_svn (f : Fuses) (c image : Nat) (d : Bytes) :
    (f.programmed c image d).1.lifecycle = f.lifecycle ∧
      ((f.programmed c image d).1.svn = f.svn ∨
        (f.programmed c image d).1.svn = f.svn + 1 ∧ f.svn < 64) := by
  unfold Fuses.programmed
  dsimp only
  split_ifs <;> simp [Fuses.setAgent]
  omega

/-! ### What a target sets (15_boot_security Table 15.11) -/

section Entry
variable (f : Fuses) {k : Nat} (hk : k < 8) (image : Nat) (d : Bytes)
include hk

theorem Fuses.programmed_hash : f.programmed k image d =
    if (f.agent k).valid then (f, 1) else (f.setAgent k { f.agent k with hash := d, valid := true }, 0) := by
  have hmod : k % 16 = k := by omega
  simp only [Fuses.programmed, hmod]
  exact if_pos hk

theorem Fuses.programmed_admin : f.programmed (0x10 + k) image d =
    if (f.agent k).admin then (f, 1) else (f.setAgent k { f.agent k with admin := true }, 0) := by
  have hmod : (0x10 + k) % 16 = k := by omega
  simp only [Fuses.programmed, hmod]
  rw [if_neg (by omega), if_pos (by omega)]

theorem Fuses.programmed_revoked : f.programmed (0x20 + k) image d =
    if (f.agent k).revoked then (f, 1) else (f.setAgent k { f.agent k with revoked := true }, 0) := by
  have hmod : (0x20 + k) % 16 = k := by omega
  simp only [Fuses.programmed, hmod]
  rw [if_neg (by omega), if_neg (by omega), if_pos (by omega)]

end Entry

theorem Fuses.programmed_fwRevoke (f : Fuses) {k : Nat} (hk : k < 2) (image : Nat) (d : Bytes) :
    f.programmed (0x30 + k) image d =
      if bit f.fwRevoke k then (f, 1) else ({ f with fwRevoke := setFld f.fwRevoke k 1 1 }, 0) := by
  have hmod : (0x30 + k) % 16 = k := by omega
  simp only [Fuses.programmed, hmod]
  rw [if_neg (by omega), if_neg (by omega), if_neg (by omega), if_pos (by omega)]

theorem Fuses.programmed_version (f : Fuses) (image : Nat) (d : Bytes) :
    f.programmed 0x40 image d =
      if image < f.svn + 1 then (f, 2) else if 64 ≤ f.svn then (f, 1) else ({ f with svn := f.svn + 1 }, 0) := rfl

/-- Settles O46: programming by whether one is under way, and its end by the target. -/
theorem fuseProgrammingCompletes : Obligations.FuseProgrammingCompletes := by
  refine ⟨fun s k => ⟨⟨rfl, rfl, rfl, rfl, rfl⟩, fun hstage hidle => State.program_of_ready hstage hidle,
    fun c => ⟨s.program_fuses c, fun hbusy => State.program_prog_of_busy hbusy c⟩, fun hidle => ?idle,
    fun c d hbusy => ?done⟩, fun f image d => ⟨fun k hk => ⟨f.programmed_hash hk image d, f.programmed_admin hk image d,
    f.programmed_revoked hk image d⟩, fun k hk => f.programmed_fwRevoke hk image d, fun hnewer hroom => ?grows,
    fun hold => ?notNewer⟩⟩
  case idle => simp only [exec_fuseProgDone, execFuseProgDone, hidle]
  case done =>
    obtain ⟨hlife, hsvn⟩ := s.fuses.programmed_svn c (fwSvn s.sec.header) d
    exact ⟨exec_fuseProgDone_of_busy hbusy, by omega, by omega, hlife⟩
  case grows => rw [f.programmed_version, if_neg (by omega), if_neg (by omega)]
  case notNewer => rw [f.programmed_version, if_pos (by omega)]

end Sys2Proof.Machine
end


section
/-! The registers of the always-on domain stay as they are when memory is written, frames are sent, collectives and
reductions go on, and a context ends. -/

namespace Sys2Proof.Machine

/-! ### Sending on a port changes the fabric and what goes out, and nothing else (09_causeway_collectives R264) -/

/-- The state apart from the fabric and from what went out. -/
def State.offLine (s : State) : State := { s with fab := {}, out := [] }

@[simp] theorem State.setPort_offLine (s : State) (p : Nat) (x : Port) : (s.setPort p x).offLine = s.offLine := rfl

@[simp] theorem State.owe_offLine (s : State) (p vc n : Nat) : (s.owe p vc n).offLine = s.offLine := rfl

@[simp] theorem State.transmit_offLine (s : State) (p : Nat) (t : TxFrame) :
    (s.transmit p t).offLine = s.offLine := by
  unfold State.transmit
  dsimp only
  split <;> rfl

@[simp] theorem State.drainPort_offLine (p n : Nat) (s : State) : (State.drainPort p n s).offLine = s.offLine := by
  induction n generalizing s with
  | zero => rfl
  | succ n ih =>
    unfold State.drainPort
    split
    · rfl
    · rw [ih, State.transmit_offLine, State.setPort_offLine]

@[simp] theorem State.enqueue_offLine (s : State) (p : Nat) (t : TxFrame) : (s.enqueue p t).offLine = s.offLine :=
  State.drainPort_offLine ..

@[simp] theorem State.sendHello_offLine (s : State) (p st : Nat) : (s.sendHello p st).offLine = s.offLine := by
  unfold State.sendHello
  dsimp only
  rw [State.enqueue_offLine]
  split <;> rfl

/-! ### Frames sent (09_causeway_collectives R268, R275) -/

/-- States that differ in the fabric and in what went out have the same registers of the always-on domain. -/
theorem State.aon_of_offLine {s t : State} (h : s.offLine = t.offLine) : s.aon = t.aon := by
  have ha := congrArg State.aon h
  exact ha

@[simp] theorem State.owe_aon (s : State) (p vc n : Nat) : (s.owe p vc n).aon = s.aon := rfl

@[simp] theorem State.enqueue_aon (s : State) (p : Nat) (t : TxFrame) : (s.enqueue p t).aon = s.aon :=
  State.aon_of_offLine (State.enqueue_offLine s p t)

@[simp] theorem State.sendHello_aon (s : State) (p st : Nat) : (s.sendHello p st).aon = s.aon :=
  State.aon_of_offLine (State.sendHello_offLine s p st)

@[simp] theorem State.route_aon (s : State) (t : TxFrame) : (s.route t).aon = s.aon := by
  unfold State.route
  split
  · rfl
  split
  · rfl
  · exact foldl_keeps State.aon (fun _ _ => State.enqueue_aon ..) _ s

@[simp] theorem State.sendFrame_aon (s : State) (f : Frame) : (s.sendFrame f).aon = s.aon := by
  unfold State.sendFrame
  dsimp only
  split
  · rfl
  · exact State.route_aon ..

@[simp] theorem State.sendBytes_aon (s : State) (proto : Frame) (bs : Bytes) : (s.sendBytes proto bs).aon = s.aon :=
  foldl_keeps State.aon (fun _ _ => State.sendFrame_aon ..) _ s

@[simp] theorem State.sendGrant_aon (s : State) (c group a b dst flow ty vc cseq : Nat) (key : List Nat) :
    (s.sendGrant c group a b dst flow ty vc cseq key).aon = s.aon := State.sendFrame_aon ..

@[simp] theorem State.collSend_aon (s : State) (k : Coll) (vc rank off : Nat) (bs : Bytes) :
    (s.collSend k vc rank off bs).aon = s.aon := State.sendBytes_aon ..

@[simp] theorem State.freeFrame_aon (s : State) (p : Nat) (f : Frame) : (s.freeFrame p f).aon = s.aon := by
  unfold State.freeFrame
  split <;> rfl

/-! ### Events and memory (03_memory R106, R107; 11_memory_tiers R339 to R344; 17_counters_trace R495) -/

@[simp] theorem State.evTile_aon (s : State) (e t amt : Nat) : (s.evTile e t amt).aon = s.aon := State.ev_aon ..

@[simp] theorem State.hardEvent_aon (s : State) (t : Nat) : (s.hardEvent t).aon = s.aon := State.evTile_aon ..

@[simp] theorem State.storeUe_aon (s : State) (t : Nat) (scrub : Bool) (req w : Nat) :
    (s.storeUe t scrub req w).aon = s.aon := by
  unfold State.storeUe
  dsimp only
  rw [State.hardEvent_aon, State.evTile_aon]
  rfl

@[simp] theorem State.storeCe_aon (s : State) (t w : Nat) : (s.storeCe t w).aon = s.aon := State.evTile_aon ..

@[simp] theorem State.hbmUe_aon (s : State) (scrub : Bool) (k : Nat) : (s.hbmUe scrub k).aon = s.aon :=
  State.ev_aon ..

@[simp] theorem State.hbmCe_aon (s : State) (k : Nat) : (s.hbmCe k).aon = s.aon := State.ev_aon ..

@[simp] theorem State.storeRead_aon (s : State) (t req a n : Nat) : (s.storeRead t req a n).s.aon = s.aon := by
  refine foldl_keeps State.aon (fun st e => ?_) _ s
  split
  · exact State.storeCe_aon ..
  · exact State.storeUe_aon ..

@[simp] theorem State.storeWrite_aon (s : State) (t req a : Nat) (bs : Bytes) :
    (s.storeWrite t req a bs).aon = s.aon := by
  refine foldl_keeps State.aon (fun st e => ?_) _ s
  split
  · exact State.storeCe_aon ..
  · exact State.storeUe_aon ..

@[simp] theorem State.hbmRead_aon (s : State) (a n : Nat) : (s.hbmRead a n).s.aon = s.aon := by
  refine foldl_keeps State.aon (fun st e => ?_) _ s
  split
  · exact State.hbmCe_aon ..
  · exact State.hbmUe_aon ..

@[simp] theorem State.hbmWrite_aon (s : State) (a : Nat) (bs : Bytes) : (s.hbmWrite a bs).aon = s.aon := by
  refine foldl_keeps State.aon (fun st e => ?_) _ s
  split
  · exact State.hbmCe_aon ..
  · exact State.hbmUe_aon ..

@[simp] theorem State.putTensor_aon (s : State) (c : Nat) (x : Tensor) : (s.putTensor c x).aon = s.aon := by
  unfold State.putTensor
  split
  · exact State.hbmWrite_aon ..
  · rfl

@[simp] theorem State.formChats_aon (s : State) (c : Nat) : (s.formChats c).aon = s.aon := by
  unfold State.formChats
  split
  · rfl
  split
  · rfl
  split
  · rfl
  · refine foldl_keeps State.aon (fun st x => ?_) _ s
    dsimp only
    split
    · rfl
    split
    · exact State.putTensor_aon ..
    · rw [State.ev_aon, State.putTensor_aon]

@[simp] theorem State.settleChats_aon (s : State) : s.settleChats.aon = s.aon :=
  foldl_keeps State.aon (fun _ _ => State.formChats_aon ..) _ s

@[simp] theorem State.dataWrite_aon (s : State) (a : Nat) (bs : Bytes) : (s.dataWrite a bs).aon = s.aon := by
  unfold State.dataWrite
  dsimp only
  rw [State.settleChats_aon]
  split
  · exact State.hbmWrite_aon ..
  · exact foldl_keeps State.aon (fun _ _ => State.hbmWrite_aon ..) _ s

@[simp] theorem State.ctxStore_aon (s : State) (c a : Nat) (bs : Bytes) : (s.ctxStore c a bs).aon = s.aon := by
  unfold State.ctxStore
  split
  · exact State.dataWrite_aon ..
  · rfl

@[simp] theorem State.readRange_aon (s : State) (c t : Nat) (hbm : Bool) (a n : Nat) :
    (s.readRange c t hbm a n).s.aon = s.aon := by
  unfold State.readRange State.ctxRead
  split
  · cases s.xlate c a n false with
    | none => rfl
    | some d => exact State.hbmRead_aon ..
  · exact State.storeRead_aon ..

@[simp] theorem State.writeDst_aon (s : State) (k : Coll) (o : Nat) (bs : Bytes) :
    (s.writeDst k o bs).aon = s.aon := by
  unfold State.writeDst State.writeRange
  split
  · rfl
  split
  · exact State.ctxStore_aon ..
  · exact State.storeWrite_aon ..

/-! ### Collectives (09_causeway_collectives R280 to R287) -/

@[simp] theorem State.endPost_aon (s : State) (c v q seq status : Nat) (ue : Bool) :
    (s.endPost c v q seq status ue).aon = s.aon := by
  unfold State.endPost
  split <;> rfl

@[simp] theorem State.collDone_aon (s : State) (k : Coll) (count : Nat) : (s.collDone k count).aon = s.aon := by
  unfold State.collDone
  dsimp only
  split
  · exact State.endPost_aon ..
  · exact State.endPost_aon ..

theorem State.takeAcc_aon {s t : State} {c : Nat} {key : List Nat} (h : s.takeAcc c key = some t) : t.aon = s.aon := by
  unfold State.takeAcc at h
  split at h
  · rw [Option.some.inj h]
  · obtain ⟨k, -, rfl⟩ := Option.map_eq_some_iff.1 h
    rfl

@[simp] theorem State.sendChunk_aon (s : State) (k : Coll) (g : Group) (x : Nat × Nat) (v : List W32) :
    (s.sendChunk k g x v).aon = s.aon := by
  unfold State.sendChunk
  dsimp only
  split
  · exact State.collSend_aon ..
  split
  · rw [State.writeDst_aon]
    exact foldl_keeps State.aon (fun _ _ => State.collSend_aon ..) _ s
  · exact State.writeDst_aon ..

@[simp] theorem State.stepChunk_aon (s : State) (k : Coll) (x : Nat × Nat) : (s.stepChunk k x).aon = s.aon := by
  unfold State.stepChunk
  split
  · rfl
  dsimp only
  split
  · rfl
  split
  · rfl
  next t ht =>
    have hst : t.aon = s.aon := by
      split at ht
      · rw [Option.some.inj ht]
      · exact State.takeAcc_aon ht
    split
    · exact foldl_keeps State.aon (fun _ _ => State.sendGrant_aon ..) _ _ |>.trans hst
    split
    · split
      · exact hst
      · exact (State.sendChunk_aon ..).trans hst
    · split
      · exact hst
      · exact (State.sendChunk_aon ..).trans hst

@[simp] theorem State.stepReduce_aon (s : State) (k : Coll) : (s.stepReduce k).aon = s.aon := by
  have hs (l : List (Nat × Nat)) : (l.foldl (fun st x => st.stepChunk k x) s).aon = s.aon :=
    foldl_keeps State.aon (fun _ _ => State.stepChunk_aon ..) l s
  unfold State.stepReduce
  dsimp only
  split
  · exact hs _
  split
  · rw [State.collDone_aon, hs]
  · exact hs _

@[simp] theorem State.stepGather_aon (s : State) (k : Coll) : (s.stepGather k).aon = s.aon := by
  unfold State.stepGather
  dsimp only
  generalize hx : (if k.sent = true then s else _) = s1
  have hs : s1.aon = s.aon := by
    subst hx
    split
    · rfl
    split
    · exact State.writeDst_aon ..
    · exact (foldl_keeps State.aon (fun _ _ => State.collSend_aon ..) _ _).trans (State.writeDst_aon ..)
  split
  · split
    · exact (State.collDone_aon ..).trans hs
    · exact hs
  · exact hs

@[simp] theorem State.raggedReplies_aon (s : State) (k : Coll) : (s.raggedReplies k).aon = s.aon := by
  unfold State.raggedReplies
  split
  · rfl
  split
  · rfl
  dsimp only
  split
  · rfl
  · exact foldl_keeps State.aon (fun _ _ => State.collSend_aon ..) _ _

@[simp] theorem State.raggedData_aon (s : State) (k : Coll) : (s.raggedData k).aon = s.aon := by
  unfold State.raggedData
  split
  · rfl
  dsimp only
  split
  · refine (foldl_keeps State.aon (fun st r => ?_) _ _).trans ?_
    · split
      · rfl
      · exact State.collSend_aon ..
    · split
      · exact State.ctxStore_aon ..
      · rfl
  · rfl

@[simp] theorem State.raggedEnd_aon (s : State) (k : Coll) : (s.raggedEnd k).aon = s.aon := by
  unfold State.raggedEnd
  split
  · rfl
  dsimp only
  split
  · split
    · rfl
    rw [State.collDone_aon]
    split
    · rw [State.ctxStore_aon, State.writeDst_aon]
    · rw [State.ev_aon, State.ctxStore_aon, State.writeDst_aon]
  · rfl

@[simp] theorem State.permuteSend_aon (s : State) (k : Coll) : (s.permuteSend k).aon = s.aon := by
  refine foldl_keeps State.aon (fun st i => ?_) _ s
  dsimp only
  generalize hrd : st.readRange _ _ _ _ _ = rd
  have hr : rd.s.aon = st.aon := hrd ▸ State.readRange_aon ..
  have hg (x : Option Coll) (f : Coll → Coll) :
      (match x with
        | some k1 => rd.s.setColl (f k1)
        | none => rd.s).aon = st.aon := by
    cases x <;> exact hr
  split
  · exact (State.writeDst_aon ..).trans (hg _ _)
  · exact (State.collSend_aon ..).trans (hg _ _)

@[simp] theorem State.stepPermute_aon (s : State) (k : Coll) : (s.stepPermute k).aon = s.aon := by
  unfold State.stepPermute
  dsimp only
  generalize hx : (if k.sent = true then s else _) = s1
  have hs : s1.aon = s.aon := by
    subst hx
    split
    · rfl
    · exact State.permuteSend_aon ..
  split
  · split
    · exact (State.collDone_aon ..).trans hs
    · exact hs
  · exact hs

@[simp] theorem State.stepColl_aon (s : State) (k : Coll) : (s.stepColl k).aon = s.aon := by
  have hr (y : Coll) : (s.stepRagged y).aon = s.aon := by
    unfold State.stepRagged
    rw [State.raggedEnd_aon, State.raggedData_aon, State.raggedReplies_aon]
  unfold State.stepColl
  split
  · rfl
  split
  · rfl
  split
  · exact State.stepGather_aon ..
  · exact hr _
  · exact hr _
  · exact State.stepPermute_aon ..
  · exact State.stepReduce_aon ..

/-! ### The nodes of the reduction trees (09_causeway_collectives R280; 08_optimizer_milestones R226 to R229) -/

@[simp] theorem State.accepted_aon (s : State) (c : Nat) (who : Option (Nat × Nat × Nat)) :
    (s.accepted c who).aon = s.aon := by
  cases who <;> rfl

@[simp] theorem State.replicaDown_aon (s : State) (c rank : Nat) (m : SMap) (tr : FragTree) (f : Fragment)
    (port : Option (Nat × Nat × Nat)) : (s.replicaDown c rank m tr f port).aon = s.aon :=
  foldl_keeps State.aon (fun _ _ => State.sendBytes_aon ..) _ s

@[simp] theorem State.nodeSend_aon (s : State) (c : Nat) (m : SMap) (x : Tensor) (tr : FragTree) (n : FragNode) :
    (s.nodeSend c m x tr n).aon = s.aon := by
  unfold State.nodeSend
  dsimp only
  split
  · rfl
  split
  · exact State.sendBytes_aon ..
  · exact State.replicaDown_aon ..

theorem State.takeAccs_aon {c : Nat} {keys : List (List Nat)} {s t : State}
    (h : keys.foldl (fun o k => o.bind fun st => st.takeAcc c k) (some s) = some t) : t.aon = s.aon := by
  induction keys generalizing s with
  | nil => rw [Option.some.inj h]
  | cons k keys ih =>
    rw [List.foldl_cons, Option.bind_some] at h
    cases hk : s.takeAcc c k with
    | none =>
      rw [hk] at h
      have hn : keys.foldl (fun o k => o.bind fun st : State => st.takeAcc c k) none = none := by
        clear h ih
        induction keys with
        | nil => rfl
        | cons _ _ ih => exact ih
      rw [hn] at h
      cases h
    | some s1 =>
      rw [hk] at h
      exact (ih h).trans (State.takeAcc_aon hk)

@[simp] theorem State.nodeStep_aon (s : State) (c : Nat) (m : SMap) (x : Tensor) (tr : FragTree) (n : FragNode) :
    (s.nodeStep c m x tr n).aon = s.aon := by
  unfold State.nodeStep
  dsimp only
  split
  · rfl
  next t ht =>
    have hst : t.aon = s.aon := by
      split at ht
      · rw [Option.some.inj ht]
      · exact State.takeAccs_aon ht
    have hs (p : Prop) [Decidable p] : (if p then t.accepted c n.sender else t).aon = s.aon := by
      split
      · exact (State.accepted_aon ..).trans hst
      · exact hst
    split
    · split
      · exact hs _
      · exact (State.sendGrant_aon ..).trans (hs _)
    split
    · split
      · exact hs _
      · exact (State.nodeSend_aon ..).trans (hs _)
    · split
      · exact hs _
      · exact (State.nodeSend_aon ..).trans (hs _)

@[simp] theorem State.stepNode_aon (s : State) (n : FragNode) : (s.stepNode n).aon = s.aon := by
  unfold State.stepNode
  split
  · split
    · exact State.nodeStep_aon ..
    · rfl
  · rfl

@[simp] theorem State.afterAccs_aon (s b : State) : (s.afterAccs b).aon = s.aon := by
  unfold State.afterAccs
  split
  · rw [foldl_keeps State.aon fun _ _ => State.stepNode_aon .., foldl_keeps State.aon fun _ _ => State.stepColl_aon ..]
  · rfl

/-! ### Answers, events of contexts, and the end of a context (12_contexts_scheduling R371, R374; 14_host_port R440) -/

@[simp] theorem State.answerLater_aon (s : State) (ty c status : Nat) : (s.answerLater ty c status).aon = s.aon := by
  refine foldl_keeps State.aon (fun st d => ?_) _ _
  split
  · rfl
  · rfl

@[simp] theorem State.slotEvent_aon (s : State) (slot code c : Nat) (payload : Bytes) :
    (s.slotEvent slot code c payload).aon = s.aon := by
  unfold State.slotEvent
  dsimp only
  split
  · exact State.ev_aon ..
  · rfl

@[simp] theorem State.ctxEvent_aon (s : State) (c code : Nat) (payload : Bytes) :
    (s.ctxEvent c code payload).aon = s.aon := by
  unfold State.ctxEvent
  split
  · exact State.slotEvent_aon ..
  split
  · rfl
  · rfl

@[simp] theorem State.release_aon (s : State) (x : Contribution) : (s.release x).aon = s.aon := by
  unfold State.release
  dsimp only
  split
  · exact State.accepted_aon ..
  · exact State.accepted_aon ..

@[simp] theorem State.clearUoas_aon (s : State) (c : Nat) : (s.clearUoas c).aon = s.aon :=
  foldl_keeps State.aon (fun _ _ => State.release_aon ..) _ _

@[simp] theorem State.clearFabric_aon (s : State) (c : Nat) : (s.clearFabric c).aon = s.aon := by
  refine (State.afterAccs_aon ..).trans ((foldl_keeps State.aon (fun st k => ?_) _ _).trans ?_)
  · split <;> rfl
  · exact foldl_keeps State.aon (fun _ _ => State.freeFrame_aon ..) _ s

@[simp] theorem State.tryBegin_aon (s : State) (c : Nat) : (s.tryBegin c).aon = s.aon := by
  unfold State.tryBegin
  dsimp only
  split
  · rfl
  split
  · rfl
  · rfl

@[simp] theorem State.clearEngines_aon (s : State) (c : Nat) : (s.clearEngines c).aon = s.aon := rfl

@[simp] theorem State.countCompleted_aon (s : State) (k : Nat) : (s.countCompleted k).aon = s.aon := rfl

@[simp] theorem State.settleRegions_aon (s : State) : s.settleRegions.aon = s.aon := rfl

@[simp] theorem State.endContext_aon (s : State) (c : Nat) : (s.endContext c).aon = s.aon := by
  unfold State.endContext
  simp only [apply_ite State.aon, State.tryBegin_aon, ite_self, State.settleRegions_aon, State.answerLater_aon,
    State.countCompleted_aon, State.setCtx_aon, State.clearEngines_aon, State.clearFabric_aon, State.clearUoas_aon]

/-! ### The fences stay when a device fails and when tile maps are rebuilt (13_fault_tolerance R394, R399) -/

@[simp] theorem State.halt_aon (s : State) : s.halt.aon = s.aon := rfl

/-- A device that declares itself failed keeps its fences. -/
@[simp] theorem State.declareFailed_fence (s : State) : s.declareFailed.aon.fence = s.aon.fence := by
  have hports (l : List Nat) (s : State) : (l.foldl (fun (st : State) p =>
      if (st.port p).up then (st.sendHello p 2).shutPort p else st) s).aon = s.aon := by
    refine foldl_keeps State.aon (fun st p => ?_) l s
    split
    · exact State.sendHello_aon ..
    · rfl
  have hends (l : List Nat) : (l.foldl State.endContext s).aon = s.aon :=
    foldl_keeps State.aon (fun _ _ => State.endContext_aon ..) l s
  unfold State.declareFailed
  split
  · rfl
  dsimp only
  rw [apply_ite State.aon, State.halt_aon, ite_self, hports]
  refine congrArg Aon.fence ((foldl_keeps State.aon (fun _ _ => ?_) _ _).trans (hends _))
  rfl

@[simp] theorem State.resetQueues_aon (s : State) (c n : Nat) : (s.resetQueues c n).aon = s.aon := by
  refine foldl_keeps State.aon (fun st v => ?_) _ s
  exact State.setTc_aon ..

@[simp] theorem State.dropTile_aon (s : State) (c t : Nat) : (s.dropTile c t).aon = s.aon := by
  unfold State.dropTile
  split
  · rfl
  · rfl

@[simp] theorem State.retile_fence (s : State) (c : Nat) : (s.retile c).aon.fence = s.aon.fence := by
  have hdrop (l : List Nat) : (l.foldl (fun (st : State) t => st.dropTile c t) s).aon = s.aon :=
    foldl_keeps State.aon (fun _ _ => State.dropTile_aon ..) l s
  have hend (l : List Nat) (t : State) : (((l.foldl State.endContext t).ctxEvent c 7 [2]).endContext c).aon = t.aon := by
    rw [State.endContext_aon, State.ctxEvent_aon]
    exact foldl_keeps State.aon (fun _ _ => State.endContext_aon ..) l t
  unfold State.retile
  dsimp only
  split
  · rw [hdrop]
  split
  · rw [State.declareFailed_fence, hend, hdrop]
  · rw [hend, hdrop]

@[simp] theorem State.settleDetour_fence (s : State) (c : Nat) : (s.settleDetour c).aon.fence = s.aon.fence := by
  unfold State.settleDetour
  dsimp only
  split
  · rfl
  · rw [State.retile_fence, State.resetQueues_aon]

@[simp] theorem State.settleDetours_fence (s : State) : s.settleDetours.aon.fence = s.aon.fence :=
  foldl_keeps (fun st : State => st.aon.fence) (fun _ _ => State.settleDetour_fence ..) _ s

end Sys2Proof.Machine
end

section
/-! The watchdog, fences and a device that fails (O48). -/

namespace Sys2Proof.Machine

/-! ### Fencing in three parts (13_fault_tolerance R398) -/

/-- What fencing does to the tile: its flights marked, its bit set and its stop begun. -/
def State.cutTile (s : State) (t : Nat) : State :=
  let mark (f : Flight) : Flight :=
    if (s.ctx f.ctx).phys f.vt = some t then { f with poison := true, suspect := true } else f
  let s1 : State := { s.suspectOwed t with
    flight := s.flight.map mark, aon := { s.aon with fence := s.aon.fence ||| BitVec.ofNat 256 (2 ^ t) } }
  (s1.setTile t { s.tile t with en := { st := if (s.tile t).en.st == .off then .off else .stopping } }).ev 0x0A8 0 []

/-- What fencing does to a context whose map has the tile: its job recovers, or it is held. -/
def State.cutCtx (s : State) (c : Nat) : State :=
  if (s.ctx c).job.isSome then s.raise c 4 s.fab.devid else s.setCtx c { s.ctx c with held := true }

/-- The admitted contexts whose map has a tile. -/
def State.ctxsOf (s : State) (t : Nat) : List Nat :=
  s.ctxs.keys.filter fun c => s.isAdmitted c && (bit (s.ctx c).tiles t || (s.ctx c).map.contains t)

/-- Fencing acts on the tile, then on the contexts that have it, and then maps without work are rebuilt. -/
theorem State.fenceTile_of_clear {s : State} {t : Nat} (ht : t < 256) (hf : s.aon.fence.getLsbD t = false) :
    s.fenceTile t = (((s.cutTile t).ctxsOf t).foldl State.cutCtx (s.cutTile t)).settleDetours :=
  if_neg (by rintro (h | h) <;> [omega; simp [hf] at h])

/-- A tile that does not exist, or is fenced already, stays as it is. -/
theorem State.fenceTile_of_set {s : State} {t : Nat} (h : 256 ≤ t ∨ s.aon.fence.getLsbD t = true) :
    s.fenceTile t = s := if_pos h

theorem State.cutTile_fence (s : State) (t : Nat) :
    (s.cutTile t).aon.fence = s.aon.fence ||| BitVec.ofNat 256 (2 ^ t) := by
  unfold State.cutTile
  dsimp only
  rw [State.ev_aon]
  rfl

theorem State.cutTile_ctxs (s : State) (t : Nat) : (s.cutTile t).ctxs = s.ctxs := State.ev_ctxs ..

theorem State.cutTile_flight (s : State) (t : Nat) : (s.cutTile t).flight = s.flight.map fun f =>
    if (s.ctx f.ctx).phys f.vt = some t then { f with poison := true, suspect := true } else f := State.ev_flight ..

/-- The tile's stop begins, where it is not OFF, and every other tile stays. -/
theorem State.cutTile_tiles (s : State) (t : Nat) : (s.cutTile t).tiles = Tbl.set s.tiles t
    { s.tile t with en := { st := if (s.tile t).en.st == .off then .off else .stopping } } := State.ev_tiles _ _ _ _ _ rfl

@[simp] theorem State.raise_aon (s : State) (c cause subject : Nat) : (s.raise c cause subject).aon = s.aon := by
  unfold State.raise
  dsimp only
  split <;> rfl

@[simp] theorem State.cutCtx_aon (s : State) (c : Nat) : (s.cutCtx c).aon = s.aon := by
  unfold State.cutCtx
  split
  · exact State.raise_aon ..
  · rfl

/-- Fencing a tile sets its bit and no other. -/
theorem State.fenceTile_fence {s : State} {t u : Nat} (ht : t < 256) (hf : s.aon.fence.getLsbD t = false)
    (hu : u < 256) : (s.fenceTile t).aon.fence.getLsbD u = (decide (u = t) || s.aon.fence.getLsbD u) := by
  have hcut (l : List Nat) (r : State) : (l.foldl State.cutCtx r).aon = r.aon :=
    foldl_keeps State.aon (fun _ _ => State.cutCtx_aon ..) l r
  rw [State.fenceTile_of_clear ht hf, State.settleDetours_fence, hcut, State.cutTile_fence, BitVec.getLsbD_or,
    BitVec.getLsbD_ofNat, Nat.testBit_two_pow, Bool.or_comm, decide_eq_true hu, Bool.true_and]
  simp only [eq_comm]

/-! ### Where every context has a job, no map is rebuilt (13_fault_tolerance R399) -/

/-- A key that is listed has its value, which stands in the table, and any other reads as the default. -/
theorem Tbl.get_mem_or_default {α : Type} (d : α) (t : Tbl α) (k : Nat) :
    (k, Tbl.get d t k) ∈ t ∨ k ∉ t.keys ∧ Tbl.get d t k = d := by
  induction t with
  | nil => exact .inr ⟨List.not_mem_nil, rfl⟩
  | cons e t ih =>
    obtain ⟨j, v⟩ := e
    by_cases h : k = j
    · subst h
      exact .inl (by simp [Tbl.get, Tbl.find])
    · simpa [Tbl.get, Tbl.find, Tbl.keys, h] using ih

/-- The job, if any, and the hold of every context, the tiles, and the work in flight. -/
def State.detourView (s : State) : Tbl Tile × List Flight × (Nat → Option Job × Bool) :=
  (s.tiles, s.flight, fun c => ((s.ctx c).job, (s.ctx c).held))

theorem State.raise_detourView (s : State) (c cause subject : Nat) :
    (s.raise c cause subject).detourView = s.detourView := by
  unfold State.raise
  dsimp only
  split
  · rfl
  · refine Prod.ext rfl (Prod.ext rfl (funext fun d => ?_))
    by_cases h : d = c
    · subst h
      simp [State.detourView]
    · simp [State.detourView, State.ctx_setCtx, h]

/-- Raising a recovery for contexts with jobs holds no context. -/
theorem State.foldl_cutCtx_detourView {l : List Nat} {s : State} (h : ∀ c ∈ l, (s.ctx c).job.isSome = true) :
    (l.foldl State.cutCtx s).detourView = s.detourView := by
  induction l generalizing s with
  | nil => rfl
  | cons c l ih =>
    have hc : s.cutCtx c = s.raise c 4 s.fab.devid := if_pos (h c List.mem_cons_self)
    have hv : (s.cutCtx c).detourView = s.detourView := by rw [hc, State.raise_detourView]
    rw [List.foldl_cons, ih, hv]
    intro d hd
    have hj : ((s.cutCtx c).ctx d).job = (s.ctx d).job := congrArg (fun v => (v.2.2 d).1) hv
    rw [hj]
    exact h d (List.mem_cons_of_mem _ hd)

/-- The map of a context that has a job, or is not held, is not rebuilt. -/
theorem State.settleDetour_of_job (s : State) {c : Nat} (h : (s.ctx c).job.isSome = true ∨ (s.ctx c).held = false) :
    s.settleDetour c = s :=
  if_pos (by rcases h with h | h <;> simp [h])

/-- Where every context has a job or is not held, no map is rebuilt. -/
theorem State.settleDetours_of_jobs {s : State} (h : ∀ c, (s.ctx c).job.isSome = true ∨ (s.ctx c).held = false) :
    s.settleDetours = s :=
  List.foldl_fixed' (fun c => s.settleDetour_of_job (h c)) _

/-- Where every context has a job, fencing leaves the tiles and the work in flight as it left them when it acted on the
tile. -/
theorem State.fenceTile_detourView {s : State} {t : Nat} (ht : t < 256) (hf : s.aon.fence.getLsbD t = false)
    (hj : ∀ e ∈ s.ctxs, e.2.job.isSome = true) : (s.fenceTile t).detourView = (s.cutTile t).detourView := by
  have hctx (c : Nat) : (s.cutTile t).ctx c = s.ctx c := by
    unfold State.ctx
    rw [State.cutTile_ctxs]
  have hkeys : ∀ c ∈ (s.cutTile t).ctxsOf t, ((s.cutTile t).ctx c).job.isSome = true := by
    intro c hc
    have hk : c ∈ s.ctxs.keys := State.cutTile_ctxs s t ▸ (List.mem_filter.1 hc).1
    rw [hctx]
    rcases Tbl.get_mem_or_default {} s.ctxs c with h | ⟨h, -⟩
    · exact hj _ h
    · exact absurd hk h
  have hv := State.foldl_cutCtx_detourView hkeys
  rw [State.fenceTile_of_clear ht hf, State.settleDetours_of_jobs, hv]
  intro c
  have hjc : ((((s.cutTile t).ctxsOf t).foldl State.cutCtx (s.cutTile t)).ctx c).job = (s.ctx c).job :=
    (congrArg (fun v => (v.2.2 c).1) hv).trans (congrArg Ctx.job (hctx c))
  have hhc : ((((s.cutTile t).ctxsOf t).foldl State.cutCtx (s.cutTile t)).ctx c).held = (s.ctx c).held :=
    (congrArg (fun v => (v.2.2 c).2) hv).trans (congrArg Ctx.held (hctx c))
  rw [hjc, hhc]
  rcases Tbl.get_mem_or_default {} s.ctxs c with h | ⟨-, h⟩
  · exact .inl (hj _ h)
  · exact .inr (congrArg Ctx.held h)

/-- Where every context has a job, a fenced tile stops, every other tile stays, and what is in flight on it is poisoned
and suspect. -/
theorem State.fenceTile_stops {s : State} {t : Nat} (ht : t < 256) (hf : s.aon.fence.getLsbD t = false)
    (hj : ∀ e ∈ s.ctxs, e.2.job.isSome = true) :
    ((s.tile t).en.st ≠ .off → ((s.fenceTile t).tile t).en.st = .stopping) ∧
    (∀ u, u ≠ t → (s.fenceTile t).tile u = s.tile u) ∧
    (s.fenceTile t).flight = s.flight.map fun f =>
      if (s.ctx f.ctx).phys f.vt = some t then { f with poison := true, suspect := true } else f := by
  have hv := State.fenceTile_detourView ht hf hj
  have htile (u : Nat) : (s.fenceTile t).tile u = Tbl.get {} (Tbl.set s.tiles t
      { s.tile t with en := { st := if (s.tile t).en.st == .off then .off else .stopping } }) u := by
    have ht : (s.fenceTile t).tiles = _ := (congrArg Prod.fst hv).trans (State.cutTile_tiles s t)
    unfold State.tile
    rw [ht]
    rfl
  refine ⟨fun hon => ?_, fun u hu => ?_, (congrArg (fun v => v.2.1) hv).trans (State.cutTile_flight s t)⟩
  · rw [htile, Tbl.get_set_self]
    exact if_neg (by simpa using hon)
  · rw [htile, Tbl.get_set_ne _ _ _ hu]
    rfl

/-! ### AON_FENCE and the watchdog (13_fault_tolerance R422, R423) -/

/-- A single bit is the only position of its power of two. -/
theorem filter_getLsbD_two_pow : ∀ j < 64,
    (List.range 64).filter (fun k => (BitVec.ofNat 64 (2 ^ j)).getLsbD k) = [j] := by
  decide

theorem exec_aonFenceWrite_of_bit {s : State} {i j : Nat} (hi : i < 4) (hj : j < 64) :
    exec (.aonFenceWrite i (BitVec.ofNat 64 (2 ^ j))) s = .next (s.fenceTile (64 * i + j)) := by
  have he : exec (.aonFenceWrite i (BitVec.ofNat 64 (2 ^ j))) s = execAonFenceWrite i (BitVec.ofNat 64 (2 ^ j)) s := rfl
  rw [he, execAonFenceWrite, if_neg (by omega), filter_getLsbD_two_pow j hj]
  rfl

/-- The running watchdog counts until its timeout. -/
theorem exec_watchdogExpire_of_lt {s : State} {n : Nat} (hen : s.aon.wdEn = true)
    (hlt : s.aon.wdCount + n < s.aon.timeout) :
    exec (.watchdogExpire n) s = .next { s with aon := { s.aon with wdCount := s.aon.wdCount + n } } :=
  (if_neg (by simp [hen])).trans (if_pos hlt)

/-- At its timeout the running watchdog expires, and the device declares itself failed. -/
theorem exec_watchdogExpire_of_le {s : State} {n : Nat} (hen : s.aon.wdEn = true)
    (hle : s.aon.timeout ≤ s.aon.wdCount + n) : exec (.watchdogExpire n) s =
      .next (State.declareFailed { s with aon := { s.aon with wdCount := s.aon.wdCount + n, expired := true } }) :=
  (if_neg (by simp [hen])).trans (if_neg (Nat.not_lt.2 hle))

/-- A watchdog that does not run counts nothing. -/
theorem exec_watchdogExpire_of_off {s : State} {n : Nat} (hen : s.aon.wdEn = false) :
    exec (.watchdogExpire n) s = .next s := if_pos (by simp [hen])

/-- Setting EN where it is set changes nothing. -/
theorem exec_watchdogEnable_of_on {s : State} (h : s.aon.wdEn = true) : exec .watchdogEnable s = .next s := by
  have ha : { s.aon with wdEn := true, wdCount := if s.aon.wdEn then s.aon.wdCount else 0 } = s.aon := by
    rw [if_pos h, ← h]
  exact congrArg (fun a : Aon => Host.Outcome.next { s with aon := a }) ha

/-- Setting EN where it is clear starts the watchdog at a count of 0. -/
theorem exec_watchdogEnable_of_off {s : State} (h : s.aon.wdEn = false) :
    exec .watchdogEnable s = .next { s with aon := { s.aon with wdEn := true, wdCount := 0 } } := by
  have ha : (if s.aon.wdEn then s.aon.wdCount else 0) = 0 := if_neg (by simp [h])
  exact congrArg (fun k => Host.Outcome.next { s with aon := { s.aon with wdEn := true, wdCount := k } }) ha

/-- Settles O48: the watchdog and each way to a fence by the branches of its command; a fence's own bit because
nothing that follows writes AON_FENCE, and its effect on work in flight because no map is rebuilt where every context has
a job. -/
theorem faultContainmentCompletes : Obligations.FaultContainmentCompletes := by
  unfold Obligations.FaultContainmentCompletes
  intro s
  refine ⟨fun n => exec_watchdogExpire_of_lt, fun n => exec_watchdogExpire_of_le,
    fun n => exec_watchdogExpire_of_off, rfl, exec_watchdogEnable_of_off, exec_watchdogEnable_of_on,
    fun t => rfl, rfl, fun t h0 hle => if_neg (by omega), fun t h0 => if_pos (.inl h0),
    fun i j => exec_aonFenceWrite_of_bit, fun t => State.fenceTile_of_set,
    fun t ht hf => ⟨fun u => State.fenceTile_fence ht hf, State.fenceTile_stops ht hf⟩⟩

end Sys2Proof.Machine
end


section
/-! A diagnostic replay that reads a bad burst (O49). -/

namespace Sys2Proof.Machine

/-- The record of `pagedRecord` without pages, with its master slot 0 at 65536 and WRITTEN for Milestone 2. -/
def writtenRecord : Bytes :=
  putRec (putRec (putRec (putRec pagedRecord 22 1 0) 24 8 65536) 80 8 2) 96 1 4

/-- A shard map at 1024 with this device, id 0xFFFF, as its one entry and tensor 1 as its one tensor, and the record of
that tensor. -/
def writtenMem : Mem :=
  [(128, writtenRecord), (1024 + 2, [1]), (1024 + 32, leBytes 8 2048), (1024 + 40, leBytes 8 3072), (1024 + 80, [1]),
    (2048, [0xFF, 0xFF]), (3072, [1])].foldl (fun m (p : Nat × Bytes) => memWriteBytes m p.1 p.2) []

/-- The place of a context that has done the work of step 1 under that map and holds the tensor's one fragment, rebuilt
on this device. -/
def workedJob : Job := { mstone := 1, map := some 1024, rebuilt := [(0, [(1, 0)])] }

/-- A context whose step 1 trains nothing any more, with a diagnostic armed for it. -/
def diagCtx : Ctx :=
  { en := { st := .on }, segs := leBytes 8 (2 ^ 63 + 2 ^ 62 + 2 ^ 19), job := some workedJob, deadline := 2,
    switchStep := some 1, recov := { diagAt := 1 } }

/-- A part that is about to arrive under a diagnostic, and in whose HBM one bit of the written master is bad. -/
def badMaster : State :=
  { State.reset with
    ctxs := [(0, diagCtx)]
    hbm := { State.reset.hbm with mem := writtenMem, ecc := [(65536 / 32, .single)] } }

theorem badMaster_mayArrive : badMaster.mayArrive 0 = true := by decide +kernel

/-- WDIGEST meets the bad burst in the master that it reads. -/
theorem corrections_diagnosticReplay_badMaster : corrections (exec (.diagnosticReplay 0) badMaster) = 1 := by
  decide +kernel

/-- Noting a diagnostic's digest and raising its cause reads nothing of HBM. -/
theorem corrections_raise_setRecov (s : State) (c cause subject : Nat) (r : Recov) :
    corrections (.next ((s.setRecov c r).raise c cause subject)) = s.hbm.wbacks.length := by
  unfold State.raise
  dsimp only
  split <;> rfl

/-- Refutes O49: a diagnostic replay reads the written masters under their codes, so a burst of them with one bad bit is
corrected and queued for its write-back (R341, R417); the statement's last clause has DIAGNOSTIC_REPLAY change the
recovery's records alone. -/
theorem not_recoveryCommandsComplete : ¬ Obligations.RecoveryCommandsComplete := by
  intro hall
  obtain ⟨-, -, -, -, -, -, -, -, -, -, -, -, -, hreplay⟩ := hall badMaster 0
  have hsays := congrArg corrections (hreplay badMaster_mayArrive (by decide) rfl)
  rw [corrections_diagnosticReplay_badMaster, corrections_raise_setRecov] at hsays
  exact absurd hsays (by decide)

end Sys2Proof.Machine
end

section
/-! Enables start and stop functions (O50). -/

namespace Sys2Proof.Machine

/-! ### Enables of a tile (16_power_clocks R476) -/

/-- A tile replaced and the other tiles as they were, whatever changes beside the tiles. -/
theorem State.tile_setTile_of_tiles {s u : State} (h : u.tiles = s.tiles) (t : Nat) (x : Tile) :
    (u.setTile t x).tile t = x ∧ ∀ v, v ≠ t → (u.setTile t x).tile v = s.tile v := by
  refine ⟨State.tile_setTile_self .., fun v hv => ?_⟩
  rw [State.tile_setTile, if_neg hv, State.tile, State.tile, h]

/-- The enable of an unfenced OFF tile at READY starts it afresh. -/
theorem State.enableTile_of_off {s : State} {t : Nat} (ht : t < 256) (hstage : s.sec.stage = 9)
    (hfence : s.aon.fence.getLsbD t = false) (hoff : (s.tile t).en.st = .off) :
    s.enableTile t = State.setTile
      { s with pmc := { s.pmc with tileEn := s.pmc.tileEn ||| BitVec.ofNat 256 (2 ^ t) } } t
      (freshTile (s.tile t).en.request) := by
  simp [State.enableTile, Nat.not_le.mpr ht, hstage, hfence, hoff]

theorem State.disableTile_of_lt {s : State} {t : Nat} (ht : t < 256) :
    s.disableTile t = State.setTile
      { s with pmc := { s.pmc with tileEn := s.pmc.tileEn &&& ~~~(BitVec.ofNat 256 (2 ^ t)) } } t
      { s.tile t with en := (s.tile t).en.drop } :=
  if_neg (Nat.not_le.mpr ht)

/-! ### Starts and stops end (16_power_clocks R473, R477, Table 16.6) -/

theorem State.startTile_of_clocked {s : State} {t : Nat} (hstarts : (s.tile t).en.st = .starting)
    (hgroup : bit s.pmc.groupPll (groupOf t) = true) (hfll : (s.tile t).fll = true) :
    let s1 := s.setTile t { s.tile t with en := (s.tile t).en.started, store := [], ecc := [], wbacks := []
                                          level := fld (s.tile t).shapeCtl.toNat 8 4 }
    s.startTile t = s1.ctxs.keys.foldl State.startContext s1 :=
  if_neg (by simp [hstarts, hgroup, hfll])

theorem State.startTile_of_unlocked {s : State} {t : Nat} (hfll : (s.tile t).fll = false) : s.startTile t = s :=
  if_pos (by simp [hfll])

/-- A tile's stop ends once no admitted context's map has it, or it is fenced. -/
theorem State.stopTile_of_free {s : State} {t : Nat} (hstops : (s.tile t).en.st = .stopping)
    (hfree : s.aon.fence.getLsbD t = true ∨ ∀ c ∈ s.ctxs.keys, s.isAdmitted c = true → t ∉ (s.ctx c).map) :
    let s1 := (s.uoa t).held.foldl (fun (st : State) y => st.release y) s
    let s2 : State := { s1 with flight := s1.flight.filter fun f => (s.ctx f.ctx).phys f.vt != some t }
    s.stopTile t = ((s2.setTile t (freshTile (s.tile t).en.stopped)).setUoa t {}).settleDetours := by
  refine if_neg ?_
  rcases hfree with hfenced | hunmapped
  · simp [hstops, hfenced]
  · have hnone : ((s.ctxs.keys.filter s.isAdmitted).any fun c => (s.ctx c).map.contains t) = false := by
      rw [List.any_eq_false]
      intro c hc
      obtain ⟨hkey, hadmitted⟩ := List.mem_filter.mp hc
      simpa using hunmapped c hkey hadmitted
    rw [hnone]
    simp [hstops]

/-! ### Clock sources (16_power_clocks R469) -/

theorem groupOf_lt {t : Nat} (ht : t < 256) : groupOf t < 16 := by
  unfold groupOf
  omega

section Locks
variable {s : State} (hclocked : s.clocked = true)
include hclocked

theorem exec_pllLock_field {f : Nat} (hf : f < 4) (hawake : s.pmc.deepState ≠ 2) : exec (.pllLock (.field f)) s =
    .next { s with pmc := { s.pmc with fieldPll := setFld s.pmc.fieldPll f 1 1 } } :=
  (if_neg (by simp [hclocked])).trans (if_pos ⟨hf, hawake⟩)

theorem exec_pllLock_group {g : Nat} (hg : g < 16) (hawake : s.pmc.deepState ≠ 2) (hbusy : s.groupBusy g = true) :
    exec (.pllLock (.group g)) s =
      .next { s with pmc := { s.pmc with groupPll := setFld s.pmc.groupPll g 1 1 } } :=
  (if_neg (by simp [hclocked])).trans (if_pos ⟨hg, hawake, hbusy⟩)

theorem exec_pllLock_tile {t : Nat} (hgroup : bit s.pmc.groupPll (groupOf t) = true)
    (hstarts : (s.tile t).en.st = .starting) :
    exec (.pllLock (.tile t)) s = .next (s.setTile t { s.tile t with fll := true }) :=
  (if_neg (by simp [hclocked])).trans (if_pos ⟨hgroup, hstarts⟩)

end Locks

/-- Settles O50: a request by its function, an end by whether the tile's clock runs or its contexts have left it. -/
theorem enableCommandsComplete : Obligations.EnableCommandsComplete := by
  intro s hclocked
  have hgo {x y : Res} : (if (!s.clocked) = true then x else y) = y := if_neg (by simp [hclocked])
  refine ⟨fun t ht hstage hfence hoff => ?enabled, fun t ht => ?disabled,
    fun e p => ⟨hgo, hgo, hgo, hgo, hgo, hgo, rfl, rfl, rfl, rfl⟩,
    fun t hstarts hgroup hfll => congrArg _ (State.startTile_of_clocked hstarts hgroup hfll),
    fun t hstarts hfll => congrArg _ (State.startTile_of_unlocked hfll),
    fun t hstops hfree => congrArg _ (State.stopTile_of_free hstops hfree), fun c => ⟨rfl, rfl⟩,
    fun c hadmitted => hgo.trans (if_pos hadmitted),
    fun t f ht hf hawake => ⟨exec_pllLock_field hclocked hf hawake,
      exec_pllLock_group hclocked (groupOf_lt ht) hawake, exec_pllLock_tile hclocked⟩⟩
  case enabled =>
    have hrun : exec (.enableRequest (.tile t)) s = .next (s.enableTile t) := hgo
    rw [State.enableTile_of_off ht hstage hfence hoff] at hrun
    exact ⟨_, hrun, (State.tile_setTile_of_tiles rfl ..).1, (State.tile_setTile_of_tiles rfl ..).2, rfl⟩
  case disabled =>
    have hrun : exec (.disableRequest (.tile t)) s = .next (s.disableTile t) := hgo
    rw [State.disableTile_of_lt ht] at hrun
    exact ⟨_, hrun, (State.tile_setTile_of_tiles rfl ..).1, (State.tile_setTile_of_tiles rfl ..).2, rfl⟩

end Sys2Proof.Machine
end

section
/-! Operating points, tile sleep and deep sleep (O51). -/

namespace Sys2Proof.Machine

/-! ### Operating points (16_power_clocks R470, R471) -/

section Points
variable {s : State} (hclocked : s.clocked = true)
include hclocked

/-- A slower point is taken at once. -/
theorem exec_dvfsChange_of_slower (hslower : s.pmc.point < s.pmc.required) :
    exec .dvfsChange s = .next (s.setPoint s.pmc.required) :=
  (if_neg (by simp [hclocked])).trans (if_pos hslower)

/-- For a faster point the VID code goes first. -/
theorem exec_dvfsChange_of_faster (hfaster : s.pmc.required < s.pmc.point) (hidle : s.pmc.raising = none) :
    exec .dvfsChange s = .next { s with pmc := { s.pmc with
      raising := some s.pmc.required, vid := vidCode s.pmc.required } } := by
  have hrun : exec .dvfsChange s = execDvfsChange s := rfl
  simp [hrun, execDvfsChange, hclocked, hidle, hfaster, Nat.not_lt.mpr hfaster.le]

/-- A raise whose aim has become too fast turns to the slower aim (log 87). -/
theorem exec_dvfsChange_of_reaimed {a : Nat} (hraising : s.pmc.raising = some a) (hslower : a < s.pmc.required)
    (hfaster : s.pmc.required < s.pmc.point) : exec .dvfsChange s = .next { s with pmc := { s.pmc with
      raising := some s.pmc.required, vid := vidCode s.pmc.required } } := by
  have hrun : exec .dvfsChange s = execDvfsChange s := rfl
  simp [hrun, execDvfsChange, hclocked, hraising, hslower, hfaster.ne, Nat.not_lt.mpr hfaster.le]

theorem exec_dvfsChange_of_ended {a : Nat} (hraising : s.pmc.raising = some a) (hthere : s.pmc.required = s.pmc.point) :
    exec .dvfsChange s = .next { s with pmc := { s.pmc with raising := none, vid := vidCode s.pmc.point } } := by
  have hrun : exec .dvfsChange s = execDvfsChange s := rfl
  simp [hrun, execDvfsChange, hclocked, hraising, hthere]

theorem exec_vrSettleExpire_of_raising {r : Nat} (hraising : s.pmc.raising = some r) :
    exec .vrSettleExpire s = .next (s.setPoint r) := by
  have hrun : exec .vrSettleExpire s = execVrSettleExpire s := rfl
  simp [hrun, execVrSettleExpire, hraising, hclocked]

end Points

theorem exec_vrSettleExpire_of_none {s : State} (hidle : s.pmc.raising = none) : exec .vrSettleExpire s = .next s := by
  have hrun : exec .vrSettleExpire s = execVrSettleExpire s := rfl
  simp [hrun, execVrSettleExpire, hidle]

/-! ### Tile sleep (16_power_clocks R473, R474) -/

theorem exec_tileRetain_of_stopped {s : State} {t : Nat} (hon : (s.tile t).en.st = .on)
    (hstopped : (s.tile t).sub = .clockStopped) :
    let s1 := s.setTile t { s.tile t with sub := .retained }
    exec (.tileRetain t) s = .next (if s1.groupBusy (groupOf t) then s1
      else { s1 with pmc := { s1.pmc with groupPll := setFld s1.pmc.groupPll (groupOf t) 1 0 } }) := by
  have hrun : exec (.tileRetain t) s = execTileRetain t s := rfl
  simp only [hrun, execTileRetain, hon, hstopped]
  exact (if_neg (by decide)).trans (apply_ite _ _ _ _).symm

/-- The tile that wakes. -/
def Tile.awake (x : Tile) : Tile := { x with sub := .run, fll := true, level := fld x.shapeCtl.toNat 8 4 }

/-- The part with a tile in RUN, its group's PLL running, and the time of the wake drawn. -/
def State.woken (s : State) (t : Nat) : State :=
  { s.setTile t (s.tile t).awake with
    pmc := { s.pmc with groupPll := setFld s.pmc.groupPll (groupOf t) 1 1 }, free := s.free + 1 }

theorem State.wakeTile_of_sleeping {s : State} {t : Nat} (hon : (s.tile t).en.st = .on) (hsleeps : (s.tile t).sub ≠ .run) :
    s.wakeTile t = ((s.woken t).evTile 0x01E t).evTile 0x01F t (Config.freeNat s.free) :=
  if_neg (by simpa [hon] using hsleeps)

/-- An event at a tile leaves the other tiles as they were. -/
theorem State.tile_evTile_of_ne (s : State) (e n : Nat) {t v : Nat} (hne : v ≠ t) :
    (s.evTile e t n).tile v = s.tile v := by
  unfold State.evTile State.ev
  split
  · rw [State.tile_setTile, if_neg hne]
    rfl
  · rfl

/-- An event at a tile leaves its sleep, its clock and its store as they were. -/
theorem State.tile_evTile_self (s : State) (e n t : Nat) : ((s.evTile e t n).tile t).sub = (s.tile t).sub ∧
    ((s.evTile e t n).tile t).fll = (s.tile t).fll ∧ ((s.evTile e t n).tile t).store = (s.tile t).store := by
  have hrest := s.ev_tile e t (s.tileOwner t) n t
  exact ⟨(congrArg Tile.sub hrest :), (congrArg Tile.fll hrest :), (congrArg Tile.store hrest :)⟩

@[simp] theorem State.evTile_pmc (s : State) (e t n : Nat) : (s.evTile e t n).pmc = s.pmc := State.ev_pmc ..

theorem exec_tileWake_of_sleeping {s : State} {t : Nat} (hclocked : s.clocked = true) (hawake : s.pmc.deepState ≠ 2)
    (hon : (s.tile t).en.st = .on) (hsleeps : (s.tile t).sub ≠ .run) :
    ∃ u, exec (.tileWake t) s = .next u ∧ (u.tile t).sub = .run ∧ (u.tile t).fll = true ∧
      (u.tile t).store = (s.tile t).store ∧ bit u.pmc.groupPll (groupOf t) = true ∧
      ∀ v, v ≠ t → u.tile v = s.tile v := by
  have hself : (s.woken t).tile t = (s.tile t).awake := Tbl.get_set_self ..
  have hrun : exec (.tileWake t) s = .next (s.wakeTile t) := if_pos (by simpa [hclocked] using hawake)
  rw [State.wakeTile_of_sleeping hon hsleeps] at hrun
  refine ⟨_, hrun, ?_, ?_, ?_, ?_, fun v hv => ?_⟩
  · simp only [State.tile_evTile_self, hself, Tile.awake]
  · simp only [State.tile_evTile_self, hself, Tile.awake]
  · simp only [State.tile_evTile_self, hself, Tile.awake]
  · simp only [State.evTile_pmc]
    exact bit_setFld_one ..
  · rw [State.tile_evTile_of_ne _ _ _ hv, State.tile_evTile_of_ne _ _ _ hv]
    exact Tbl.get_set_ne _ _ _ hv

/-! ### Deep sleep (16_power_clocks R475) -/

theorem exec_deepSleepEnter_of_ready {s : State} (hclocked : s.clocked = true) (hstage : s.sec.stage = 9)
    (hasked : s.pmc.deep = true) (hawake : s.pmc.deepState < 2) (hready : s.sleepReady = true) :
    ∃ u, exec .deepSleepEnter s = .next u ∧ u.pmc = { s.pmc with deepState := 2, fieldPll := 0, groupPll := 0 } ∧
      (∀ n x, Tbl.find s.hbm.stackTbl n = some x → x.st = .active → u.stack n = { x with st := .selfRefresh }) ∧
      u.hbm.mem = s.hbm.mem := by
  refine ⟨_, if_neg (by simp [hclocked, hstage, hasked, hready, Nat.not_le.mpr hawake]), rfl, fun n x hx hactive => ?_,
    rfl⟩
  simp [State.stack, Tbl.get, Tbl.find_mapv, hx, hactive]

/-- Settles O51: a change of point by its direction, a tile by its sleep, deep sleep by its conditions. -/
theorem clockCommandsComplete : Obligations.ClockCommandsComplete := by
  intro s k
  refine ⟨exec_dvfsChange_of_slower, exec_dvfsChange_of_faster,
    fun a hclocked => exec_dvfsChange_of_reaimed hclocked, fun a hclocked => exec_dvfsChange_of_ended hclocked,
    fun r hclocked => exec_vrSettleExpire_of_raising hclocked, exec_vrSettleExpire_of_none,
    fun p => State.ev_pmc .., fun t hruns hquiet => if_pos (by simp [hruns, hquiet]),
    fun t hbusy => if_neg (by simp [hbusy]), fun t => exec_tileRetain_of_stopped, fun t => exec_tileWake_of_sleeping,
    exec_deepSleepEnter_of_ready, fun hexit => if_pos hexit⟩

end Sys2Proof.Machine
end

section
/-! The inputs of the board and the rails (O52). -/

namespace Sys2Proof.Machine

/-! ### Levels and their acceptance (16_power_clocks R478, R479; 20_electrical_package R546) -/

section Powered
variable {s : State} (haon : s.pmc.aon = true)
include haon

theorem exec_boardInputLevelChange_throttle (level : Bool) :
    exec (.boardInputLevelChange false level) s = .next { s with pmc := { s.pmc with
      thr := { s.pmc.thr with level := level }
      thrGlitch := if s.pmc.thr.level ≠ level ∧ level = s.pmc.thr.accepted then satInc 16 s.pmc.thrGlitch
        else s.pmc.thrGlitch } } := by
  have hrun : exec (.boardInputLevelChange false level) s = execBoardInputLevelChange false level s := rfl
  simp [hrun, execBoardInputLevelChange, haon]

theorem exec_boardInputLevelChange_reset (level : Bool) : exec (.boardInputLevelChange true level) s =
    .next { s with pmc := s.pmc.resetGlitch { s.pmc with rst := { s.pmc.rst with level := level } } } :=
  (if_neg (by simp [haon])).trans (if_pos rfl)

/-- The new level of THROTTLE_N accepted. -/
def Pmc.throttleAccepted (k : Pmc) (len : Nat) : Pmc :=
  { k with thr := { k.thr with accepted := k.thr.level }
           thrTime := if k.thr.level then min (len / 2 ^ 14) (2 ^ 31 - 1) else 0 }

theorem exec_throttleNAccept_of_changed (len : Nat) (hchanged : s.pmc.thr.level ≠ s.pmc.thr.accepted) :
    exec (.throttleNAccept len) s = .next { s with pmc :=
      if s.pmc.stopped then (s.pmc.throttleAccepted len).heldVid else s.pmc.throttleAccepted len } :=
  if_neg (by simp [haon, hchanged])

/-- A watched rail below its threshold, or back. -/
theorem exec_undervoltage_of_watched {rail : Nat} (hrail : rail < 6) (below : Bool) :
    exec (.undervoltage rail below) s = .next { s with pmc := s.pmc.resetGlitch { s.pmc with
      low := if below then s.pmc.low.filter (· != rail) ++ [rail] else s.pmc.low.filter (· != rail) } } :=
  if_neg (by simp [haon, hrail])

/-! ### RESET_N and the rails (16_power_clocks R480; 20_electrical_package R548, R549) -/

theorem exec_resetNAssert_of_low (haccepted : s.pmc.rst.accepted = true) (hlow : s.pmc.resetLevel = false) :
    exec .resetNAssert s = .next { s.chipReset with pmc := { s.chipReset.pmc with
      rst := { s.chipReset.pmc.rst with accepted := false } } } :=
  if_neg (by simp [haon, haccepted, hlow])

/-- Losing VDD_AON while another rail is up is a breach of the board's duties (log 105). -/
theorem exec_vddAonRemoved_of_early (hup : ∃ r, r < 6 ∧ r ∉ s.pmc.low) :
    exec .vddAonRemoved s = .fault .boardBreach := by
  obtain ⟨r, hr, habove⟩ := hup
  have hall : (List.range 6).all s.pmc.low.contains = false := by
    rw [List.all_eq_false]
    exact ⟨r, List.mem_range.mpr hr, by simpa using habove⟩
  exact if_pos (by rw [haon, hall]; rfl)

end Powered

theorem exec_vddAonRemoved_of_last (hlast : ∀ r, r < 6 → r ∈ s.pmc.low) : exec .vddAonRemoved s = .next s.dead := by
  have hall : (List.range 6).all s.pmc.low.contains = true := by
    rw [List.all_eq_true]
    exact fun r hr => by simpa using hlast r (List.mem_range.mp hr)
  exact if_neg (by rw [hall]; simp)

theorem exec_powerOn_of_off {s : State} (addr : Nat) (h : s.pmc.powered = false) :
    exec (.powerOn addr) s = .next { s.dead with pmc := { s.dead.pmc with
      aon := true, powered := true, smbAddr := addr % 4, vid := 0 } } :=
  if_neg (ne_true_of_eq_false h)

/-- Settles O52: each input and rail by its guard; the reset by what it takes from the part and what from the reset
state. -/
theorem boardInputsComplete : Obligations.BoardInputsComplete := by
  intro s k
  refine ⟨fun level haon => exec_boardInputLevelChange_throttle haon level,
    fun level haon => exec_boardInputLevelChange_reset haon level, fun len haon hchanged => ⟨fun hruns => ?runs,
      fun hstopped => ?stopped⟩, fun rail haon hrail => ⟨exec_undervoltage_of_watched haon hrail true,
      exec_undervoltage_of_watched haon hrail false⟩,
    fun haon haccepted hlow => ⟨_, exec_resetNAssert_of_low haon haccepted hlow, rfl, rfl, rfl, rfl, rfl, rfl, rfl, rfl,
      rfl, rfl, rfl, rfl⟩, exec_powerOn_of_off, fun _ => exec_vddAonRemoved_of_last,
      exec_vddAonRemoved_of_early, rfl, rfl, rfl⟩
  case runs =>
    have hsame : (if k.stopped = true then (k.throttleAccepted len).heldVid else k.throttleAccepted len) =
        k.throttleAccepted len := if_neg (ne_true_of_eq_false hruns)
    exact (exec_throttleNAccept_of_changed haon len hchanged).trans
      (congrArg (fun n => Host.Outcome.next { s with pmc := n }) hsame)
  case stopped =>
    have hheld : (if k.stopped = true then (k.throttleAccepted len).heldVid else k.throttleAccepted len) =
        (k.throttleAccepted len).heldVid := if_pos hstopped
    exact (exec_throttleNAccept_of_changed haon len hchanged).trans
      (congrArg (fun n => Host.Outcome.next { s with pmc := n }) hheld)

end Sys2Proof.Machine
end

section
/-! Thermal samples and the trip (O53). -/

namespace Sys2Proof.Machine

/-! ### Samples (16_power_clocks R482 to R484) -/

/-- A table of the first `n` keys holds the values that it is made of. -/
theorem find_map_range {α : Type} (f : Nat → α) {n i : Nat} (hi : i < n) :
    Tbl.find ((List.range n).map fun j => (j, f j)) i = some (f i) := by
  induction n generalizing f i with
  | zero => exact absurd hi (Nat.not_lt_zero i)
  | succ n ih =>
    rw [List.range_succ_eq_map, List.map_cons, Tbl.find]
    cases i with
    | zero => simp
    | succ i =>
      have hshift : Tbl.find ((List.map Nat.succ (List.range n)).map fun j => (j, f j)) (i + 1) = some (f (i + 1)) := by
        have hkeys (l : List Nat) : Tbl.find ((l.map Nat.succ).map fun j => (j, f j)) (i + 1) =
            Tbl.find (l.map fun j => (j, f (j + 1))) i := by
          induction l with
          | nil => rfl
          | cons j l ihl => simp only [List.map_cons, Tbl.find, Nat.succ_eq_add_one, Nat.add_right_cancel_iff, ihl]
        rw [hkeys]
        exact ih (fun j => f (j + 1)) (Nat.lt_of_succ_lt_succ hi)
      simpa using hshift

theorem State.pmc_foldl_setStack (f : State → Nat → Stack) (l : List Nat) (s : State) :
    (l.foldl (fun st i => st.setStack i (f st i)) s).pmc = s.pmc :=
  foldl_keeps State.pmc (f := fun st i => st.setStack i (f st i)) (fun _ _ => rfl) l s

/-- The stacks named take their temperatures, and the others keep theirs. -/
theorem State.temp_foldl_setStack (v : Nat → Nat) (n : Nat) (l : List Nat) (s : State) :
    ((l.foldl (fun (st : State) i => st.setStack i { st.stack i with temp := v i }) s).stack n).temp =
      if n ∈ l then v n else (s.stack n).temp := by
  induction l generalizing s with
  | nil => simp
  | cons i l ih =>
    rw [List.foldl_cons, ih, State.stack_setStack]
    by_cases hl : n ∈ l
    · rw [if_pos hl, if_pos (List.mem_cons_of_mem i hl)]
    · rw [if_neg hl]
      by_cases hi : n = i
      · rw [if_pos hi, if_pos (hi ▸ List.mem_cons_self), hi]
      · rw [if_neg hi, if_neg (by simp [hi, hl])]

/-- An event that may or may not be counted leaves the power block and the stacks. -/
theorem State.pmc_ite_ev (p : Prop) [Decidable p] (s : State) (e u : Nat) (l : List Nat) :
    (if p then s else s.ev e u l).pmc = s.pmc := by
  split
  · rfl
  · exact State.ev_pmc ..

theorem State.stack_ite_ev (p : Prop) [Decidable p] (s : State) (e u : Nat) (l : List Nat) (n : Nat) :
    (if p then s else s.ev e u l).stack n = s.stack n := by
  split
  · rfl
  · rw [State.stack, State.stack, State.ev_hbm]

/-! ### The trip (16_power_clocks R484) -/

theorem exec_thermalTrip_of_due {s : State} (hdue : s.pmc.tripDue = true) (hfirst : s.pmc.trip = false) :
    ∃ t, exec .thermalTrip s = .next t ∧ t.pmc.trip = true ∧ t.pmc.stopped = true ∧ t.tiles = [] ∧
      t.host.link = false ∧ ∀ p x, Tbl.find t.fab.ports p = some x → x.up = false ∧ x.en = {} := by
  have hrun : exec .thermalTrip s = execThermalTrip s := rfl
  have hgo : ¬ ((!s.pmc.tripDue || s.pmc.trip) = true) := by simp [hdue, hfirst]
  refine ⟨_, hrun.trans (if_neg hgo), rfl, rfl, rfl, rfl, fun p x hx => ?_⟩
  dsimp only at hx
  rw [Tbl.find_mapv, Option.map_eq_some_iff] at hx
  obtain ⟨y, -, rfl⟩ := hx
  exact ⟨rfl, rfl⟩

/-- Settles O53: what a sample writes, register by register, and a trip by whether it is due and is the first. -/
theorem thermalCommandsComplete : Obligations.ThermalCommandsComplete := by
  intro s k
  refine ⟨fun raw stackTemps w10 w1 haon hpowered => ?sample, exec_thermalTrip_of_due, fun htripped => ?tripped⟩
  case sample =>
    refine ⟨_, if_neg (by simp [show s.pmc.aon = true from haon, show s.pmc.powered = true from hpowered]), ?_⟩
    simp only [State.pmc_ite_ev, State.stack_ite_ev, State.pmc_foldl_setStack, State.temp_foldl_setStack]
    refine ⟨fun i v hv => ?_, trivial, trivial, ?_, rfl, rfl, trivial, trivial, fun n hn => ?_⟩
    · have hi : i < 20 := by
        by_contra hout
        simp [Nat.not_lt.mp hout] at hv
      rw [find_map_range _ hi, hv]
      rfl
    · simp [k, and_assoc]
    · exact if_pos (List.mem_range.mpr hn)
  case tripped => exact if_pos (by simp [show s.pmc.trip = true from htripped])

end Sys2Proof.Machine
end

section
/-! The board bus, snapshots and the trace (O54), and ECHO (O55). -/

namespace Sys2Proof.Machine

/-! ### SMBus transfers (16_power_clocks R485) -/

/-- The answer to a read: its data and their packet error code. -/
def State.smbReply (s : State) (code : Byte) (data : Bytes) : State :=
  s.emit (.smbus (data ++ [pecOf ([s.pmc.smbByte false, code, s.pmc.smbByte true] ++ data)]))

theorem State.smbRead_of_answers {s : State} (h : s.pmc.answers = true) (code : Byte) (data : Bytes) :
    s.smbRead code data = s.smbReply code data := by
  simp [State.smbRead, State.smbReply, h]

theorem State.smbRead_of_silent {s : State} (h : s.pmc.answers = false) (code : Byte) (data : Bytes) :
    s.smbRead code data = s := by
  simp [State.smbRead, h]

theorem exec_boardLimitWrite (v : Nat) (pec : Byte) (s : State) : exec (.boardLimitWrite v pec) s =
    if s.pmc.pecOk 0x05 (leBytes 2 v) pec then .next { s with pmc := { s.pmc with boardLimit := v % 65536 } }
    else .next s := rfl

/-- A block write of ECHO of 1 to 32 bytes, by whether its code checks (18_test_calibration R518). -/
theorem exec_echoWrite_of_block {data : Bytes} (hlow : 1 ≤ data.length) (hhigh : data.length ≤ 32) (pec : Byte)
    (s : State) : exec (.echoWrite data pec) s =
      if s.pmc.pecOk 0x06 (smbBlock data) pec then .next { s with pmc := { s.pmc with echo := data } } else .next s := by
  have hrun : exec (.echoWrite data pec) s = execEchoWrite data pec s := rfl
  simp [hrun, execEchoWrite, hlow, hhigh]

/-! ### The trace (17_counters_trace R504, R511) -/

/-- CNT_TRC_CTL written with EN holds EN. -/
theorem State.writeTrcCtl_enabled (s : State) {v : W64} (hen : bit v.toNat 63 = true) :
    bit (s.writeTrcCtl v).cnt.trcCtl.toNat 63 = true := by
  simp only [State.writeTrcCtl, bit_eq_testBit] at hen ⊢
  rw [BitVec.toNat_ofNat, Nat.testBit_mod_two_pow]
  simp [testBit_setFld, hen]

/-- Setting EN while it was clear starts the ring at its beginning. -/
theorem State.writeTrcCtl_start {s : State} {v : W64} (hen : bit v.toNat 63 = true)
    (hoff : bit s.cnt.trcCtl.toNat 63 = false) : (s.writeTrcCtl v).cnt.head = 0 ∧ (s.writeTrcCtl v).cnt.tail = 0 := by
  simp [State.writeTrcCtl, hen, hoff]

theorem State.writeTrcCtl_rest (s : State) (v : W64) : { s.writeTrcCtl v with cnt := s.cnt } = s := by
  have hcnt : ∃ k, s.writeTrcCtl v = { s with cnt := k } := ⟨_, rfl⟩
  obtain ⟨k, hk⟩ := hcnt
  rw [hk]

theorem exec_traceEnable (v : W64) (s : State) :
    exec (.traceEnable v) s = .next (s.writeTrcCtl (v ||| BitVec.ofNat 64 (2 ^ 63))) := rfl

theorem bit_or_en (v : W64) : bit (v ||| BitVec.ofNat 64 (2 ^ 63)).toNat 63 = true := by
  have hmask : (BitVec.ofNat 64 (2 ^ 63)).toNat = 2 ^ 63 := by simp
  rw [bit_eq_testBit, BitVec.toNat_or, Nat.testBit_or, hmask, Nat.testBit_two_pow_self, Bool.or_true]

theorem exec_traceEnable_of_off {s : State} (v : W64) (hoff : bit s.cnt.trcCtl.toNat 63 = false) :
    ∃ t, exec (.traceEnable v) s = .next t ∧ bit t.cnt.trcCtl.toNat 63 = true ∧ t.cnt.head = 0 ∧ t.cnt.tail = 0 ∧
      { t with cnt := s.cnt } = s := by
  have hen := bit_or_en v
  obtain ⟨hhead, htail⟩ := State.writeTrcCtl_start hen hoff
  exact ⟨_, exec_traceEnable v s, s.writeTrcCtl_enabled hen, hhead, htail, s.writeTrcCtl_rest _⟩

/-- Settles O54: a read by whether the target answers, a write by whether its code checks. -/
theorem boardBusAndCountersComplete : Obligations.BoardBusAndCountersComplete := by
  refine ⟨fun s => ⟨fun hup => ?answered, fun hdown => ?silent, fun v pec => ⟨fun hgood => ?limit, fun hbad => ?noLimit⟩,
    fun data pec hlow hhigh => ⟨fun hgood => ?echo, fun hbad => ?noEcho⟩⟩, fun s => ⟨rfl, fun v => exec_traceEnable_of_off v⟩⟩
  case answered =>
    have hreads (code : Byte) (data : Bytes) := congrArg (Host.Outcome.next (φ := Fault) (ρ := Refusal))
      (State.smbRead_of_answers hup code data)
    exact ⟨hreads .., hreads .., hreads .., hreads .., hreads .., hreads .., hreads ..⟩
  case silent =>
    have hreads (code : Byte) (data : Bytes) := congrArg (Host.Outcome.next (φ := Fault) (ρ := Refusal))
      (State.smbRead_of_silent hdown code data)
    exact ⟨hreads .., hreads .., hreads .., hreads .., hreads .., hreads .., hreads ..⟩
  case limit => rw [exec_boardLimitWrite, if_pos hgood]
  case noLimit => rw [exec_boardLimitWrite, if_neg (ne_true_of_eq_false hbad)]
  case echo => rw [exec_echoWrite_of_block hlow hhigh, if_pos hgood]
  case noEcho => rw [exec_echoWrite_of_block hlow hhigh, if_neg (ne_true_of_eq_false hbad)]

/-! ### ECHO (18_test_calibration R518) -/

theorem exec_echoRead_of_answers {s : State} (h : s.pmc.answers = true) :
    exec .echoRead s = .next (s.smbReply 0x06 (smbBlock s.pmc.echo)) :=
  congrArg _ (State.smbRead_of_answers h _ _)

theorem Pmc.pecOk_iff {p : Pmc} (hup : p.answers = true) (code : Byte) (data : Bytes) (pec : Byte) :
    p.pecOk code data pec = true ↔ pec = pecOf ([p.smbByte false, code] ++ data) := by
  simp [Pmc.pecOk, hup]

/-- Settles O55: a block whose code checks is stored and read back, and any other is not stored. -/
theorem echoStoresAndReturns : Obligations.EchoStoresAndReturns := by
  intro s sum
  refine ⟨fun data pec hup hlow hhigh => ⟨fun hgood => ?stored, fun hbad => ?ignored⟩,
    fun hup => ⟨_, _, exec_echoRead_of_answers hup, rfl⟩, fun addr hoff => ⟨_, exec_powerOn_of_off addr hoff, rfl⟩⟩
  case stored =>
    have hcheck : s.pmc.pecOk 0x06 (smbBlock data) pec = true := (Pmc.pecOk_iff hup _ _ _).mpr hgood
    have hwrite := (exec_echoWrite_of_block hlow hhigh pec s).trans (if_pos hcheck)
    exact ⟨_, _, hwrite, rfl, rfl, rfl, exec_echoRead_of_answers hup, _, rfl⟩
  case ignored =>
    exact (exec_echoWrite_of_block hlow hhigh pec s).trans
      (if_neg fun hcheck => hbad ((Pmc.pecOk_iff hup _ _ _).mp hcheck))

end Sys2Proof.Machine
end


section
/-! Loop-backs and background calibration (O56). -/

namespace Sys2Proof.Machine

/-! ### Loop-backs of ports (18_test_calibration R514) -/

/-- A port that begins to stop changes the fabric and what goes out, and nothing else. -/
@[simp] theorem State.dropPort_offLine (s : State) (p : Nat) : (s.dropPort p).offLine = s.offLine := by
  unfold State.dropPort
  dsimp only
  split
  · exact State.sendHello_offLine ..
  · rfl

/-- A port that begins to stop keeps the loop-back registers. -/
theorem State.dropPort_lb (s : State) (p n : Nat) : (s.dropPort p).lb n = s.lb n := by
  have h := congrArg (fun x : State => x.lb n) (State.dropPort_offLine s p)
  exact h

@[simp] theorem State.setLb_lb (s : State) (n : Nat) (x : LoopBack) : (s.setLb n x).lb n = x :=
  Tbl.get_set_self ..

/-- A run that begins holds the port that it takes: RUN is set, and whether the port starts again is noted. -/
theorem State.writePortLb_lb {s : State} {n v : Nat} (hn : n < 25) (hs : s.sec.stage = 9) (hv : bit v 63 = true)
    (hr : (s.lb n).run = false) :
    let en := if n = 24 then s.host.en else (s.port n).en
    (s.writePortLb n v).lb n =
      { s.lb n with depth := fld v 58 2, dur := fld v 53 5, run := true, done := false,
                    want := en.wants, waits := en.st != .off, runDepth := fld v 58 2 } := by
  have hc : ¬ (!bit v 63 || (s.lb n).run || s.sec.stage != 9) = true := by simp [hv, hr, hs]
  unfold State.writePortLb
  dsimp only
  rw [if_neg (by omega), if_neg hc]
  split
  · exact State.setLb_lb ..
  · rw [State.dropPort_lb, State.setLb_lb]

/-- A run that ends on a port that is free: DONE, with its errors, none at depth 3, and the port starts again when its
enable was asked for. -/
theorem exec_portLoopbackEnd_of_run {s : State} {n : Nat} (errors : Nat) (hr : (s.lb n).run = true)
    (hw : (s.lb n).waits = false) :
    let l := s.lb n
    let s1 := s.setLb n { l with run := false, done := true, want := false,
                                 errors := if l.runDepth = 3 then 0 else min errors (2 ^ 32 - 1) }
    (l.want = false → exec (.portLoopbackEnd n errors) s = .next s1) ∧
    (l.want = true → n = 24 → exec (.portLoopbackEnd n errors) s = .next (s1.startHost { st := .starting })) ∧
    (l.want = true → n ≠ 24 → exec (.portLoopbackEnd n errors) s =
      .next (s1.setPort n (s1.freshPort n { st := .starting }))) := by
  have he : exec (.portLoopbackEnd n errors) s = execPortLoopbackEnd n errors s := rfl
  have hc : ¬ (!(s.lb n).run || (s.lb n).waits) = true := by simp [hr, hw]
  rw [he]
  unfold execPortLoopbackEnd
  dsimp only
  rw [if_neg hc]
  refine ⟨fun h => if_pos (by simp [h]), fun h hn => ?_, fun h hn => ?_⟩
  · rw [if_neg (by simp [h]), if_pos hn]
  · rw [if_neg (by simp [h]), if_neg hn]

/-! ### Loop-backs of stacks and of the mesh (18_test_calibration R516, R517) -/

@[simp] theorem State.setHbmLb_hbmLb (s : State) (k : Nat) (x : LoopBack) : (s.setHbmLb k x).hbmLb k = x :=
  Tbl.get_set_self ..

@[simp] theorem State.setStack_stack (s : State) (k : Nat) (x : Stack) : (s.setStack k x).stack k = x :=
  Tbl.get_set_self ..

/-- RUN on a usable or a lost stack is refused. -/
theorem State.writeHbmLb_of_usable {s : State} {k v : Nat} (hk : k < 12) (hv : bit v 63 = true)
    (hr : (s.hbmLb k).run = false) (hu : bit s.hbm.layout.toNat (25 + k) = true ∨ (s.stack k).st = .lost) :
    s.writeHbmLb k v = s.setHbmLb k { s.hbmLb k with depth := fld v 59 2, refused := true } := by
  have hc : ¬ (!bit v 63 || (s.hbmLb k).run) = true := by simp [hv, hr]
  have hd : (bit s.hbm.layout.toNat (25 + k) || (s.stack k).st == .lost) = true := by simpa using hu
  unfold State.writeHbmLb
  dsimp only
  rw [if_neg (by omega), if_neg hc, if_pos hd]

/-- RUN on a stack that the layout leaves out begins a run, which holds an active stack in self-refresh except at
depth 3. -/
theorem State.writeHbmLb_of_free {s : State} {k v : Nat} (hk : k < 12) (hv : bit v 63 = true)
    (hr : (s.hbmLb k).run = false) (hu : bit s.hbm.layout.toNat (25 + k) = false) (hl : (s.stack k).st ≠ .lost) :
    ((s.writeHbmLb k v).hbmLb k).run = true ∧
      (fld v 59 2 ≠ 3 → (s.stack k).st = .active → ((s.writeHbmLb k v).stack k).st = .selfRefresh) := by
  have hc : ¬ (!bit v 63 || (s.hbmLb k).run) = true := by simp [hv, hr]
  have hd : ¬ (bit s.hbm.layout.toNat (25 + k) || (s.stack k).st == .lost) = true := by simp [hu, hl]
  unfold State.writeHbmLb
  dsimp only
  rw [if_neg (by omega), if_neg hc, if_neg hd]
  refine ⟨?_, fun h3 ha => ?_⟩
  · split
    · exact congrArg LoopBack.run (State.setHbmLb_hbmLb ..)
    · exact congrArg LoopBack.run (State.setHbmLb_hbmLb ..)
  · rw [if_pos ⟨h3, ha⟩, State.setStack_stack]

/-- RUN of the mesh begins a run between two tiles that it may use, and only between such. -/
theorem State.writeMeshLb_run {s : State} {v : Nat} (hv : bit v 63 = true) (hr : s.tst.mesh.run = false) :
    (s.writeMeshLb v).tst.mesh.run = (s.loopTile (fld v 40 8) && s.loopTile (fld v 32 8)) := by
  have hc : ¬ (!bit v 63 || s.tst.mesh.run) = true := by simp [hv, hr]
  unfold State.writeMeshLb
  dsimp only
  rw [if_neg hc]
  cases s.loopTile (fld v 40 8) && s.loopTile (fld v 32 8) with
  | true => rfl
  | false => exact hr

/-- A run of a stack ends with its errors; after a DRAM loop-back the stack is trained, and after any other what stands
in the stacks left out stays. -/
theorem exec_hbmLoopbackEnd_of_run {s : State} {k : Nat} (errors : Nat) (hr : (s.hbmLb k).run = true) :
    ∃ t, exec (.hbmLoopbackEnd k errors) s = .next t ∧
      t.hbmLb k = { s.hbmLb k with run := false, done := true, errors := min errors (2 ^ 32 - 1) } ∧
      ((s.hbmLb k).runDepth = 3 → t.stack k = { s.stack k with st := .training }) ∧ t.hbm.mem = s.hbm.mem ∧
      ((s.hbmLb k).runDepth ≠ 3 → t.hbm.aside = s.hbm.aside) := by
  refine ⟨_, if_neg (by simp [hr]), ?_⟩
  by_cases h3 : (s.hbmLb k).runDepth = 3
  · rw [if_pos h3, if_pos h3]
    exact ⟨State.setHbmLb_hbmLb .., fun _ => State.setStack_stack .., rfl, fun h => absurd h3 h⟩
  · rw [if_neg h3, if_neg h3]
    exact ⟨State.setHbmLb_hbmLb .., fun h => absurd h h3, rfl, fun _ => rfl⟩

/-! ### Background calibration (18_test_calibration R519 to R523) -/

/-- A step of the read timing moves the delay of one byte by one and no other delay. -/
theorem exec_hbmReadEyeStep_of_thawed {s : State} {k pc byte : Nat} (up : Bool) (margin at_ : Nat)
    (hf : s.tst.frozen 0 = false) (hk : k < 12) (ha : (s.stack k).st = .active) (hb : byte < 32) (hp : pc < 32) :
    ∃ t, exec (.hbmReadEyeStep k pc byte up margin at_) s = .next t ∧
      Tbl.get 0 t.tst.delays (1024 * k + 32 * pc + byte) =
        Tbl.get 0 s.tst.delays (1024 * k + 32 * pc + byte) + (if up then 1 else -1) ∧
      (∀ i, i ≠ 1024 * k + 32 * pc + byte → Tbl.get 0 t.tst.delays i = Tbl.get 0 s.tst.delays i) ∧
      { t with tst := s.tst } = s := by
  refine ⟨_, if_neg (by simp [hf, ha]; omega), ?_⟩
  rw [Nat.mod_eq_of_lt hb, Nat.mod_eq_of_lt hp]
  refine ⟨?_, fun i hi => Tbl.get_set_ne _ _ _ hi, rfl⟩
  rw [Tbl.get_set_self]
  cases up <;> rfl

/-- A step of a lane leaves its setting, and changes the test block alone. -/
theorem exec_serdesAdaptStep_of_thawed {s : State} {n lane : Nat} (setting eye : Nat) (conv : Bool)
    (hf : s.tst.frozen 1 = false) (hl : lane < 4) (ha : s.adapts n = true) :
    ∃ t, exec (.serdesAdaptStep n lane setting eye conv) s = .next t ∧
      Tbl.find t.tst.adapt (4 * n + lane) = some setting ∧ { t with tst := s.tst } = s := by
  refine ⟨_, if_neg (by simp [hf, ha, hl]), ?_, rfl⟩
  rw [Tbl.find_set, if_pos rfl]

/-- A droop threshold moves by one toward its aim in a calm group, or is set to it after a change of operating
point. -/
theorem exec_droopThresholdStep_of_calm {s : State} {g code : Nat} (hf : s.tst.frozen 2 = false) (hg : g < 16)
    (hq : s.calmGroup g = true) (hb : code < 256) :
    ((s.droop g).thresh < code → exec (.droopThresholdStep g code false) s =
      .next (s.setDroop g { s.droop g with thresh := (s.droop g).thresh + 1 })) ∧
    (code < (s.droop g).thresh → exec (.droopThresholdStep g code false) s =
      .next (s.setDroop g { s.droop g with thresh := (s.droop g).thresh - 1 })) ∧
    exec (.droopThresholdStep g code true) s = .next (s.setDroop g { s.droop g with thresh := code }) := by
  have he (rebase : Bool) : exec (.droopThresholdStep g code rebase) s = execDroopThresholdStep g code rebase s := rfl
  have hc : ¬ (s.tst.frozen 2 || 16 ≤ g || !s.calmGroup g) = true := by simp [hf, hq, hg]
  simp only [he, execDroopThresholdStep, if_neg hc, Nat.mod_eq_of_lt hb]
  refine ⟨fun h => ?_, fun h => ?_, rfl⟩
  · simp [h]
  · simp [h, Nat.lt_asymm h]

/-- A thermal offset moves by one toward its difference, kept within 4 °C, and a difference beyond that sets FAULT. -/
theorem exec_thermalOffsetStep_of_thawed {s : State} {k : Nat} (diff : Int) (hf : s.tst.frozen 3 = false)
    (hk : k < 20) :
    ∃ t y, exec (.thermalOffsetStep k diff) s = .next t ∧
      t = { s with tst := { s.tst with therm := Tbl.set s.tst.therm k y } } ∧
      (y.fault = true ↔ 32 < diff ∨ diff < -32) ∧
      let o := (Tbl.get ({} : Therm) s.tst.therm k).offset
      let aim := max (-32) (min 32 diff)
      y.offset = if o < aim then o + 1 else if aim < o then o - 1 else o :=
  ⟨_, _, if_neg (by simp [hf]; omega), rfl, by simp, rfl⟩

/-- Settles O56: each run and each step by its own lemma above, from the branches of its command. -/
theorem testCommandsComplete : Obligations.TestCommandsComplete := by
  unfold Obligations.TestCommandsComplete
  refine ⟨fun s => ⟨fun n v hc => ⟨if_pos hc, if_pos hc, if_pos hc⟩, fun n v => State.writePortLb_lb, fun k v hk hv hr =>
      ⟨State.writeHbmLb_of_usable hk hv hr, State.writeHbmLb_of_free hk hv hr⟩, fun v => State.writeMeshLb_run,
      fun n errors => exec_portLoopbackEnd_of_run errors, fun k errors => exec_hbmLoopbackEnd_of_run errors,
      fun corr errors => ⟨fun h => if_neg (by simp [h]), fun h => if_pos (by simp [h])⟩⟩,
    fun s => ⟨fun k pc byte up margin at_ => exec_hbmReadEyeStep_of_thawed up margin at_,
      fun n lane setting eye conv => exec_serdesAdaptStep_of_thawed setting eye conv,
      fun g code => exec_droopThresholdStep_of_calm,
      fun g hg => ⟨if_neg (by omega), if_neg (by omega)⟩,
      fun k diff => exec_thermalOffsetStep_of_thawed diff,
      fun k diff h => if_pos (by simp [h]), fun v => rfl⟩⟩

end Sys2Proof.Machine
end

section
/-! The JTAG port (O57). -/

namespace Sys2Proof.Machine

/-! ### Instructions of a powered port (18_test_calibration R524, R525) -/

section Powered
variable {s : State} (hon : s.tapOn = true)
include hon

theorem exec_bypass_of_other {code : Nat} (hcode : jtagCodes.contains (code % 256) = false) :
    exec (.bypass code) s = .next (s.bypass (code % 256)) :=
  if_neg (by simp only [hon, hcode]; decide)

section Blank
variable (hblank : s.fuses.lifecycle = 0)
include hblank

/-- On a BLANK part the instructions of manufacture work. -/
theorem exec_mbist_of_blank : exec .mbist s = .next (s.selectIr 0x20).shiftFree :=
  (if_neg (by simp [hon])).trans (if_pos hblank)

theorem exec_scan_of_blank : exec .scan s = .next (s.selectIr 0x21).shiftFree :=
  (if_neg (by simp [hon])).trans (if_pos hblank)

theorem exec_fuseProg_of_blank (w : FuseWrite) :
    exec (.fuseProg w) s = .next { s.selectIr 0x22 with fuses := s.fuses.blow w } :=
  (if_neg (by simp [hon])).trans (if_pos hblank)

end Blank

section Used
variable (hused : s.fuses.lifecycle ≠ 0)
include hused

/-- On any other part they are BYPASS. -/
theorem exec_mbist_of_used : exec .mbist s = .next (s.bypass 0x20) :=
  (if_neg (by simp [hon])).trans (if_neg hused)

theorem exec_scan_of_used : exec .scan s = .next (s.bypass 0x21) :=
  (if_neg (by simp [hon])).trans (if_neg hused)

theorem exec_fuseProg_of_used (w : FuseWrite) : exec (.fuseProg w) s = .next (s.bypass 0x22) :=
  (if_neg (by simp [hon])).trans (if_neg hused)

end Used

/-! ### Reads of the configuration space (18_test_calibration R524) -/

theorem exec_jtagCfgRead_of_aligned {addr : Nat} (hin : addr < 2 ^ 26) (halign : addr % 8 = 0) :
    let r := (s.selectIr 0x10).cfgRead (fun _ _ => false) addr 8
    exec (.jtagCfgRead addr) s = .next (r.s.emit (.jtag 64 r.val)) := by
  have hrun : exec (.jtagCfgRead addr) s = execJtagCfgRead addr s := rfl
  simp only [hrun, execJtagCfgRead, hon, Nat.mod_eq_of_lt hin]
  exact (if_neg (by decide)).trans (if_neg (not_not_intro halign))

/-- A misaligned address shifts out a free value (log 61). -/
theorem exec_jtagCfgRead_of_misaligned {addr : Nat} (hin : addr < 2 ^ 26) (halign : addr % 8 ≠ 0) :
    ∃ v, v < 2 ^ 64 ∧ exec (.jtagCfgRead addr) s =
      .next (State.emit { s.selectIr 0x10 with free := s.free + 1 } (.jtag 64 v)) := by
  have hrun : exec (.jtagCfgRead addr) s = execJtagCfgRead addr s := rfl
  refine ⟨Config.freeNat s.free % 2 ^ 64, Nat.mod_lt _ (by decide), ?_⟩
  simp only [hrun, execJtagCfgRead, hon, Nat.mod_eq_of_lt hin]
  exact (if_neg (by decide)).trans (if_pos halign)

end Powered

/-- Settles O57: an instruction by whether the part is BLANK, a read by whether its address is aligned. -/
theorem testPortCompletes : Obligations.TestPortCompletes := by
  intro s hon
  refine ⟨if_pos hon, fun code => exec_bypass_of_other hon, if_pos hon, if_pos hon, if_pos hon, if_pos hon, if_pos hon,
    if_pos hon, fun hblank => ⟨exec_mbist_of_blank hon hblank, exec_scan_of_blank hon hblank,
      fun w => ⟨_, exec_fuseProg_of_blank hon hblank w, rfl, rfl⟩⟩,
    fun hused => ⟨exec_mbist_of_used hon hused, exec_scan_of_used hon hused, exec_fuseProg_of_used hon hused, rfl⟩,
    fun addr => exec_jtagCfgRead_of_aligned hon, fun addr => exec_jtagCfgRead_of_misaligned hon, rfl⟩

end Sys2Proof.Machine
end

section
/-! What the issue of an instruction changes (O2). -/

namespace Sys2Proof.Machine

/-! ### The trace record of an issue (17_counters_trace R504) -/

/-- The state with counters, trace and HBM left out: what a trace record leaves as it is. -/
def State.besideTrace (s : State) : State := { s with cnt := {}, hbm := {} }

theorem State.besideTrace_setCnt (s : State) (x : Cnt) : ({ s with cnt := x } : State).besideTrace = s.besideTrace := rfl

theorem State.ev_besideTrace (s : State) {e : Nat} (u : Nat) (l : List Nat) (n : Nat) (h : isTileEvent e = false) :
    (s.ev e u l n).besideTrace = s.besideTrace := by
  have htiles := s.ev_tiles e u l n h
  have honly := congrArg State.besideTrace (s.ev_only e u l n)
  rwa [← htiles] at honly

theorem State.meetBurst_besideTrace (s : State) (b : Nat × Health) :
    (s.meetBurst b).besideTrace = s.besideTrace := by
  unfold State.meetBurst
  split
  · exact State.ev_besideTrace _ _ _ _ rfl
  · exact State.ev_besideTrace _ _ _ _ rfl

theorem State.hbmWrite_besideTrace (s : State) (a : Nat) (bs : Bytes) :
    (s.hbmWrite a bs).besideTrace = s.besideTrace :=
  foldl_keeps State.besideTrace State.meetBurst_besideTrace _ s

theorem State.traceWrite_besideTrace (s : State) (rec : Bytes) : (s.traceWrite rec).besideTrace = s.besideTrace := by
  unfold State.traceWrite
  dsimp only
  split
  · exact State.besideTrace_setCnt ..
  split
  · exact State.besideTrace_setCnt ..
  · exact (State.besideTrace_setCnt ..).trans (s.hbmWrite_besideTrace ..)

theorem State.traceTile_besideTrace (s : State) (ty c t q step seq : Nat) (data : Bytes) :
    (s.traceTile ty c t q step seq data).besideTrace = s.besideTrace := by
  unfold State.traceTile
  split
  · exact s.traceWrite_besideTrace _
  · rfl

/-! ### The sequencer after an issue (05_instruction_set R132, R135) -/

/-- The sequencer state of the issuing tile: the wait's count has left its counter, and the queue has moved on. -/
def State.issuedTc (s : State) (e : Env) (k : Queue → Queue) : TileCtx :=
  let tc := s.tc e.c e.v
  let tc1 := if wWaits e.w then tc.setSig (wWSig e.w) (tc.sig (wWSig e.w) - wWCount e.w) else tc
  tc1.setQ e.q (k { tc1.q e.q with st := .running, seq := e.qu.seq + 1 })

section Issued
variable (s : State) (e : Env) (f : Flight → Flight) (k : Queue → Queue)

theorem State.issuedTc_q (q : Nat) : (s.issuedTc e k).q q =
    if q = e.q then k { (s.tc e.c e.v).q e.q with st := .running, seq := e.qu.seq + 1 } else (s.tc e.c e.v).q q := by
  unfold State.issuedTc
  rw [TileCtx.q_setQ]
  split
  · split <;> rfl
  · split <;> rfl

theorem State.issuedTc_sig (n : Nat) : (s.issuedTc e k).sig n =
    if wWaits e.w = true ∧ n = wWSig e.w then (s.tc e.c e.v).sig n - wWCount e.w else (s.tc e.c e.v).sig n := by
  unfold State.issuedTc
  rw [TileCtx.sig_setQ]
  by_cases hw : wWaits e.w = true
  · rw [if_pos hw, TileCtx.sig_setSig]
    by_cases hn : n = wWSig e.w
    · rw [if_pos hn, if_pos ⟨hw, hn⟩, hn]
    · rw [if_neg hn, if_neg (fun h => hn h.2)]
  · rw [if_neg hw, if_neg (fun h => hw h.1)]

/-- Nothing of the tile's sequencer state but its queues and counters changes. -/
theorem State.issuedTc_only : { s.issuedTc e k with queues := (s.tc e.c e.v).queues, sigs := (s.tc e.c e.v).sigs } =
    s.tc e.c e.v := by
  unfold State.issuedTc
  split <;> rfl

theorem State.issued_tc (c v : Nat) : (s.issued e f k).tc c v =
    if tcKey c v = tcKey e.c e.v then s.issuedTc e k else s.tc c v := by
  have htctx : (s.issued e f k).tctx = (s.setTc e.c e.v (s.issuedTc e k)).tctx := State.ev_tctx ..
  rw [State.tc, htctx]
  exact s.tc_setTc ..

theorem State.issued_flight : (s.issued e f k).flight = s.flight ++ [f e.flight] := State.ev_flight ..

/-- An issue changes nothing but the sequencer, the instructions in flight and event counters. -/
theorem State.issued_only :
    { s.issued e f k with tctx := s.tctx, flight := s.flight, tiles := s.tiles, cnt := s.cnt } = s :=
  congrArg (fun t : State => { t with tctx := s.tctx, flight := s.flight }) (State.ev_only
    { s.setTc e.c e.v (s.issuedTc e k) with flight := s.flight ++ [f e.flight] } 0x001 e.t _ 1)

theorem State.issued_tile (x : Nat) : ((s.issued e f k).tile x).sameButCounters (s.tile x) := State.ev_tile ..

/-! ### The whole of an issue -/

/-- The trace record of an issue touches the trace, counters and HBM alone. -/
theorem State.commit_besideTrace : (s.commit e f k).besideTrace = (s.issued e f k).besideTrace := by
  rw [State.commit_eq]
  split
  · exact State.traceTile_besideTrace ..
  · rfl

theorem State.commit_tc (c v : Nat) : (s.commit e f k).tc c v =
    if tcKey c v = tcKey e.c e.v then s.issuedTc e k else s.tc c v :=
  (congrArg (State.tc · c v) (s.commit_besideTrace e f k)).trans (s.issued_tc e f k c v)

theorem State.commit_tc_self : (s.commit e f k).tc e.c e.v = s.issuedTc e k := by
  rw [State.commit_tc, if_pos rfl]

theorem State.commit_flight : (s.commit e f k).flight = s.flight ++ [f e.flight] :=
  (congrArg State.flight (s.commit_besideTrace e f k)).trans (s.issued_flight e f k)

theorem State.commit_sameButIssue : (s.commit e f k).sameButIssue s :=
  (congrArg (fun t : State => ({ t with
    tctx := s.tctx, flight := s.flight, tiles := s.tiles, cnt := s.cnt, hbm := s.hbm } : State))
    (s.commit_besideTrace e f k)).trans
    (congrArg (fun t : State => ({ t with hbm := s.hbm } : State)) (s.issued_only e f k))

theorem State.commit_tile (x : Nat) : ((s.commit e f k).tile x).sameButCounters (s.tile x) := by
  have htile : (s.commit e f k).tile x = (s.issued e f k).tile x :=
    (congrArg (fun b : State => b.tile x) (s.commit_besideTrace e f k) :)
  rw [htile]
  exact s.issued_tile e f k x

end Issued

/-- Settles O2: the tile's sequencer state by its fields, and the rest by what the trace record leaves. -/
theorem issueTakesItsPlace : Obligations.IssueTakesItsPlace := by
  intro s e f k t old new
  have hnew : new = s.issuedTc e k := s.commit_tc_self e f k
  refine ⟨?queue, fun q hq => ?queues, fun n => ?counters, ?restOfTile, fun c v hcv => ?tiles, s.commit_flight e f k,
    s.commit_sameButIssue e f k, fun h => ⟨s.commit_hbm e f k h, s.commit_tile e f k⟩⟩
  case queue => rw [hnew, State.issuedTc_q, if_pos rfl]
  case queues => rw [hnew, State.issuedTc_q, if_neg hq]
  case counters => rw [hnew]; exact s.issuedTc_sig e k n
  case restOfTile => rw [hnew]; exact s.issuedTc_only e k
  case tiles => exact (s.commit_tc e f k c v).trans (if_neg hcv)

end Sys2Proof.Machine
end

section
/-! The control and synchronisation instructions (O3, O4, O5). -/

namespace Sys2Proof.Machine

/-! ### Instructions that act on their own queue alone (05_instruction_set R151, Table 5.10) -/

/-- An instruction that issues comes to what its body has been worked out to say. -/
theorem exec_of_body {s : State} {i : Issue} {cls op : Nat} {e : Env} {body : Env → State → Act} {x : Instr} {a : Act}
    (h : Issues s i cls op e) (ha : opAssigned cls op = true) (hx : exec x s = .next (s.issue cls op i body))
    (hb : body e s = a) : exec x s = .next (s.act e a) := hb ▸ exec_of_issues h ha hx

section Outcomes
variable {s : State} {i : Issue} {cls op : Nat} {e : Env} {body : Env → State → Act} {x : Instr}

/-- One whose body acts on its own queue alone is committed. -/
theorem exec_of_goQueue {k : Queue → Queue} (h : Issues s i cls op e) (ha : opAssigned cls op = true)
    (hx : exec x s = .next (s.issue cls op i body)) (hb : body e s = goQueue s k) :
    exec x s = .next (s.commit e id k) := exec_of_body h ha hx hb

/-- One whose body raises an exception does not execute. -/
theorem exec_of_exc {code : Nat} (h : Issues s i cls op e) (ha : opAssigned cls op = true)
    (hx : exec x s = .next (s.issue cls op i body)) (hb : body e s = .exc code) :
    exec x s = .next (s.excAt e code) := exec_of_body h ha hx hb

/-- One whose body waits leaves its queue waiting. -/
theorem exec_of_wait {w : WaitFor} (h : Issues s i cls op e) (ha : opAssigned cls op = true)
    (hx : exec x s = .next (s.issue cls op i body)) (hb : body e s = .wait w) :
    exec x s = .next (s.waitAt e w) := exec_of_body h ha hx hb

end Outcomes

section Bodies
variable {e : Env} (s : State)

/-- Without a payload bit the instruction passes on. -/
theorem bodyPlain_passes (h : e.pl = 0) : bodyPlain e s = goQueue s Queue.advance :=
  Act.when_of_false (by simp [h])

theorem bodyPlain_reserved (h : e.pl ≠ 0) : bodyPlain e s = .exc xInvalid :=
  Act.when_of_true (by simp [h])

/-- A read without a wait of its own reads the counter as it stands. -/
theorem bodySread_reads (h : fld e.pl 0 79 = 0) (hw : wWaits e.w = false) :
    bodySread e s = goQueue s fun q =>
      (q.setIreg (fld e.pl 84 4) (BitVec.ofNat 32 ((s.tc e.c e.v).sig (fld e.pl 79 5)))).advance :=
  (Act.when_of_false (by simp [h])).trans (by simp [hw])

end Bodies

/-- Settles O3: each body passes its guard and moves its own queue. -/
theorem queueInstructionsComplete : Obligations.QueueInstructionsComplete := by
  intro s i e
  refine ⟨fun h hpl => ?nop, fun h hpl => ?swait, fun h hres => ?imov, fun h hres => ?iadd, fun h hres hw => ?sread,
    fun h hres => ?flagr, fun h hpl => ?halt, fun h hpl => ?yield⟩
  case nop => exact exec_of_goQueue h rfl rfl (bodyPlain_passes s hpl)
  case swait => exact exec_of_goQueue h rfl rfl (bodyPlain_passes s hpl)
  case imov => exact exec_of_goQueue (body := bodyImov) h rfl rfl (Act.when_of_false (by simp [hres]))
  case iadd => exact exec_of_goQueue (body := bodyIadd) h rfl rfl (Act.when_of_false (by simp [hres]))
  case sread => exact exec_of_goQueue h rfl rfl (bodySread_reads s hres hw)
  case flagr => exact exec_of_goQueue (body := bodyFlagr) h rfl rfl (Act.when_of_false (by simp [hres]))
  case halt => exact exec_of_goQueue (body := bodyHalt) h rfl rfl (Act.when_of_false (by simp [hpl]))
  case yield => exact exec_of_goQueue (body := bodyYield) h rfl rfl (Act.when_of_false (by simp [hpl]))

/-! ### LOOP and BR (05_instruction_set R151, Table 5.10) -/

section Branches
variable {e : Env} (s : State)

/-- A LOOP whose payload is legal, within the levels and within the enclosing body, skips its body or enters it. -/
theorem bodyLoop_enters (hres : fld e.pl 0 76 = 0) (hlen : 0 < fld e.pl 76 8) (hmax : fld e.pl 76 8 ≤ 60)
    (hlevel : e.qu.loops.length < 4) (hin : loopPast e.qu.loops (e.qu.pc + 16 + 16 * fld e.pl 76 8) = false) :
    bodyLoop e s = goQueue s fun q =>
      if q.ireg (fld e.pl 84 4) = 0 then loopEnd q.loops q (e.qu.pc + 16 + 16 * fld e.pl 76 8)
      else { q with
        pc := (e.qu.pc + 16) % 2 ^ 48, loops := ⟨e.qu.pc + 16, fld e.pl 76 8, fld e.pl 84 4⟩ :: q.loops } :=
  Act.when_of_false (by simp [hres, hin, hlevel, hmax, Nat.pos_iff_ne_zero.mp hlen])

/-- A fifth level, and a body that runs past the enclosing one, are refused. -/
theorem bodyLoop_refused
    (h : 4 ≤ e.qu.loops.length ∨ loopPast e.qu.loops (e.qu.pc + 16 + 16 * fld e.pl 76 8) = true) :
    bodyLoop e s = .exc xInvalid :=
  Act.when_of_true (by rcases h with h | h <;> simp [h])

/-- The branch is taken: it is unconditional, or its register is not 0. -/
def Env.brTaken (e : Env) : Bool := !bit e.pl 83 || e.qu.ireg (fld e.pl 84 4) != 0

theorem Env.brTaken_iff : e.brTaken = true ↔ bit e.pl 83 = false ∨ e.qu.ireg (fld e.pl 84 4) ≠ 0 := by
  simp [Env.brTaken]

/-- The byte offset that a branch names (log 10). -/
def Env.brTarget (e : Env) : Int := ((e.qu.pc : Int) + 16 * sext 32 (fld e.pl 0 32)) % (2 ^ 48 : Int)

theorem bodyBr_goes (hres : fld e.pl 32 51 = 0) (hin : (e.brTaken && brOut e.qu.loops e.brTarget) = false) :
    bodyBr e s = goQueue s fun q => if e.brTaken then { q with pc := e.brTarget.toNat } else q.advance :=
  Act.when_of_false (by rw [hres]; exact hin)

/-- A taken branch out of a loop's body is refused. -/
theorem bodyBr_refused (htaken : e.brTaken = true) (hout : brOut e.qu.loops e.brTarget = true) :
    bodyBr e s = .exc xInvalid :=
  Act.when_of_true (Bool.or_eq_true_iff.mpr (Or.inr (Bool.and_eq_true_iff.mpr ⟨htaken, hout⟩)))

end Branches

/-! ### The ends of loop bodies (05_instruction_set R150) -/

section LoopEnds
variable {f : LoopFrame} {q : Queue} {pc : Nat} (r : List LoopFrame)

/-- At the end of a body whose count has turns left the queue goes round. -/
theorem loopEnd_round (hpc : pc = f.start + 16 * f.len) (hn : q.ireg f.ic ≠ 1) :
    loopEnd (f :: r) q pc =
      { q.setIreg f.ic (q.ireg f.ic - 1) with pc := f.start % 2 ^ 48, loops := f :: r } := by
  have hleft : (q.ireg f.ic - 1 != 0) = true := bne_iff_ne.mpr fun h => hn (by bv_omega)
  rw [loopEnd, if_pos hpc]
  exact if_pos hleft

/-- At the end of a body's last turn its count is 0, and the bodies around it are tested. -/
theorem loopEnd_last (hpc : pc = f.start + 16 * f.len) (hn : q.ireg f.ic = 1) :
    loopEnd (f :: r) q pc = loopEnd r (q.setIreg f.ic 0) pc := by
  rw [loopEnd, if_pos hpc, hn]
  rfl

end LoopEnds

@[simp] theorem Queue.setIreg_loops (q : Queue) (i : Nat) (v : W32) : (q.setIreg i v).loops = q.loops := by
  unfold Queue.setIreg; split <;> rfl

/-- Settles O4: LOOP and BR by their guards, and the end of a body by its count. -/
theorem branchesComplete : Obligations.BranchesComplete := by
  refine ⟨fun s i e => ⟨fun h hres hlen hmax => ⟨fun hlevel hin => ?enters, fun hbad => ?refused⟩,
    fun h hres => ⟨fun htaken hin => ?taken, fun hnot => ?falls, fun htaken hout => ?out⟩⟩,
    fun q f r hloops hpc _ _ => ⟨fun hn => ?round, fun hn => ?last, fun hn hr => ?outermost⟩⟩
  case enters => exact exec_of_goQueue h rfl rfl (bodyLoop_enters s hres hlen hmax hlevel hin)
  case refused => exact exec_of_exc h rfl rfl (bodyLoop_refused s hbad)
  case taken =>
    have ht : e.brTaken = true := Env.brTaken_iff.mpr htaken
    have hb := bodyBr_goes s hres (Bool.and_eq_false_iff.mpr (Or.inr hin))
    simp only [ht, if_true] at hb
    exact exec_of_goQueue h rfl rfl hb
  case falls =>
    have ht : e.brTaken = false := Bool.eq_false_iff.mpr (mt Env.brTaken_iff.mp hnot)
    have hb := bodyBr_goes s hres (Bool.and_eq_false_iff.mpr (Or.inl ht))
    simp only [ht, Bool.false_eq_true, if_false] at hb
    exact exec_of_goQueue h rfl rfl hb
  case out => exact exec_of_exc h rfl rfl (bodyBr_refused s (Env.brTaken_iff.mpr htaken) hout)
  case round =>
    rw [Queue.advance, hloops, loopEnd_round r hpc hn]
    simp [hloops]
  case last => rw [Queue.advance, hloops, loopEnd_last r hpc hn]
  case outermost => rw [Queue.advance, hloops, loopEnd_last r hpc hn, hr, loopEnd]

/-! ### SADD, MARRIVE, MWAIT and FENCE (05_instruction_set R138 to R140, R150) -/

/-- Settles O5: SADD by its two guards, MWAIT by the Milestone, FENCE by what its queue has in flight. -/
theorem synchronisationComplete : Obligations.SynchronisationComplete := by
  intro s i e
  have hminor (hk : (s.ctx e.c).kind = 0) : s.minor e = false := by simp [State.minor, hk]
  refine ⟨fun h hres hval hvt => ?sadd, fun h hpl hk => ?marrive,
    fun h hres hk => ⟨fun hm => ?reached, fun hm => ?ahead⟩, fun h hpl => ⟨fun hnone => ?clear, fun hsome => ?behind⟩⟩
  case sadd =>
    have hbody : bodySadd e s = .go (s.sendSig _) id Queue.advance :=
      (Act.when_of_false (by simp [hres, hval])).trans (Act.when_of_false (by simp [hvt]))
    exact exec_of_body h rfl rfl hbody
  case marrive =>
    exact exec_of_goQueue (body := bodyMarrive) h rfl rfl (Act.when_of_false (by simp [hpl, hminor hk]))
  case reached =>
    exact exec_of_goQueue (body := bodyMwait) h rfl rfl
      ((Act.when_of_false (by simp [hres, hminor hk])).trans (if_pos hm))
  case ahead =>
    exact exec_of_wait (body := bodyMwait) h rfl rfl
      ((Act.when_of_false (by simp [hres, hminor hk])).trans (if_neg (by simp [hm])))
  case clear =>
    exact exec_of_goQueue (body := bodyFence) h rfl rfl
      ((Act.when_of_false (by simp [hpl])).trans (if_pos (by simpa using hnone)))
  case behind =>
    exact exec_of_wait (body := bodyFence) h rfl rfl
      ((Act.when_of_false (by simp [hpl])).trans (if_neg (by simpa using hsome)))

end Sys2Proof.Machine
end

section
/-! What an exception at issue records, and where an instruction does not execute (O7). -/

namespace Sys2Proof.Machine

/-! ### Reports: a trace record and an event to the owner (05_instruction_set R152; 14_host_port R442) -/

/-- The state with the trace, counters, HBM, the host port and what is on its way out left out: what a report leaves
as it is. -/
def State.besideReport (s : State) : State := { s with cnt := {}, hbm := {}, host := {}, out := [] }

theorem State.besideReport_of_besideTrace {s t : State} (h : t.besideTrace = s.besideTrace) :
    t.besideReport = s.besideReport :=
  (congrArg State.besideReport h :)

theorem State.slotEvent_besideReport (s : State) (slot code c : Nat) (payload : Bytes) :
    (s.slotEvent slot code c payload).besideReport = s.besideReport := by
  unfold State.slotEvent
  dsimp only
  split
  · exact (State.besideReport_of_besideTrace (State.ev_besideTrace (s.setSlot slot _) _ _ _ rfl)).trans rfl
  · rfl

theorem State.ctxEvent_besideReport (s : State) (c code : Nat) (payload : Bytes) :
    (s.ctxEvent c code payload).besideReport = s.besideReport := by
  unfold State.ctxEvent
  split
  · exact s.slotEvent_besideReport ..
  · split <;> rfl

/-! ### TILE_EXC_LOG (05_instruction_set R157, Table 5.18) -/

/-- The exception log after an exception: it is written while its VALID bit is 0. -/
def excLogAfter (x : W64) (q code cls op seq : Nat) : W64 :=
  if bit x.toNat 63 then x
  else BitVec.ofNat 64 (2 ^ 63 + q * 2 ^ 61 + code * 2 ^ 57 + cls * 2 ^ 53 + op * 2 ^ 47 + seq % 2 ^ 32)

/-- Recording an exception writes its tile's log, and reports. -/
theorem State.logExc_besideReport (s : State) (c v t q code cls op seq step : Nat) :
    (s.logExc c v t q code cls op seq step).besideReport = (s.setTile t { s.tile t with
      excLog := excLogAfter (s.tile t).excLog q code cls op seq }).besideReport :=
  (State.ctxEvent_besideReport ..).trans (State.besideReport_of_besideTrace (State.traceTile_besideTrace ..))

theorem State.logExc_tctx (s : State) (c v t q code cls op seq step : Nat) :
    (s.logExc c v t q code cls op seq step).tctx = s.tctx :=
  (congrArg State.tctx (s.logExc_besideReport c v t q code cls op seq step) :)

theorem State.logExc_flight (s : State) (c v t q code cls op seq step : Nat) :
    (s.logExc c v t q code cls op seq step).flight = s.flight :=
  (congrArg State.flight (s.logExc_besideReport c v t q code cls op seq step) :)

theorem State.logExc_excLog (s : State) (c v t q code cls op seq step : Nat) :
    ((s.logExc c v t q code cls op seq step).tile t).excLog = excLogAfter (s.tile t).excLog q code cls op seq := by
  have htile := (congrArg (fun b : State => (b.tile t).excLog) (s.logExc_besideReport c v t q code cls op seq step) :)
  exact htile.trans (congrArg Tile.excLog (s.tile_setTile_self ..))

/-! ### Words that do not execute (05_instruction_set R131, R135, R152) -/

section Stops
variable {s : State} {i : Issue} {e : Env} {body : Env → State → Act} (cls op : Nat)

theorem State.issue_unfetched (henv : s.issueEnv i = some e) (hw : (s.fetch e.c e.qu.pc).word = none) :
    s.issue cls op i body = (s.fetch e.c e.qu.pc).s.excAt e xFetch := by
  simp only [State.issue, henv, hw]

/-- A command that names another word than the image holds at the program counter is not due (log 2). -/
theorem State.issue_other_word {w : Nat} (henv : s.issueEnv i = some e) (hw : (s.fetch e.c e.qu.pc).word = some w)
    (hne : w ≠ e.w) : s.issue cls op i body = s := by
  simp only [State.issue, henv, hw, if_neg hne]

theorem State.issue_fetched (henv : s.issueEnv i = some e) (hf : s.fetch e.c e.qu.pc = ⟨s, some e.w⟩) :
    s.issue cls op i body = s.issueWord cls op e body := by
  simp only [State.issue, henv, hf, if_true]

variable {cls op}

/-- A wait that the earlier queues leave too little for keeps the instruction at the head of its queue. -/
theorem State.issueWord_waits (hcls : e.cls = cls) (hop : e.op = op) (hw : wWaits e.w = true)
    (hleft : (s.tc e.c e.v).leftBelow e.q (wWSig e.w) < wWCount e.w) :
    s.issueWord cls op e body = s.waitAt e (.signal (wWSig e.w) (wWCount e.w)) := by
  simp [State.issueWord, hcls, hop, hw, hleft]

theorem State.issueWord_unassigned (ha : opAssigned e.cls e.op = false) (hw : wWaits e.w = false) :
    s.issueWord cls op e body = s.excAt e xInvalid := by
  simp [State.issueWord, ha, hw]

end Stops

/-! ### What an exception at issue changes (05_instruction_set R152) -/

section Exception
variable (s : State) (e : Env) (code : Nat)

theorem State.excAt_queue (q : Nat) : (s.excAt e code).queue e.c e.v q =
    if q = e.q then { s.queue e.c e.v e.q with st := .halted, exc := code } else s.queue e.c e.v q := by
  have htctx := State.logExc_tctx (s.setQueue e.c e.v e.q { s.queue e.c e.v e.q with st := .halted, exc := code }) e.c
    e.v e.t e.q code e.cls e.op e.qu.num e.qu.step
  rw [State.queue, State.tc, State.excAt, State.haltExc, htctx]
  exact s.queue_setQueue ..

theorem State.excAt_flight : (s.excAt e code).flight = s.flight := State.logExc_flight ..

theorem State.excAt_excLog : ((s.excAt e code).tile e.t).excLog =
    excLogAfter (s.tile e.t).excLog e.q code e.cls e.op e.qu.num := State.logExc_excLog ..

end Exception

/-- Settles O7: each stop by the branch of issue that it takes, and an exception by its queue and its log. -/
theorem issueStops : Obligations.IssueStops := by
  intro s i e henv
  have hrun : exec (.nop i) s = .next (s.issue 7 0 i bodyPlain) := rfl
  refine ⟨fun hw => ?unfetched, fun w hw hne => ?other, fun hf hcls hop hw hleft => ?waits, fun hf ha hw => ?unassigned,
    fun h hpl => exec_of_exc h rfl rfl (bodyPlain_reserved s hpl), fun code => ⟨?halted, fun q hq => ?queues,
    s.excAt_flight e code, fun hvalid => ?log⟩⟩
  case unfetched => rw [hrun, State.issue_unfetched 7 0 henv hw]; rfl
  case other => rw [hrun, State.issue_other_word 7 0 henv hw hne]
  case waits => rw [hrun, State.issue_fetched 7 0 henv hf, State.issueWord_waits hcls hop hw hleft]; rfl
  case unassigned => rw [hrun, State.issue_fetched 7 0 henv hf, State.issueWord_unassigned ha hw]; rfl
  case halted => rw [State.excAt_queue, if_pos rfl]
  case queues => rw [State.excAt_queue, if_neg hq]
  case log => rw [State.excAt_excLog, excLogAfter, if_pos hvalid]

end Sys2Proof.Machine
end

section
/-! The matrix class at issue, and the level of the array (O22). -/

namespace Sys2Proof.Machine

/-! ### MMA and MMAP (05_instruction_set R143, R144; 06_curvature_taps R170) -/

/-- The command that issues a matrix instruction of opcode `op`. -/
def matrixInstr (i : Issue) (upset : Upset) (op : Nat) : Instr := if op = 0 then .mma i upset else .mmap i upset

/-- Either matrix instruction comes to what its body says, and the arrays then run. -/
theorem exec_matrix {s : State} {i : Issue} {e : Env} {op : Nat} {a : Act} (upset : Upset) (hop : op < 2)
    (h : Issues s i 0 op e) (hb : bodyMatrix op e s = a) :
    exec (matrixInstr i upset op) s = .next ((s.act e a).runArrays upset) := by
  have hcases : op = 0 ∨ op = 1 := by omega
  rcases hcases with rfl | rfl
  · have hrun : exec (matrixInstr i upset 0) s = .next ((s.issue 0 0 i (bodyMatrix 0)).runArrays upset) := rfl
    rw [hrun, State.issue_of_issues h rfl, hb]
  · have hrun : exec (matrixInstr i upset 1) s = .next ((s.issue 0 1 i (bodyMatrix 1)).runArrays upset) := rfl
    rw [hrun, State.issue_of_issues h rfl, hb]

/-- What a matrix instruction whose checks are passed comes to: it waits for a slot, or goes. -/
def Env.matrixAct (s : State) (e : Env) (op : Nat) : Act :=
  let m := e.matrixInst (s.tc e.c e.v) op
  if m.p.slots.any (s.slotBusy e) then .wait .unit
  else .go s (fun f => { f with work := .matrix (e.matrixWork (s.tc e.c e.v) op), slots := m.p.slots }) Queue.advance

/-- The width of a tap slot that is bound, by which a combination is checked. -/
def TileCtx.boundLog2s (tc : TileCtx) (k : Nat) : Option Nat :=
  if (tc.slot k).bound then some (tc.slot k).log2s else none

theorem bodyMatrix_passes {s : State} {e : Env} {op : Nat} (henc : (e.matrixInst (s.tc e.c e.v) op).p.bad op = false)
    (hdesc : (e.matrixInst (s.tc e.c e.v) op).badDescriptor = false)
    (hcombo : badCombo (e.matrixInst (s.tc e.c e.v) op) (s.ctx e.c).classW (s.minor e) e.v
      (s.tc e.c e.v).boundLog2s = false)
    (hacc : s.badAccess e (e.matrixInst (s.tc e.c e.v) op) = false) :
    bodyMatrix op e s = Env.matrixAct s e op :=
  (Act.when_of_false henc).trans <| (Act.when_of_false hdesc).trans <| (Act.when_of_false hcombo).trans <|
    Act.when_of_false hacc

/-! ### LEVEL_WINDOW_END (03_matrix_array R94, R97) -/

/-- The tile after a window: its level decided with the FLOOR in force, and a written TILE_SHAPE_CTL in effect. -/
def Tile.levelled (x : Tile) (ran : Bool) (idle dummies : Nat) : Tile :=
  let level := if ran && decide (x.level < 16) then x.level + 1
    else if decide (256 < idle) && decide (fld x.shapeCtl.toNat 8 4 < x.level) then x.level - 1 else x.level
  { x with
    level := level, dummy := (x.dummy + dummies) % 2 ^ 32, gap := min idle 0xFFFF
    filling := decide (0 < idle) && decide (0 < level), ramping := ran && decide (level < 16)
    shapeCtl := x.shapePend.getD x.shapeCtl, shapePend := none }

section Level
variable {s : State} {t : Nat} (idle dummies : Nat) (ran : Bool)

theorem exec_levelWindowEnd_of_runs (h : (s.tile t).runs = true) :
    exec (.levelWindowEnd t ran idle dummies) s = .next (s.setTile t ((s.tile t).levelled ran idle dummies)) :=
  if_neg (by simp [h])

theorem exec_levelWindowEnd_of_not_runs (h : (s.tile t).runs = false) :
    exec (.levelWindowEnd t ran idle dummies) s = .next s :=
  if_pos (by simp [h])

end Level

section Levelled
variable {x : Tile} {ran : Bool} (idle dummies : Nat)

theorem Tile.level_levelled_up (h : ran = true ∧ x.level < 16) : (x.levelled ran idle dummies).level = x.level + 1 :=
  if_pos (by simpa using h)

theorem Tile.level_levelled_down (h : ran = false ∨ 16 ≤ x.level) : (x.levelled ran idle dummies).level =
    if 256 < idle ∧ fld x.shapeCtl.toNat 8 4 < x.level then x.level - 1 else x.level := by
  have hup : (ran && decide (x.level < 16)) = false := by
    rcases h with h | h
    · simp [h]
    · simp [Nat.not_lt.mpr h]
  simp only [Tile.levelled, hup, Bool.false_eq_true, if_false, Bool.and_eq_true, decide_eq_true_eq]

end Levelled

/-- Settles O22: a matrix instruction past its checks goes or waits, and a window's end by whether its tile runs. -/
theorem matrixAndLevelComplete : Obligations.MatrixAndLevelComplete := by
  refine ⟨?matrix, ?level⟩
  case matrix =>
    intro s i e upset op hop tc m c h henc hdesc hcombo hacc
    have hrun : exec c s = _ := exec_matrix upset hop h (bodyMatrix_passes henc hdesc hcombo hacc)
    refine ⟨fun hfree => ?goes, fun hbusy => ?waits⟩
    case goes =>
      have hact : Env.matrixAct s e op = .go s _ Queue.advance := if_neg (ne_true_of_eq_false hfree)
      rw [hrun, hact]
      rfl
    case waits =>
      have hact : Env.matrixAct s e op = .wait .unit := if_pos hbusy
      rw [hrun, hact]
      rfl
  case level =>
    intro s t idle dummies ran x
    exact ⟨fun hruns => ⟨_, exec_levelWindowEnd_of_runs idle dummies ran hruns,
      Tile.level_levelled_up idle dummies, Tile.level_levelled_down idle dummies, rfl, rfl, rfl, rfl⟩,
      exec_levelWindowEnd_of_not_runs idle dummies ran⟩

end Sys2Proof.Machine
end

section
/-! TCFG and TCLR (O24). -/

namespace Sys2Proof.Machine

/-! ### Bindings (05_instruction_set R145; 06_curvature_taps R168) -/

/-- A TCFG comes to what its body says, and bindings that may take effect then do. -/
theorem exec_tcfg {s : State} {i : Issue} {e : Env} {a : Act} (h : Issues s i 1 0 e) (hb : bodyTcfg e s = a) :
    exec (.tcfg i) s = .next (s.act e a).settleTcfg := by
  have hrun : exec (.tcfg i) s = .next (s.issue 1 0 i bodyTcfg).settleTcfg := rfl
  rw [hrun, State.issue_of_issues h rfl, hb]

theorem bodyTcfg_binds {s : State} {e : Env} (hminor : s.minor e = false) (hstep : fld e.pl 38 3 ≠ 7)
    (hgood : s.badTcfg e (fld e.pl 84 4) (tcfgSlot e.pl) = false) :
    bodyTcfg e s = .go s (fun f => { f with work := .tcfg (fld e.pl 84 4) (tcfgSlot e.pl) }) Queue.advance :=
  Act.when_of_false (by simp [hminor, hstep, hgood])

theorem bodyTcfg_refused {s : State} {e : Env}
    (hbad : fld e.pl 38 3 = 7 ∨ s.badTcfg e (fld e.pl 84 4) (tcfgSlot e.pl) = true) : bodyTcfg e s = .exc xInvalid :=
  Act.when_of_true (by rcases hbad with hb | hb <;> simp [hb])

/-! ### Panels (06_curvature_taps R169) -/

/-- A key that a filter of keys lets through is found as before, and any other is not. -/
theorem Tbl.find_filter_key {α : Type} (p : Nat → Bool) (t : Tbl α) (k : Nat) :
    Tbl.find (t.filter fun x => p x.1) k = if p k then Tbl.find t k else none := by
  induction t with
  | nil => simp [Tbl.find]
  | cons x t ih =>
    obtain ⟨j, v⟩ := x
    by_cases hj : k = j
    · subst hj
      by_cases hp : p k = true
      · simp [hp, Tbl.find]
      · simp [hp, ih]
    · by_cases hp : p j = true
      · simp [hp, Tbl.find, hj, ih]
      · simp [hp, Tbl.find, hj, ih]

theorem Tbl.get_filter_key {α : Type} (d : α) (p : Nat → Bool) (t : Tbl α) (k : Nat) :
    Tbl.get d (t.filter fun x => p x.1) k = if p k then Tbl.get d t k else d := by
  rw [Tbl.get, Tbl.find_filter_key]
  split <;> rfl

section Panel
variable (tc : TileCtx) (k : Nat)

/-- The pages of a cleared panel are zero, and the others stay. -/
theorem TileCtx.page_clearPanel (p : Nat) :
    (tc.clearPanel k).page p = if p ∈ (tc.slot k).pages then zeroPage else tc.page p := by
  have hget := Tbl.get_filter_key zeroPage (fun q => !(tc.slot k).pages.contains q) tc.pages p
  refine hget.trans ?_
  by_cases hp : p ∈ (tc.slot k).pages <;> simp [hp, TileCtx.page]

/-- The counts of a cleared panel are zero, and the others stay. -/
theorem TileCtx.counts_clearPanel (p : Nat) : Tbl.get 0 (tc.clearPanel k).counts p =
    if p ∈ (tc.slot k).pages then 0 else Tbl.get 0 tc.counts p := by
  have hget := Tbl.get_filter_key 0 (fun q => !(tc.slot k).pages.contains q) tc.counts p
  refine hget.trans ?_
  by_cases hp : p ∈ (tc.slot k).pages <;> simp [hp]

theorem TileCtx.slot_setSlot (j : Nat) (x : TapSlot) : (tc.setSlot k x).slot j = if j = k then x else tc.slot j :=
  Tbl.get_set ..

end Panel

/-- The sequencer state after a TCLR of slot `k`: a slot that is not bound has no panel to clear. -/
def TileCtx.cleared (tc : TileCtx) (k : Nat) : TileCtx := if (tc.slot k).bound then tc.clearPanel k else tc

section Cleared
variable (tc : TileCtx) (k : Nat)

theorem TileCtx.page_cleared (p : Nat) : (tc.cleared k).page p =
    if (tc.slot k).bound = true ∧ p ∈ (tc.slot k).pages then zeroPage else tc.page p := by
  unfold TileCtx.cleared
  by_cases hb : (tc.slot k).bound = true
  · simp only [hb, if_true, true_and, TileCtx.page_clearPanel]
  · simp only [hb, false_and, if_false, Bool.false_eq_true]

theorem TileCtx.counts_cleared (p : Nat) : Tbl.get 0 (tc.cleared k).counts p =
    if (tc.slot k).bound = true ∧ p ∈ (tc.slot k).pages then 0 else Tbl.get 0 tc.counts p := by
  unfold TileCtx.cleared
  by_cases hb : (tc.slot k).bound = true
  · simp only [hb, if_true, true_and, TileCtx.counts_clearPanel]
  · simp only [hb, false_and, if_false, Bool.false_eq_true]

/-- The latch and the slots stay. -/
theorem TileCtx.cleared_only : { tc.cleared k with pages := tc.pages, counts := tc.counts } = tc := by
  unfold TileCtx.cleared
  split <;> rfl

end Cleared

/-- An instruction that issues replaces its tile's sequencer state, whatever it was before. -/
theorem State.commit_setTc_self (s : State) (e : Env) (f : Flight → Flight) (k : Queue → Queue) :
    (s.setTc e.c e.v (s.tc e.c e.v)).commit e f k = s.commit e f k := by
  have hissued : (s.setTc e.c e.v (s.tc e.c e.v)).issued e f k = s.issued e f k := by
    simp only [State.issued, State.tc_setTc_self]
    simp only [State.setTc, Tbl.set_set]
  rw [State.commit_eq, State.commit_eq, hissued]

/-- A TCLR without a reserved bit clears the slot's panel. -/
theorem exec_tclr {s : State} {i : Issue} {e : Env} (hminor : s.minor e = false) (h : Issues s i 1 1 e)
    (hres : fld e.pl 0 84 = 0) : exec (.tclr i) s =
      .next ((s.setTc e.c e.v ((s.tc e.c e.v).cleared (fld e.pl 84 4))).commit e id Queue.advance) := by
  have hbody : bodyTclr e s = .go (if ((s.tc e.c e.v).slot (fld e.pl 84 4)).bound then
      s.setTc e.c e.v ((s.tc e.c e.v).clearPanel (fld e.pl 84 4)) else s) id Queue.advance :=
    Act.when_of_false (by simp [hminor, hres])
  refine (exec_of_body h rfl rfl hbody).trans (congrArg Host.Outcome.next ?_)
  unfold TileCtx.cleared
  split
  · rfl
  · exact (s.commit_setTc_self e id Queue.advance).symm

/-! ### A binding that takes effect (06_curvature_taps R167, R169) -/

section Bind
variable (tc : TileCtx) (k : Nat) (x : TapSlot)

theorem TileCtx.bind_of_same (h : (tc.slot k).sameBinding x = true) : tc.bind k x = (tc, false) := if_pos h

/-- The sequencer state without the panel and the samples of slot `k`, where it was bound. -/
def TileCtx.unbound : TileCtx :=
  if (tc.slot k).bound then { tc.clearPanel k with latch := tc.latch.filter fun z => z.slot != k } else tc

theorem TileCtx.bind_of_other (h : (tc.slot k).sameBinding x = false) :
    tc.bind k x = ((tc.unbound k).setSlot k (if x.bound then x else {}), (tc.slot k).bound) :=
  if_neg (ne_true_of_eq_false h)

theorem TileCtx.slot_unbound (j : Nat) : (tc.unbound k).slot j = tc.slot j := by
  unfold TileCtx.unbound
  split <;> rfl

theorem TileCtx.slot_setSlot_unbound_self : ((tc.unbound k).setSlot k x).slot k = x := by
  rw [TileCtx.slot_setSlot, if_pos rfl]

variable {k}

theorem TileCtx.slot_setSlot_unbound_other {j : Nat} (hj : j ≠ k) : ((tc.unbound k).setSlot k x).slot j = tc.slot j := by
  rw [TileCtx.slot_setSlot, if_neg hj, TileCtx.slot_unbound]

variable (hbound : (tc.slot k).bound = true)
include hbound

theorem TileCtx.page_unbound {p : Nat} (hp : p ∈ (tc.slot k).pages) : (tc.unbound k).page p = zeroPage := by
  rw [TileCtx.unbound, if_pos hbound]
  exact (tc.page_clearPanel k p).trans (if_pos hp)

theorem TileCtx.latch_unbound {z : TapSample} (hz : z ∈ (tc.unbound k).latch) : z.slot ≠ k := by
  rw [TileCtx.unbound, if_pos hbound] at hz
  simpa using (List.mem_filter.mp hz).2

end Bind

/-- Settles O24: TCFG by its guard, TCLR by what a cleared panel is, a binding by whether it is the same. -/
theorem tapInstructionsComplete : Obligations.TapInstructionsComplete := by
  refine ⟨?instructions, ?binding⟩
  case instructions =>
    intro s i e hminor k
    exact ⟨fun h hstep hgood => exec_tcfg h (bodyTcfg_binds hminor hstep hgood),
      fun h hbad => exec_tcfg h (bodyTcfg_refused hbad), fun h hres => ⟨_, exec_tclr hminor h hres,
        TileCtx.page_cleared _ k, TileCtx.counts_cleared _ k, TileCtx.cleared_only _ k⟩⟩
  case binding =>
    intro tc k x _
    refine ⟨tc.bind_of_same k x, fun hother => ?_⟩
    rw [tc.bind_of_other k x hother]
    exact ⟨rfl, tc.slot_setSlot_unbound_self k _, fun j hj => tc.slot_setSlot_unbound_other _ hj, fun hbound =>
      ⟨fun p hp => tc.page_unbound hbound hp, fun z hz => tc.latch_unbound hbound hz⟩⟩

end Sys2Proof.Machine
end

section
/-! INSTRUCTION_COMPLETE (O26). -/

namespace Sys2Proof.Machine

/-! ### The command (05_instruction_set R134, R149; 10_parallel_mapping R321) -/

section Command
variable {s : State} {t q seq : Nat} {f0 f : Flight} (h0 : s.flightAt t q seq = some f0)
  (h : (s.advanceFlight f0).flightAt t q seq = some f)
include h0 h

/-- A transfer goes on first, and an instruction that may not complete then stays. -/
theorem exec_instructionComplete_of_early (hstays : (s.advanceFlight f0).mayComplete f = false) :
    exec (.instructionComplete t q seq) s = .next (s.advanceFlight f0) := by
  have hrun : exec (.instructionComplete t q seq) s = execInstructionComplete t q seq s := rfl
  simp only [hrun, execInstructionComplete, h0, h, hstays, Bool.not_false, if_true]

variable (hmay : (s.advanceFlight f0).mayComplete f = true)
include hmay

theorem exec_instructionComplete_of_plain (hend : f.endpoint = none) :
    exec (.instructionComplete t q seq) s = .next ((s.advanceFlight f0).complete f).settleDetours := by
  have hrun : exec (.instructionComplete t q seq) s = execInstructionComplete t q seq s := rfl
  simp only [hrun, execInstructionComplete, h0, h, hmay, hend, Bool.not_true, Bool.false_eq_true, if_false]

/-- A queue's receive gives its slot back. -/
theorem exec_instructionComplete_of_receive {k : Nat} (hend : f.endpoint = some k) :
    exec (.instructionComplete t q seq) s =
      .next (((s.advanceFlight f0).complete f).receiveDone k).settleDetours := by
  have hrun : exec (.instructionComplete t q seq) s = execInstructionComplete t q seq s := rfl
  simp only [hrun, execInstructionComplete, h0, h, hmay, hend, Bool.not_true, Bool.false_eq_true, if_false]

end Command

/-! ### What waits for an instruction in flight -/

/-- A fold whose steps each leave its start as it is leaves it. -/
theorem foldl_eq_self {α β : Type} {f : α → β → α} {a : α} {l : List β} (h : ∀ b ∈ l, f a b = a) : l.foldl f a = a := by
  induction l with
  | nil => rfl
  | cons b l ih =>
    obtain ⟨hb, hl⟩ := List.forall_mem_cons.mp h
    rw [List.foldl_cons, hb, ih hl]

/-- Where no TCFG is in flight no binding takes effect. -/
theorem State.settleTcfg_of_none {s : State} (h : ∀ g ∈ s.flight, ∀ k x, g.work ≠ .tcfg k x) : s.settleTcfg = s := by
  refine foldl_eq_self fun g hg => ?_
  split
  · next hwork => exact absurd hwork (h g hg _ _)
  · rfl

/-! ### The parts of a completion (05_instruction_set R134, R148) -/

/-- The instruction is no longer in flight, and host regions that only it named are gone. -/
def State.flightDropped (s : State) (f : Flight) : State :=
  ({ s with flight := s.flight.filter fun g => g != f } : State).settleRegions

/-- Its status word is written to the store of tile `t`. -/
def State.statusWritten (s : State) (t : Nat) (f : Flight) : State :=
  match f.statusAt with
  | some a => s.storeWrite t 6 a (leBytes 8 f.status)
  | none => s

/-- Its flags are ORed into its queue's. -/
def State.flagsKept (s : State) (f : Flight) : State :=
  s.setQueue f.ctx f.vt f.queue { s.queue f.ctx f.vt f.queue with
    flags := (s.queue f.ctx f.vt f.queue).flags ||| f.flags }

/-- The increments that it raises. -/
def Flight.increments (f : Flight) : List SigInc :=
  (f.sig.map fun d => (⟨f.ctx, f.vt, f.queue, d.1, d.2, 1, f.cls, f.op, f.num, f.step, f.seq⟩ : SigInc)).toList

/-- Its signal is raised. -/
def State.signalRaised (s : State) (f : Flight) : State :=
  match f.sig with
  | some (dv, n) => s.sendSig ⟨f.ctx, f.vt, f.queue, dv, n, 1, f.cls, f.op, f.num, f.step, f.seq⟩
  | none => s

/-- The record of its completion is traced. -/
def State.completionTraced (s : State) (t : Nat) (f : Flight) : State :=
  if bit (fld s.cnt.trcCtl.toNat 40 8) f.cls then
    s.traceTile 2 f.ctx t f.queue f.step (f.num % 2 ^ 32)
      (leBytes 1 f.cls ++ leBytes 1 f.op ++ leBytes 1 f.flags.toNat ++ leBytes 1 (b2n f.poison))
  else s

/-- A poisoned completion is reported. -/
def State.poisonReported (s : State) (t : Nat) (f : Flight) : State :=
  if f.poison then
    (s.setTile t { s.tile t with errStatus := (s.tile t).errStatus ||| 1 }).logExc f.ctx f.vt t f.queue xPoison
      f.cls f.op f.num f.step
  else s

theorem State.complete_eq (s : State) (f : Flight) : s.complete f =
    (((((State.settleTcfg { s with flight := s.flight.filter fun g => g != f }).settleRegions.statusWritten
      (s.physD f.ctx f.vt) f).flagsKept f).completionTraced (s.physD f.ctx f.vt) f).poisonReported
      (s.physD f.ctx f.vt) f).signalRaised f := rfl

/-- Raising the signal adds the increments. -/
theorem State.signalRaised_eq (s : State) (f : Flight) :
    s.signalRaised f = { s with sigs := s.sigs ++ f.increments } := by
  unfold State.signalRaised Flight.increments
  cases f.sig with
  | none => simp
  | some d => rfl

section Parts
variable {s : State} {t : Nat} {f : Flight}

theorem State.statusWritten_of_none (h : f.statusAt = none) : s.statusWritten t f = s := by
  rw [State.statusWritten, h]

/-- A status word written to a tile store without bad words changes its tile alone. -/
theorem State.statusWritten_only (h : (s.tile t).ecc = []) :
    { s.statusWritten t f with tiles := s.tiles } = s ∧ ∀ u, u ≠ t → (s.statusWritten t f).tile u = s.tile u := by
  unfold State.statusWritten
  split
  · rw [State.storeWrite_clean _ _ _ _ _ h]
    exact ⟨rfl, fun u hu => by rw [State.tile_setTile, if_neg hu]⟩
  · exact ⟨rfl, fun _ _ => rfl⟩

/-- The bytes of a tile store after a status word is written. -/
theorem State.memRead_statusWritten {a : Nat} (hat : f.statusAt = some a) (b : Nat) :
    memRead ((s.statusWritten t f).tile t).store b =
      if a ≤ b ∧ b < a + 8 then ((leBytes 8 f.status)[b - a]?).getD 0 else memRead (s.tile t).store b := by
  simp only [State.statusWritten, hat]
  rw [State.storeWrite_store, memRead_memWriteBytes, leBytes_length]
  rfl

/-- The queues after the flags are kept: the instruction's own has them too, the others stay. -/
theorem State.queue_flagsKept (c v p : Nat) : (s.flagsKept f).queue c v p =
    if tcKey c v = tcKey f.ctx f.vt ∧ p = f.queue then
      { s.queue f.ctx f.vt f.queue with flags := (s.queue f.ctx f.vt f.queue).flags ||| f.flags }
    else s.queue c v p := by
  unfold State.flagsKept State.setQueue
  rw [State.queue, State.tc_setTc]
  by_cases hk : tcKey c v = tcKey f.ctx f.vt
  · rw [if_pos hk, TileCtx.q_setQ]
    have hq : s.queue c v p = (s.tc f.ctx f.vt).q p := by rw [State.queue, State.tc, hk, State.tc]
    simp only [hk, true_and, hq]
  · rw [if_neg hk, if_neg fun h => hk h.1]
    rfl

end Parts

/-- An instruction in flight may complete quietly: no binding waits, its tile store has no bad words, it is not poisoned,
and no record of its completion is traced. -/
structure Quiet (s : State) (f : Flight) : Prop where
  clean : (s.tile (s.physD f.ctx f.vt)).ecc = []
  sound : f.poison = false
  silent : bit (fld s.cnt.trcCtl.toNat 40 8) f.cls = false
  unbound : ∀ g ∈ s.flight, ∀ k x, g.work ≠ .tcfg k x

section Quietly
variable {s : State} {f : Flight} (h : Quiet s f)
include h

/-- A quiet completion reports nothing. -/
theorem State.complete_of_quiet : s.complete f =
    (((s.flightDropped f).statusWritten (s.physD f.ctx f.vt) f).flagsKept f).signalRaised f := by
  obtain ⟨hclean, hsound, hsilent, hunbound⟩ := h
  have hsettle : (State.settleTcfg { s with flight := s.flight.filter fun g => g != f }).settleRegions =
      s.flightDropped f :=
    congrArg State.settleRegions (State.settleTcfg_of_none fun g hg => hunbound g (List.mem_filter.mp hg).1)
  have hcnt : ((s.flightDropped f).statusWritten (s.physD f.ctx f.vt) f).cnt = s.cnt :=
    (congrArg State.cnt (State.statusWritten_only (s := s.flightDropped f) hclean).1 :)
  have hsilent' : bit (fld (((s.flightDropped f).statusWritten (s.physD f.ctx f.vt) f).flagsKept f).cnt.trcCtl.toNat
      40 8) f.cls = false :=
    (congrArg (fun k : Cnt => bit (fld k.trcCtl.toNat 40 8) f.cls) hcnt).trans hsilent
  rw [State.complete_eq, hsettle, State.completionTraced, if_neg (ne_true_of_eq_false hsilent'), State.poisonReported,
    if_neg (ne_true_of_eq_false hsound)]

/-- Beside its queue and its tile, a quiet completion changes the flight list, the host regions and the increments. -/
theorem State.complete_only : { s.complete f with tiles := s.tiles, tctx := s.tctx } =
    { s.flightDropped f with sigs := s.sigs ++ f.increments } := by
  have hstatus := (State.statusWritten_only (s := s.flightDropped f) (f := f) h.clean).1
  rw [State.complete_of_quiet h, State.signalRaised_eq]
  exact (congrArg (fun u : State => ({ u with tctx := s.tctx, sigs := u.sigs ++ f.increments } : State)) hstatus :)

theorem State.complete_tile (u : Nat) : (s.complete f).tile u =
    ((s.flightDropped f).statusWritten (s.physD f.ctx f.vt) f).tile u := by
  rw [State.complete_of_quiet h, State.signalRaised_eq]
  rfl

theorem State.complete_queue (c v p : Nat) : (s.complete f).queue c v p =
    if tcKey c v = tcKey f.ctx f.vt ∧ p = f.queue then
      { s.queue f.ctx f.vt f.queue with flags := (s.queue f.ctx f.vt f.queue).flags ||| f.flags }
    else s.queue c v p := by
  have hqueue (c v p : Nat) : ((s.flightDropped f).statusWritten (s.physD f.ctx f.vt) f).queue c v p = s.queue c v p :=
    (congrArg (fun u : State => u.queue c v p) (State.statusWritten_only (s := s.flightDropped f) (f := f) h.clean).1 :)
  have hkept := ((s.flightDropped f).statusWritten (s.physD f.ctx f.vt) f).queue_flagsKept (f := f) c v p
  rw [hqueue, hqueue] at hkept
  rw [State.complete_of_quiet h, State.signalRaised_eq]
  exact hkept

end Quietly

/-- Settles O26: the command by whether the instruction may complete, and a quiet completion by its parts. -/
theorem instructionCompletes : Obligations.InstructionCompletes := by
  refine ⟨?command, ?completion⟩
  case command =>
    intro s t q seq f0 h0 s1
    exact ⟨fun hcls => if_neg hcls, fun f hf => ⟨exec_instructionComplete_of_early h0 hf, fun hmay =>
      ⟨exec_instructionComplete_of_plain h0 hf hmay, fun _ => exec_instructionComplete_of_receive h0 hf hmay⟩⟩⟩
  case completion =>
    intro s f t hclean hsound hsilent hunbound
    have h : Quiet s f := ⟨hclean, hsound, hsilent, hunbound⟩
    have honly := State.complete_only h
    refine ⟨(congrArg State.flight honly :), ?queue, fun c v p hother => ?queues, fun a hat => ⟨fun j hj => ?status,
      fun b hb => ?store⟩, fun hnone => ?unwritten, fun u hu => ?tiles, (congrArg State.hbm honly :),
      (congrArg State.sigs honly :)⟩
    case queue => rw [State.complete_queue h, if_pos ⟨rfl, rfl⟩]
    case queues => rw [State.complete_queue h, if_neg (by tauto)]
    case status => rw [State.complete_tile h, State.memRead_statusWritten hat, if_pos (by omega), Nat.add_sub_cancel_left]
    case store =>
      rw [State.complete_tile h, State.memRead_statusWritten hat, if_neg (by omega)]
      rfl
    case unwritten => rw [State.complete_tile h, State.statusWritten_of_none hnone]; rfl
    case tiles => exact (State.complete_tile h u).trans ((State.statusWritten_only (s := s.flightDropped f) h.clean).2 u hu)

end Sys2Proof.Machine
end

section
/-! MOV within a tile store (O16). -/

namespace Sys2Proof.Machine

/-! ### Rows read and written (05_instruction_set R149; 04_tile_store_vector R103) -/

/-- Row `r` of the source of a move, as it stands in the tile store. -/
def sourceRow (s : State) (e : Env) (m : Move) (r : Nat) : Bytes :=
  memReadBytes (s.tile e.t).store (m.src + r * m.spitch) m.rowbytes

/-- Reads that each add their row and meet nothing bad add all their rows. -/
theorem foldl_addRows {f : MoveRd → Nat → MoveRd} {s : State} {row : Nat → Bytes}
    (hf : ∀ acc r, f ⟨s, acc, false⟩ r = ⟨s, acc ++ [row r], false⟩) (l : List Nat) (acc : List Bytes) :
    l.foldl f ⟨s, acc, false⟩ = ⟨s, acc ++ l.map row, false⟩ := by
  induction l generalizing acc with
  | nil => simp
  | cons r l ih => rw [List.foldl_cons, hf, ih, List.append_assoc]; rfl

/-- The rows of a tile store without bad words are read as they stand. -/
theorem State.readLocal_store_rows {s : State} {e : Env} {m : Move} (hspace : m.srcSpace = 0)
    (hclean : (s.tile e.t).ecc = []) :
    s.readLocal e m = ⟨s, (List.range m.rows).map (sourceRow s e m), false⟩ := by
  have hne : ¬ m.srcSpace = 2 := by omega
  refine foldl_addRows (fun acc r => ?_) (List.range m.rows) []
  simp only [if_neg hne, if_pos hspace, State.storeRead_clean _ _ _ _ _ hclean, Bool.or_self, sourceRow]

/-- Rows written to the store of tile `t`, one after another. -/
def State.rowsWritten (s : State) (t req : Nat) (rows : List (Nat × Bytes)) : State :=
  rows.foldl (fun st r => st.storeWrite t req r.1 r.2) s

section Rows
variable (s : State) (t req : Nat) (rows : List (Nat × Bytes))

/-- The state beside the store of tile `t`, with the control of the trace. -/
theorem State.rowsWritten_besideStore : (s.rowsWritten t req rows).besideStore t = s.besideStore t :=
  foldl_keeps (fun st : State => st.besideStore t)
    (fun (st : State) (r : Nat × Bytes) => st.storeWrite_besideStore t req r.1 r.2) rows s

theorem State.meetWord_trcCtl (b : Nat × Health) : (State.meetWord t req s b).cnt.trcCtl = s.cnt.trcCtl := by
  unfold State.meetWord
  split
  · simp [State.storeCe, State.evTile]
  · simp [State.storeUe, State.hardEvent, State.evTile]

theorem State.storeWrite_trcCtl (a : Nat) (bs : Bytes) : (s.storeWrite t req a bs).cnt.trcCtl = s.cnt.trcCtl :=
  foldl_keeps (fun st : State => st.cnt.trcCtl) (State.meetWord_trcCtl · t req) _ s

theorem State.rowsWritten_trcCtl : (s.rowsWritten t req rows).cnt.trcCtl = s.cnt.trcCtl :=
  foldl_keeps (fun st : State => st.cnt.trcCtl)
    (fun (st : State) (r : Nat × Bytes) => st.storeWrite_trcCtl t req r.1 r.2) rows s

theorem State.rowsWritten_tile {u : Nat} (hu : u ≠ t) : (s.rowsWritten t req rows).tile u = s.tile u := by
  have hbeside := congrFun (congrArg Prod.fst (s.rowsWritten_besideStore t req rows)) u
  simpa [State.besideStore, hu] using hbeside

theorem State.rowsWritten_flight : (s.rowsWritten t req rows).flight = s.flight :=
  (congrArg (fun b => b.2.flight) (s.rowsWritten_besideStore t req rows) :)

theorem State.rowsWritten_hbm : (s.rowsWritten t req rows).hbm = s.hbm :=
  (congrArg (fun b => b.2.hbm) (s.rowsWritten_besideStore t req rows) :)

theorem State.rowsWritten_store : ((s.rowsWritten t req rows).tile t).store =
    rows.foldl (fun m p => memWriteBytes m p.1 p.2) (s.tile t).store :=
  (List.foldl_hom (fun st : State => (st.tile t).store)
    (fun st r => (st.storeWrite_store t req r.1 r.2).symm)).symm

end Rows

/-! ### Rows that do not overlap -/

/-- Where the rows of a destination lie: each at its multiple of the pitch. -/
def Move.targets (m : Move) (row : Nat → Bytes) : List (Nat × Bytes) :=
  (List.range m.rows).map fun r => (m.dst + r * m.dpitch, row r)

/-- Rows no longer than their pitch do not overlap, and a single row overlaps none. -/
theorem row_eq_of_meets {n w p r q j : Nat} (hfit : n = 1 ∨ w ≤ p) (hr : r < n) (hq : q < n) (hj : j < w)
    (hlo : q * p ≤ r * p + j) (hhi : r * p + j < q * p + w) : q = r := by
  rcases hfit with h1 | hwp
  · omega
  rcases Nat.lt_trichotomy q r with h | h | h
  · have hstep : (q + 1) * p ≤ r * p := Nat.mul_le_mul_right p h
    rw [Nat.succ_mul] at hstep
    omega
  · exact h
  · have hstep : (r + 1) * p ≤ q * p := Nat.mul_le_mul_right p h
    rw [Nat.succ_mul] at hstep
    omega

section Targets
variable {m : Move} {row : Nat → Bytes} (hlen : ∀ r, (row r).length = m.rowbytes) (mem : Mem)
include hlen

/-- A byte of a row that has been written is the row's. -/
theorem memRead_targets {r j : Nat} {b : Byte} (hfit : m.rows = 1 ∨ m.rowbytes ≤ m.dpitch) (hr : r < m.rows)
    (hj : j < m.rowbytes) (hb : (row r)[j]? = some b) :
    memRead ((m.targets row).foldl (fun m p => memWriteBytes m p.1 p.2) mem) (m.dst + r * m.dpitch + j) = b := by
  refine memRead_foldl_some ⟨(m.dst + r * m.dpitch, row r), List.mem_map.mpr ⟨r, List.mem_range.mpr hr, rfl⟩, ?_⟩ ?_ mem
  · simpa [stretchByte] using hb
  · intro p hp c hc
    obtain ⟨q, hq, rfl⟩ := List.mem_map.mp hp
    have hin : ¬ (m.dst + r * m.dpitch + j < m.dst + q * m.dpitch ∨
        m.dst + q * m.dpitch + (row q).length ≤ m.dst + r * m.dpitch + j) := fun hout => by
      rw [stretchByte_eq_none hout] at hc
      cases hc
    rw [hlen] at hin
    have hqr : q = r := row_eq_of_meets hfit hr (List.mem_range.mp hq) hj (by omega) (by omega)
    subst hqr
    have hc' : (row q)[j]? = some c := by simpa [stretchByte] using hc
    exact Option.some.inj (hc'.symm.trans hb)

/-- A byte in none of the rows stays. -/
theorem memRead_beside_targets {a : Nat}
    (hout : ∀ r, r < m.rows → a < m.dst + r * m.dpitch ∨ m.dst + r * m.dpitch + m.rowbytes ≤ a) :
    memRead ((m.targets row).foldl (fun m p => memWriteBytes m p.1 p.2) mem) a = memRead mem a := by
  refine memRead_foldl_none (fun p hp => ?_) mem
  obtain ⟨r, hr, rfl⟩ := List.mem_map.mp hp
  exact stretchByte_eq_none (by rw [hlen]; exact hout r (List.mem_range.mp hr))

end Targets

/-! ### The move (05_instruction_set R148, R149; 01_organisation R21) -/

section Within
variable {s : State} {i : Issue} {e : Env} {d : Bytes} (hsrc : (moveOf d).srcSpace = 0)
  (hdst : (moveOf d).dstSpace = 0) (u : Upset)
include hsrc hdst

/-- A move within a tile store whose rows lie in the store is an ordinary move. -/
theorem bodyMov_within_store (h : PostsDesc s i 3 0 e d) (hok : moveOk d = true) (hflags : (moveOf d).flags = 0)
    (hin : storeRowsOk (moveOf d).src (moveOf d).spitch (moveOf d).rows (moveOf d).rowbytes = true)
    (hout : storeRowsOk (moveOf d).dst (moveOf d).dpitch (moveOf d).rows (moveOf d).rowbytes = true)
    (hstatus : (moveOf d).status + 8 ≤ storeSize) : bodyMov u e s = moveGo e s d none false none u :=
  bodyMov_ordinary u h hok hstatus (by simpa [State.endOk, hsrc] using hin) (by simpa [State.endOk, hdst] using hout)
    (by simp [hflags, bit]) (by simp [State.sendAct, hdst]) (by simp [State.receiveAct, hsrc])

/-- Behind an earlier move within the store it stays to be done. -/
theorem State.moveTry_owed (howed : s.owedBefore e.c e.v e.q e.qu.seq e.v e.v = true) :
    s.moveTry (e.moveFlight d) d u = (s, { e.moveFlight d with work := .post d }) := by
  have hheld : ((moveOf d).dstTiles e.v).any (fun v =>
      s.owedBefore e.c e.v e.q e.qu.seq ((moveOf d).srcTile e.v) v) = true := by
    simpa [Move.dstTiles, Move.srcTile, hdst, hsrc] using howed
  exact if_neg (by simp only [Env.moveFlight, Env.flight, hheld]; simp)

/-- Rows read from the store are written to it, and the work is done. -/
theorem State.moveRun_within_store (hphys : s.physD e.c e.v = e.t) (hclean : (s.tile e.t).ecc = []) :
    s.moveRun (e.moveFlight d) d u =
      (s.rowsWritten e.t 6 ((moveOf d).targets (sourceRow s e (moveOf d))), e.moveFlight d) := by
  have hread : s.readLocal (s.envAt (e.moveFlight d)) (moveOf d) =
      ⟨s, (List.range (moveOf d).rows).map (sourceRow s e (moveOf d)), false⟩ := by
    have ht : (s.envAt (e.moveFlight d)).t = e.t := hphys
    have hrows := State.readLocal_store_rows (e := s.envAt (e.moveFlight d)) hsrc (by rw [ht]; exact hclean)
    have hrow : sourceRow s (s.envAt (e.moveFlight d)) (moveOf d) = sourceRow s e (moveOf d) := by
      funext r
      rw [sourceRow, ht, sourceRow]
    rw [hrows, hrow]
  have hmesh : s.moveMesh (s.envAt (e.moveFlight d)) (moveOf d) = [] := by simp [State.moveMesh, hsrc, hdst]
  have hwrite : s.writeLocal (s.envAt (e.moveFlight d)) (moveOf d)
      (numbered ((List.range (moveOf d).rows).map (sourceRow s e (moveOf d)))) =
      s.rowsWritten e.t 6 ((moveOf d).targets (sourceRow s e (moveOf d))) := by
    have ht : (s.envAt (e.moveFlight d)).t = e.t := hphys
    have hne : ¬ (moveOf d).dstSpace = 2 := by omega
    rw [State.writeLocal, if_neg hne, State.rowsWritten, Move.targets, numbered, List.length_map, List.length_range,
      ← List.map_prod_left_eq_zip, List.foldl_map]
    simp [Move.dstTiles, hdst, ht, moveReq, List.foldl_map]
  rw [State.moveRun, if_pos (by omega)]
  simp only [hread, hmesh, State.meshWords_nil, State.moveWrite, hdst, Nat.zero_lt_succ, if_true, hwrite]
  rfl

/-- With no earlier move of its queue before it a move within the store of a tile in RUN runs at once. -/
theorem State.moveTry_within_store (hphys : s.physD e.c e.v = e.t) (hclean : (s.tile e.t).ecc = [])
    (hruns : (s.tile e.t).runs = true) (hfree : s.owedBefore e.c e.v e.q e.qu.seq e.v e.v = false) :
    s.moveTry (e.moveFlight d) d u =
      (s.rowsWritten e.t 6 ((moveOf d).targets (sourceRow s e (moveOf d))), e.moveFlight d) := by
  have hruns' : s.tilesRun e.c e.v (moveOf d) = true := by
    simpa [State.tilesRun, Move.dstTiles, hsrc, hdst, hphys] using hruns
  have hnone : ((moveOf d).dstTiles e.v).any (fun v =>
      s.owedBefore e.c e.v e.q e.qu.seq ((moveOf d).srcTile e.v) v) = false := by
    simpa [Move.dstTiles, Move.srcTile, hdst, hsrc] using hfree
  have hgate : (s.tilesRun (e.moveFlight d).ctx (e.moveFlight d).vt (moveOf d) &&
      !((moveOf d).dstTiles (e.moveFlight d).vt).any fun v => s.owedBefore (e.moveFlight d).ctx (e.moveFlight d).vt
        (e.moveFlight d).queue (e.moveFlight d).seq ((moveOf d).srcTile (e.moveFlight d).vt) v) = true :=
    Bool.and_eq_true_iff.mpr ⟨hruns', by rw [Bool.not_eq_true']; exact hnone⟩
  exact (if_pos hgate).trans (State.moveRun_within_store hsrc hdst u hphys hclean)

end Within

/-- Settles O16: a move behind another is held, and one that runs writes the rows that it has read. -/
theorem moveWithinStoreCopies : Obligations.MoveWithinStoreCopies := by
  intro s i u e d m h hok hsrc hdst hflags hin hout hstatus hfit hruns
  have hphys : s.physD e.c e.v = e.t := State.physD_of_issueEnv h.issues.env
  have hexec : exec (.mov ⟨i, u⟩) s = _ :=
    exec_mov_of_go h.issues (bodyMov_within_store hsrc hdst u h hok hflags hin hout hstatus)
  rw [State.act_moveGo] at hexec
  refine ⟨fun howed => ?held, fun hfree => ?runs⟩
  case held =>
    rw [State.moveTry_owed hsrc hdst u howed] at hexec
    exact hexec
  case runs =>
    rw [State.moveTry_within_store hsrc hdst u hphys h.clean hruns hfree] at hexec
    have hlen (r : Nat) : (sourceRow s e m r).length = m.rowbytes := memReadBytes_length ..
    refine ⟨_, hexec, fun r j hr hj => ?copied, fun a ha => ?stays, fun v hv => ?tiles, ?flight, fun htrace => ?hbm⟩
    case copied =>
      rw [State.commit_store, State.rowsWritten_store]
      exact memRead_targets hlen _ hfit hr hj (memReadBytes_get _ _ _ _ hj)
    case stays =>
      rw [State.commit_store, State.rowsWritten_store]
      exact memRead_beside_targets hlen _ ha
    case tiles => rw [State.commit_store, State.rowsWritten_tile _ _ _ _ hv]
    case flight => rw [State.commit_flight, State.rowsWritten_flight]; rfl
    case hbm =>
      have htrace' : (s.rowsWritten e.t 6 (m.targets (sourceRow s e m))).untraced e := by
        simpa only [State.untraced, Cnt.traces, State.rowsWritten_trcCtl] using htrace
      rw [State.commit_hbm _ _ _ _ htrace', State.rowsWritten_hbm]

end Sys2Proof.Machine
end

section
/-! What the data paths leave as it is: the exception logs and the enables of the tiles (O8). -/

namespace Sys2Proof.Machine

/-! ### The exception logs and the enables -/

/-- What the registers show of each tile's exceptions and enable. -/
def State.excView (s : State) : Nat → W64 × Enable := fun t => ((s.tile t).excLog, (s.tile t).en)

/-- A change of anything but the tiles shows the same. -/
@[simp] theorem State.excView_mk (s : State) (pending : List Instr) (tctx : Tbl TileCtx) (flight : List Flight)
    (sigs : List SigInc) (uoas : Tbl Uoa) (uoaDev : UoaDev) (ctxs : Tbl Ctx) (engines : Tbl Engine)
    (installs : List Install) (foldLog : W64) (fab : Fab) (remotes : List Remote) (nextTag : Nat) (hbm : Hbm) (cnt : Cnt)
    (host : HostPort) (ctxBlk : CtxBlock) (aon : Aon) (fuses : Fuses) (sec : Sec) (pmc : Pmc) (tst : Tst)
    (out : List Out) (free : Nat) :
    State.excView ⟨pending, s.tiles, tctx, flight, sigs, uoas, uoaDev, ctxs, engines, installs, foldLog, fab, remotes,
      nextTag, hbm, cnt, host, ctxBlk, aon, fuses, sec, pmc, tst, out, free⟩ = s.excView := funext fun _ => rfl

/-- A tile replaced by one with the same log and enable shows the same. -/
theorem State.setTile_excView {s : State} {t : Nat} {x : Tile} (hlog : x.excLog = (s.tile t).excLog)
    (hen : x.en = (s.tile t).en) : (s.setTile t x).excView = s.excView := by
  funext u
  unfold State.excView
  rw [State.tile_setTile]
  split
  · subst u; rw [hlog, hen]
  · rfl

@[simp] theorem State.setTc_excView (s : State) (c v : Nat) (x : TileCtx) : (s.setTc c v x).excView = s.excView := rfl
@[simp] theorem State.setCtx_excView (s : State) (c : Nat) (x : Ctx) : (s.setCtx c x).excView = s.excView := rfl
@[simp] theorem State.setUoa_excView (s : State) (t : Nat) (x : Uoa) : (s.setUoa t x).excView = s.excView := rfl
@[simp] theorem State.setNode_excView (s : State) (n : FragNode) : (s.setNode n).excView = s.excView := rfl
@[simp] theorem State.setColl_excView (s : State) (k : Coll) : (s.setColl k).excView = s.excView := rfl
@[simp] theorem State.setRb_excView (s : State) (t k : Nat) (e : RbEntry) : (s.setRb t k e).excView = s.excView := rfl
@[simp] theorem State.setControl_excView (s : State) (k : Control) : (s.setControl k).excView = s.excView := rfl
@[simp] theorem State.setFlight_excView (s : State) (f g : Flight) : (s.setFlight f g).excView = s.excView := rfl
@[simp] theorem State.freeAccs_excView (s : State) (c : Nat) (keys : List (List Nat)) :
    (s.freeAccs c keys).excView = s.excView := rfl
@[simp] theorem State.answerRemote_excView (s : State) (tag : Nat) (ok : Bool) (data : Bytes) :
    (s.answerRemote tag ok data).excView = s.excView := rfl
@[simp] theorem State.holdFrame_excView (s : State) (p : Nat) (f : Frame) : (s.holdFrame p f).excView = s.excView := rfl
@[simp] theorem State.noteControl_excView (s : State) (c kind : Nat) (key : List Nat) (rank from_ low : Nat)
    (data : Bytes) : (s.noteControl c kind key rank from_ low data).excView = s.excView := rfl

/-! ### Events and memory (04_tile_store_vector R106; 11_memory_tiers R341; 17_counters_trace R495) -/

@[simp] theorem State.ev_excView (s : State) (e u : Nat) (l : List Nat) (n : Nat) : (s.ev e u l n).excView = s.excView := by
  funext t
  exact (congrArg (fun x : Tile => (x.excLog, x.en)) (s.ev_tile e u l n t) :)

@[simp] theorem State.evTile_excView (s : State) (e t n : Nat) : (s.evTile e t n).excView = s.excView := s.ev_excView ..

@[simp] theorem State.hardEvent_excView (s : State) (t : Nat) : (s.hardEvent t).excView = s.excView := by
  rw [State.hardEvent, State.evTile_excView]
  exact State.setTile_excView rfl rfl

theorem State.meetWord_excView (t req : Nat) (s : State) (b : Nat × Health) :
    (State.meetWord t req s b).excView = s.excView := by
  unfold State.meetWord
  split
  · rw [State.storeCe, State.evTile_excView]
    exact State.setTile_excView rfl rfl
  · rw [State.storeUe, State.hardEvent_excView, State.evTile_excView]
    exact State.setTile_excView rfl rfl

@[simp] theorem State.storeRead_excView (s : State) (t req a n : Nat) : (s.storeRead t req a n).s.excView = s.excView :=
  foldl_keeps State.excView (State.meetWord_excView t req) _ s

@[simp] theorem State.storeWrite_excView (s : State) (t req a : Nat) (bs : Bytes) :
    (s.storeWrite t req a bs).excView = s.excView := by
  unfold State.storeWrite
  dsimp only
  refine (State.setTile_excView ?_ ?_).trans (foldl_keeps State.excView (State.meetWord_excView t req) _ s)
  · rfl
  · rfl

@[simp] theorem State.meshWords_excView (s : State) (tiles : List Nat) (l : List (Nat × Bool)) :
    (s.meshWords tiles l).1.excView = s.excView := by
  refine foldl_keeps State.excView (fun (st : State) (x : Nat × Bool) => ?_) _ s
  unfold State.meshWord
  split
  · rw [State.hardEvent_excView, State.evTile_excView]
    exact State.setTile_excView rfl rfl
  · exact st.evTile_excView ..

@[simp] theorem State.hbmRead_excView (s : State) (a n : Nat) : (s.hbmRead a n).s.excView = s.excView :=
  (congrArg (fun b t => ((Tbl.get {} b.1 t : Tile).excLog, (Tbl.get {} b.1 t : Tile).en)) (s.hbmRead_besideCodes a n) :)

@[simp] theorem State.hbmWrite_excView (s : State) (a : Nat) (bs : Bytes) : (s.hbmWrite a bs).excView = s.excView :=
  (congrArg (fun b t => ((Tbl.get {} b.1 t : Tile).excLog, (Tbl.get {} b.1 t : Tile).en)) (s.hbmWrite_besideCodes a bs) :)

theorem State.ctxRead_excView {s : State} {c a n : Nat} {r : Rd} (h : s.ctxRead c a n = some r) :
    r.s.excView = s.excView := by
  obtain ⟨d, -, rfl⟩ := Option.map_eq_some_iff.mp h
  exact s.hbmRead_excView d n

@[simp] theorem State.ctxWrite_excView (s : State) (c a : Nat) (bs : Bytes) : (s.ctxWrite c a bs).excView = s.excView := by
  unfold State.ctxWrite
  split <;> simp

@[simp] theorem State.putTensor_excView (s : State) (c : Nat) (x : Tensor) : (s.putTensor c x).excView = s.excView := by
  unfold State.putTensor
  split <;> simp

@[simp] theorem State.formChats_excView (s : State) (c : Nat) : (s.formChats c).excView = s.excView := by
  unfold State.formChats
  split
  · rfl
  split
  · rfl
  split
  · rfl
  refine (State.setCtx_excView ..).trans (foldl_keeps State.excView (fun st x => ?_) _ s)
  dsimp only
  split
  · rfl
  split <;> simp

@[simp] theorem State.settleChats_excView (s : State) : s.settleChats.excView = s.excView :=
  foldl_keeps State.excView State.formChats_excView _ s

@[simp] theorem State.dataWrite_excView (s : State) (a : Nat) (bs : Bytes) : (s.dataWrite a bs).excView = s.excView := by
  rw [State.dataWrite, State.settleChats_excView]
  split
  · exact s.hbmWrite_excView a bs
  · exact foldl_keeps State.excView (fun (st : State) (p : Nat × Bytes) => st.hbmWrite_excView p.1 p.2) _ s

@[simp] theorem State.ctxStore_excView (s : State) (c a : Nat) (bs : Bytes) : (s.ctxStore c a bs).excView = s.excView := by
  unfold State.ctxStore
  split <;> simp

@[simp] theorem State.readRange_excView (s : State) (c t : Nat) (hbm : Bool) (a n : Nat) :
    (s.readRange c t hbm a n).s.excView = s.excView := by
  unfold State.readRange
  split
  · cases hr : s.ctxRead c a n with
    | none => rfl
    | some r => exact State.ctxRead_excView hr
  · exact s.storeRead_excView ..

@[simp] theorem State.writeDst_excView (s : State) (k : Coll) (o : Nat) (bs : Bytes) :
    (s.writeDst k o bs).excView = s.excView := by
  unfold State.writeDst State.writeRange
  split
  · rfl
  split <;> simp

/-! ### Frames sent (09_causeway_collectives R264, R268, R275) -/

@[simp] theorem State.enqueue_excView (s : State) (p : Nat) (t : TxFrame) : (s.enqueue p t).excView = s.excView :=
  (congrArg State.excView (s.enqueue_offLine p t) :)

@[simp] theorem State.route_excView (s : State) (t : TxFrame) : (s.route t).excView = s.excView := by
  unfold State.route
  split
  · rfl
  split
  · rfl
  · exact foldl_keeps State.excView (fun st x => st.enqueue_excView _ x) _ s

@[simp] theorem State.sendFrame_excView (s : State) (f : Frame) : (s.sendFrame f).excView = s.excView := by
  unfold State.sendFrame
  dsimp only
  split <;> simp

@[simp] theorem State.sendBytes_excView (s : State) (proto : Frame) (bs : Bytes) :
    (s.sendBytes proto bs).excView = s.excView :=
  foldl_keeps State.excView State.sendFrame_excView _ s

@[simp] theorem State.sendGrant_excView (s : State) (c group a b dst flow ty vc cseq : Nat) (key : List Nat) :
    (s.sendGrant c group a b dst flow ty vc cseq key).excView = s.excView := s.sendFrame_excView _

@[simp] theorem State.collSend_excView (s : State) (k : Coll) (vc rank off : Nat) (bs : Bytes) :
    (s.collSend k vc rank off bs).excView = s.excView := s.sendBytes_excView ..

@[simp] theorem State.sendControl_excView (s : State) (c dev group a b vc kind : Nat) (key : List Nat) (low : Nat)
    (data : Bytes) : (s.sendControl c dev group a b vc kind key low data).excView = s.excView := s.sendFrame_excView _

@[simp] theorem State.controlDown_excView (s : State) (c gid root rank kind : Nat) (key : List Nat) (low : Nat)
    (data : Bytes) : (s.controlDown c gid root rank kind key low data).excView = s.excView :=
  foldl_keeps State.excView (fun st _ => st.sendControl_excView ..) _ s

@[simp] theorem State.reportRing_excView (s : State) (c peer flow freed taken : Nat) :
    (s.reportRing c peer flow freed taken).excView = s.excView := by
  unfold State.reportRing
  split <;> simp

@[simp] theorem State.freeFrame_excView (s : State) (p : Nat) (f : Frame) : (s.freeFrame p f).excView = s.excView := by
  unfold State.freeFrame
  split <;> rfl

@[simp] theorem State.fabLog_excView (s : State) (cause port src epoch : Nat) :
    (s.fabLog cause port src epoch).excView = s.excView := by
  unfold State.fabLog
  split
  · rfl
  · exact State.excView_mk ..

@[simp] theorem State.raise_excView (s : State) (c cause subject : Nat) : (s.raise c cause subject).excView = s.excView := by
  unfold State.raise
  dsimp only
  split <;> rfl

/-! ### Events and answers to the host (14_host_port R440, R442) -/

@[simp] theorem State.ctxEvent_excView (s : State) (c code : Nat) (payload : Bytes) :
    (s.ctxEvent c code payload).excView = s.excView :=
  (congrArg State.excView (s.ctxEvent_besideReport c code payload) :)

@[simp] theorem State.answerLater_excView (s : State) (ty c status : Nat) :
    (s.answerLater ty c status).excView = s.excView := by
  refine foldl_keeps State.excView (fun st d => ?_) _ _
  split <;> rfl

/-! ### Nodes of reduction trees (09_causeway_collectives R279 to R282) -/

@[simp] theorem State.accepted_excView (s : State) (c : Nat) (who : Option (Nat × Nat × Nat)) :
    (s.accepted c who).excView = s.excView := by
  cases who <;> rfl

@[simp] theorem State.replicaDown_excView (s : State) (c rank : Nat) (m : SMap) (tr : FragTree) (f : Fragment)
    (port : Option (Nat × Nat × Nat)) : (s.replicaDown c rank m tr f port).excView = s.excView :=
  foldl_keeps State.excView (fun st _ => st.sendBytes_excView ..) _ s

@[simp] theorem State.nodeSend_excView (s : State) (c : Nat) (m : SMap) (x : Tensor) (tr : FragTree) (n : FragNode) :
    (s.nodeSend c m x tr n).excView = s.excView := by
  unfold State.nodeSend
  dsimp only
  split
  · rfl
  split <;> simp

theorem State.takeAcc_excView {s t : State} {c : Nat} {key : List Nat} (h : s.takeAcc c key = some t) :
    t.excView = s.excView := by
  unfold State.takeAcc at h
  split at h
  · rw [Option.some.inj h]
  · obtain ⟨k, -, rfl⟩ := Option.map_eq_some_iff.1 h
    rfl

theorem State.takeAccs_excView {c : Nat} {keys : List (List Nat)} {s t : State}
    (h : keys.foldl (fun o k => o.bind fun st => st.takeAcc c k) (some s) = some t) : t.excView = s.excView := by
  have keep : ∀ (o : Option State), (∀ u ∈ o, u.excView = s.excView) →
      ∀ u ∈ keys.foldl (fun o k => o.bind fun st => st.takeAcc c k) o, u.excView = s.excView := by
    clear h
    induction keys with
    | nil => exact fun o ho => ho
    | cons k keys ih =>
      refine fun o ho => ih _ fun u hu => ?_
      obtain ⟨v, hv, hk⟩ := Option.bind_eq_some_iff.mp hu
      exact (State.takeAcc_excView hk).trans (ho v hv)
  exact keep (some s) (fun u hu => by rw [Option.some.inj hu]) t h

@[simp] theorem State.nodeStep_excView (s : State) (c : Nat) (m : SMap) (x : Tensor) (tr : FragTree) (n : FragNode) :
    (s.nodeStep c m x tr n).excView = s.excView := by
  unfold State.nodeStep
  dsimp only
  split
  · rfl
  next t ht =>
    have htaken : t.excView = s.excView := by
      split at ht
      · rw [Option.some.inj ht]
      · exact State.takeAccs_excView ht
    split
    · split <;> simp [apply_ite State.excView, htaken]
    split
    · split <;> simp [apply_ite State.excView, htaken]
    · split <;> simp [apply_ite State.excView, htaken]

@[simp] theorem State.stepNode_excView (s : State) (n : FragNode) : (s.stepNode n).excView = s.excView := by
  unfold State.stepNode
  split
  · split <;> simp
  · rfl

@[simp] theorem State.runNode_excView (s : State) (n : FragNode) : (s.runNode n).excView = s.excView := by
  unfold State.runNode
  dsimp only
  split
  · exact (foldl_keeps State.excView State.stepNode_excView _ _).trans (s.stepNode_excView n)
  · exact s.stepNode_excView n

@[simp] theorem State.nodeInput_excView (s : State) (c rank from_ : Nat) (f : Fragment)
    (who : Option (Nat × Nat × Nat)) : (s.nodeInput c rank from_ f who).excView = s.excView := State.runNode_excView ..

@[simp] theorem State.nodeGrant_excView (s : State) (c tid fidx mstone rank : Nat) :
    (s.nodeGrant c tid fidx mstone rank).excView = s.excView := State.runNode_excView ..

@[simp] theorem State.sendFragment_excView (s : State) (c : Nat) (who : Option (Nat × Nat × Nat)) (f : Fragment) :
    (s.sendFragment c who f).excView = s.excView := by
  unfold State.sendFragment
  split
  · split
    · rfl
    dsimp only
    split
    · rfl
    split <;> simp
  · rfl

@[simp] theorem State.fragArrived_excView (s : State) (c src vc : Nat) (f : Fragment)
    (port : Option (Nat × Nat × Nat)) : (s.fragArrived c src vc f port).excView = s.excView := by
  unfold State.fragArrived
  dsimp only
  split
  · split
    · rfl
    split
    · rfl
    split
    · simp
    split
    · rfl
    split
    · rw [State.nodeInput_excView]
      split <;> rfl
    · rfl
  · rfl

/-! ### The part's own reductions and multicasts (09_causeway_collectives R278, R279, R292) -/

@[simp] theorem State.reduceControl_excView (s : State) (k : Control) : (s.reduceControl k).excView = s.excView := by
  unfold State.reduceControl
  dsimp only
  split
  · rfl
  split
  · rfl
  split
  · simp
  · split <;> simp

@[simp] theorem State.takeControl_excView (s : State) (c : Nat) (f : Frame) (kind : Nat) (key : List Nat) (low : Nat)
    (data : Bytes) : (s.takeControl c f kind key low data).excView = s.excView := by
  unfold State.takeControl
  dsimp only
  simp only [apply_ite State.excView, State.sendControl_excView, State.reduceControl_excView, State.controlDown_excView,
    State.noteControl_excView, State.setControl_excView, ite_self]

end Sys2Proof.Machine
end

section
/-! What the matrix arrays leave as it is: the exception logs and the enables of the tiles (O8). -/

namespace Sys2Proof.Machine

/-! ### Watches and increments of the host (14_host_port R441) -/

@[simp] theorem State.testWatch_excView (s : State) (c k : Nat) : (s.testWatch c k).excView = s.excView := by
  unfold State.testWatch
  split
  · rw [State.ctxEvent_excView, State.setCtx_excView, State.setTc_excView]
  · rfl

theorem State.watchCycles_excView (c n : Nat) (s : State) : (State.watchCycles c n s).excView = s.excView := by
  induction n generalizing s with
  | zero => rfl
  | succ n ih =>
    unfold State.watchCycles
    split
    · exact (ih _).trans (foldl_keeps State.excView (fun st k => st.testWatch_excView c k) _ s)
    · rfl

@[simp] theorem State.testWatches_excView (s : State) (c : Nat) : (s.testWatches c).excView = s.excView :=
  State.watchCycles_excView c _ s

/-- An increment that no queue of a tile has raised halts none. -/
theorem State.applySig_excView (s : State) {x : SigInc} (hq : 4 ≤ x.srcQ) : (s.applySig x).excView = s.excView := by
  unfold State.applySig
  dsimp only
  rw [State.testWatches_excView, if_neg (by simp; omega), State.setTc_excView]

/-! ### Operands read (03_matrix_array R75 to R79) -/

theorem readRows_excView (t req pitch nb n a : Nat) (s : State) : (readRows t req pitch nb n a s).s.excView = s.excView := by
  induction n generalizing a s with
  | zero => rfl
  | succ n ih =>
    unfold readRows
    exact (ih ..).trans (s.storeRead_excView ..)

@[simp] theorem State.noteHeld_excView (s : State) (c step vt saddr : Nat) (l : List Fv) :
    (s.noteHeld c step vt saddr l).excView = s.excView := rfl

@[simp] theorem State.readMat_excView (s : State) (e : Env) (o : Opd) (nr nc : Nat) (along : Bool) (l : List Bytes) :
    (s.readMat e o nr nc along l).s.excView = s.excView := by
  have hrows (t req nb : Nat) : (if o.kind = 1 then (⟨s, l.take nr, false⟩ : RowRd)
      else readRows t req o.pitch nb nr o.ea s).s.excView = s.excView := by
    split
    · rfl
    · exact readRows_excView ..
  unfold State.readMat
  dsimp only
  generalize hr : (if o.kind = 1 then (⟨s, l.take nr, false⟩ : RowRd) else _) = r
  have hrs : r.s.excView = s.excView := hr ▸ hrows _ _ _
  generalize hr2 : (if (o.blk != 0) = true then _ else _ : Rd) = r2
  have hr2s : r2.s.excView = s.excView := by
    rw [← hrs, ← hr2]
    split
    · exact State.storeRead_excView ..
    split
    · exact State.storeRead_excView ..
    · rfl
  split
  · rw [State.noteHeld_excView, hr2s]
  · exact hr2s

@[simp] theorem State.operandA_excView (s : State) (e : Env) (m : MInst) (l : List Bytes) :
    (s.operandA e m l).1.s.excView = s.excView := State.readMat_excView ..

@[simp] theorem State.operandB_excView (s : State) (e : Env) (m : MInst) (l : List Bytes) :
    (s.operandB e m l).1.s.excView = s.excView := State.readMat_excView ..

@[simp] theorem State.rawRows_excView (s : State) (e : Env) (m : MInst) (o : Opd) (p : Pre) (l : List Bytes) :
    (s.rawRows e m o p l).s.excView = s.excView := by
  unfold State.rawRows
  dsimp only
  split
  · exact State.readMat_excView ..
  · refine foldl_keeps (fun acc : MatRd => acc.s.excView) (fun acc n => ?_) _ _
    exact acc.s.readMat_excView ..

@[simp] theorem State.rootSlice_excView (s : State) (t : Nat) (p : Pre) (cols : Nat) :
    (s.rootSlice t p cols).1.s.excView = s.excView := readRows_excView ..

/-! ### Residue checks, drains and taps (03_matrix_array R90 to R100; 06_curvature_taps R163 to R165) -/

theorem State.noteResidues_excView (s : State) (t q seq : Nat) (m : MInst) (l : List (Residue × Nat)) :
    (s.noteResidues t q seq m l).1.excView = s.excView := by
  induction l generalizing s with
  | nil => rfl
  | cons x xs ih =>
    unfold State.noteResidues
    split
    · exact ih s
    · exact (ih _).trans (s.evTile_excView ..)
    · dsimp only
      rw [ih, State.hardEvent_excView, State.evTile_excView]
      exact State.setTile_excView rfl rfl

@[simp] theorem State.writePacked_excView (s : State) (t req a w : Nat) (codes : List Nat) :
    (s.writePacked t req a w codes).excView = s.excView := by
  unfold State.writePacked
  dsimp only
  split <;> exact State.storeWrite_excView ..

@[simp] theorem State.writeRows_excView (t req w pitch a : Nat) (rows : List (List Nat)) (s : State) :
    (State.writeRows t req w pitch a rows s).excView = s.excView := by
  induction rows generalizing a s with
  | nil => rfl
  | cons r rs ih => exact (ih ..).trans (s.writePacked_excView ..)

@[simp] theorem State.drainStore_excView (s : State) (e : Env) (m : MInst) (c : List (List W32)) (ints : List (List Int)) :
    (s.drainStore e m c ints).1.excView = s.excView := by
  unfold State.drainStore
  dsimp only
  split
  · rw [State.writeRows_excView]
    split
    · rw [State.noteHeld_excView, State.storeRead_excView]
    · rfl
  · rw [apply_ite State.excView, State.evTile_excView, ite_self]
    refine (foldl_keeps State.excView (fun st gi => ?_) _ _).trans (State.writeRows_excView ..)
    exact foldl_keeps State.excView (fun st gj => State.storeWrite_excView ..) _ st

@[simp] theorem State.tapSide_excView (s : State) (e : Env) (slot : Nat) (rooted : Bool) (cuts : List Nat)
    (l : List (List Fv)) : (s.tapSide e slot rooted cuts l).1.excView = s.excView := by
  unfold State.tapSide
  dsimp only
  split
  · rfl
  · rw [State.evTile_excView, State.setTc_excView]

@[simp] theorem State.suspectSlots_excView (s : State) (c v : Nat) (l : List Nat) :
    (s.suspectSlots c v l).excView = s.excView := by
  refine foldl_keeps State.excView (fun st k => ?_) l s
  dsimp only
  split <;> rfl

@[simp] theorem State.tapWord_excView (s : State) (e : Env) (l : List Nat) (x : Nat × Bool) :
    (s.tapWord e l x).excView = s.excView := by
  unfold State.tapWord
  split
  · rfl
  split
  · exact s.evTile_excView ..
  · rw [State.hardEvent_excView, State.evTile_excView]
    refine (State.setTile_excView ?_ ?_).trans (s.suspectSlots_excView ..)
    · rfl
    · rfl

@[simp] theorem State.tapUnbound_excView (s : State) (e : Env) (m : MInst) : (s.tapUnbound e m).excView = s.excView := by
  refine foldl_keeps State.excView (fun st k => ?_) _ s
  split
  · rfl
  · exact st.evTile_excView ..

@[simp] theorem State.tapPlain_excView (s : State) (e : Env) (m : MInst) (av bv : FlM) :
    (s.tapPlain e m av bv).1.excView = s.excView := by
  unfold State.tapPlain
  dsimp only
  split
  · rw [State.tapSide_excView]
    split
    · exact State.tapSide_excView ..
    · rfl
  · split
    · exact State.tapSide_excView ..
    · rfl

/-! ### Products (03_matrix_array R74, R85 to R93) -/

@[simp] theorem State.product_excView (s : State) (e : Env) (f : Flight) (w : MWork) (m : MInst) (av bv : FlM) (ue : Bool)
    (upset : Upset) : (s.product e f w m av bv ue upset).excView = s.excView := by
  unfold State.product
  dsimp only
  generalize hc : (if m.p.acc = true then _ else _ : MatRd) = c0
  have hcs : c0.s.excView = s.excView := by
    rw [← hc]
    split
    · exact State.readMat_excView ..
    · rfl
  have htaps (st : State) : (upset.taps.foldl (fun st y => st.tapWord e m.p.slots y) st).excView = st.excView :=
    foldl_keeps State.excView (fun a y => a.tapWord_excView ..) _ st
  split
  · refine (foldl_keeps State.excView (fun a y => a.sendFragment_excView ..) _ _).trans ?_
    simp only [State.suspectSlots_excView, State.setFlight_excView, htaps, apply_ite State.excView,
      State.evTile_excView, ite_self, State.noteResidues_excView, State.meshWords_excView, hcs]
  · simp only [State.suspectSlots_excView, State.setFlight_excView, State.drainStore_excView, htaps,
      apply_ite State.excView, State.evTile_excView, ite_self, State.noteResidues_excView, State.meshWords_excView, hcs]

@[simp] theorem State.sampleAndMultiply_excView (s : State) (e : Env) (f : Flight) (w : MWork) (m : MInst) (a b : FlM)
    (ue : Bool) (upset : Upset) : (s.sampleAndMultiply e f w m a b ue upset).excView = s.excView := by
  unfold State.sampleAndMultiply
  simp

@[simp] theorem State.runMma_excView (s : State) (f : Flight) (w : MWork) (upset : Upset) :
    (s.runMma f w upset).excView = s.excView := by
  unfold State.runMma
  simp

@[simp] theorem State.multicastShare_excView (s : State) (e : Env) (p : Pre) (side : Nat)
    (rows : List (List (Nat × Nat))) : (s.multicastShare e p side rows).excView = s.excView :=
  foldl_keeps State.excView (fun st _ => st.setTc_excView ..) _ s

@[simp] theorem State.rootProducts_excView (s : State) (e : Env) (f : Flight) (w : MWork) (m : MInst) (side : Nat)
    (upset : Upset) : (s.rootProducts e f w m side upset).s.excView = s.excView := by
  unfold State.rootProducts
  dsimp only
  rw [State.setFlight_excView, apply_ite State.excView, State.evTile_excView, ite_self, State.noteResidues_excView,
    State.rootSlice_excView]
  have htap {tapped : Prop} [Decidable tapped] {r : MatRd} (hr : r.s.excView = s.excView) (slot : Nat)
      (cuts : List Nat) (l : List (List Fv)) :
      (if tapped then r.s.tapSide e slot true cuts l else (r.s, [])).1.excView = s.excView := by
    split
    · rw [State.tapSide_excView, hr]
    · exact hr
  exact htap (State.rawRows_excView ..) ..

@[simp] theorem State.runShare_excView (s : State) (e : Env) (f : Flight) (w : MWork) (m : MInst) (side : Nat)
    (upset : Upset) : (s.runShare e f w m side upset).1.excView = s.excView := by
  unfold State.runShare
  dsimp only
  generalize (if side = 0 then preA w.pre else preB w.pre) = p
  split
  · rw [State.multicastShare_excView, State.rootProducts_excView]
  · rfl

@[simp] theorem State.runShares_excView (s : State) (f : Flight) (w : MWork) (upset : Upset) :
    (s.runShares f w upset).excView = s.excView := by
  unfold State.runShares
  simp

@[simp] theorem State.writeRing_excView (s : State) (t : Nat) (p : Pre) (w row slot : Nat) (l : List (List (List Nat))) :
    (s.writeRing t p w row slot l).excView = s.excView :=
  foldl_keeps State.excView (fun _ _ => State.writeRows_excView ..) _ s

theorem State.ringOperand_excView {s : State} {e : Env} {w : MWork} {m : MInst} {side : Nat} {x : State × FlM}
    (h : s.ringOperand e w m side = some x) : x.1.excView = s.excView := by
  unfold State.ringOperand at h
  dsimp only at h
  split at h
  · cases h
  · rw [← Option.some.inj h, State.writeRing_excView, State.setTc_excView]

/-- An operand of the gradient product, from the ring or plain, leaves the logs as they are. -/
theorem gradientOperand_excView {s : State} {e : Env} {w : MWork} {m : MInst} {side : Nat} {root : Bool}
    {plain x : State × FlM × Bool} (hplain : plain.1.excView = s.excView)
    (h : (if root = true then (s.ringOperand e w m side).map fun x => (x.1, x.2, false) else some plain) = some x) :
    x.1.excView = s.excView := by
  split at h
  · obtain ⟨y, hy, rfl⟩ := Option.map_eq_some_iff.mp h
    exact State.ringOperand_excView hy
  · rw [← Option.some.inj h, hplain]

@[simp] theorem State.runGradient_excView (s : State) (f : Flight) (w : MWork) (upset : Upset) :
    (s.runGradient f w upset).excView = s.excView := by
  unfold State.runGradient
  dsimp only
  split
  · rfl
  next xa ha =>
    have hxa := gradientOperand_excView (State.operandA_excView ..) ha
    split
    · exact rfl
    next xb hb => rw [State.sampleAndMultiply_excView, gradientOperand_excView (State.operandB_excView ..) hb, hxa]

/-! ### The array's turns (09_causeway_collectives R288) -/

@[simp] theorem State.takeRows_excView (s : State) (e : Env) (o : Opd) (n : Nat) :
    (s.takeRows e o n).1.excView = s.excView := by
  unfold State.takeRows
  split
  · rfl
  next x hx =>
    dsimp only
    rw [apply_ite State.excView, State.reportRing_excView, ite_self, State.excView_mk]
    refine foldl_keeps (fun acc : State × List Bytes × Bool => acc.1.excView) (fun acc i => ?_) _ _
    exact acc.1.storeRead_excView ..

@[simp] theorem State.takeFor_excView (s : State) (e : Env) (o : Opd) (need have_ : Nat) :
    (s.takeFor e o need have_).1.excView = s.excView := by
  unfold State.takeFor
  split <;> simp

@[simp] theorem State.advanceMatrix_excView (s : State) (f : Flight) (w : MWork) (upset : Upset) :
    (s.advanceMatrix f w upset).excView = s.excView := by
  unfold State.advanceMatrix
  dsimp only
  split
  · simp
  split
  · simp
  split
  · split <;> simp [apply_ite State.excView]
  · simp [apply_ite State.excView]

theorem State.pumpMatrix_excView (upset : Upset) (n : Nat) (s : State) :
    (State.pumpMatrix upset n s).excView = s.excView := by
  induction n generalizing s with
  | zero => rfl
  | succ n ih =>
    unfold State.pumpMatrix
    dsimp only
    split
    · rfl
    · exact (ih _).trans (foldl_keeps State.excView (fun st fw => st.advanceMatrix_excView ..) _ s)

@[simp] theorem State.runArrays_excView (s : State) (upset : Upset) : (s.runArrays upset).excView = s.excView :=
  State.pumpMatrix_excView upset _ s

@[simp] theorem State.settleIdentities_excView (s : State) : s.settleIdentities.excView = s.excView := rfl

end Sys2Proof.Machine
end

section
/-! What collectives, streams and delivered frames leave as it is: the exception logs and the enables of the tiles
(O8). -/

namespace Sys2Proof.Machine

/-! ### Collectives (09_causeway_collectives R280 to R287) -/

@[simp] theorem State.endPost_excView (s : State) (c v q seq status : Nat) (ue : Bool) :
    (s.endPost c v q seq status ue).excView = s.excView := by
  unfold State.endPost
  split <;> rfl

@[simp] theorem State.collDone_excView (s : State) (k : Coll) (count : Nat) : (s.collDone k count).excView = s.excView := by
  unfold State.collDone
  dsimp only
  split
  · exact State.endPost_excView ..
  · exact State.endPost_excView ..

@[simp] theorem State.sendChunk_excView (s : State) (k : Coll) (g : Group) (x : Nat × Nat) (v : List W32) :
    (s.sendChunk k g x v).excView = s.excView := by
  unfold State.sendChunk
  dsimp only
  split
  · exact State.collSend_excView ..
  split
  · rw [State.writeDst_excView]
    exact foldl_keeps State.excView (fun _ _ => State.collSend_excView ..) _ s
  · exact State.writeDst_excView ..

@[simp] theorem State.stepChunk_excView (s : State) (k : Coll) (x : Nat × Nat) : (s.stepChunk k x).excView = s.excView := by
  unfold State.stepChunk
  split
  · rfl
  dsimp only
  split
  · rfl
  split
  · rfl
  next t ht =>
    have hst : t.excView = s.excView := by
      split at ht
      · rw [Option.some.inj ht]
      · exact State.takeAcc_excView ht
    split
    · exact foldl_keeps State.excView (fun _ _ => State.sendGrant_excView ..) _ _ |>.trans hst
    split
    · split
      · exact hst
      · exact (State.sendChunk_excView ..).trans hst
    · split
      · exact hst
      · exact (State.sendChunk_excView ..).trans hst

@[simp] theorem State.stepReduce_excView (s : State) (k : Coll) : (s.stepReduce k).excView = s.excView := by
  have hs (l : List (Nat × Nat)) : (l.foldl (fun st x => st.stepChunk k x) s).excView = s.excView :=
    foldl_keeps State.excView (fun _ _ => State.stepChunk_excView ..) l s
  unfold State.stepReduce
  dsimp only
  split
  · exact hs _
  split
  · rw [State.collDone_excView, hs]
  · exact hs _

@[simp] theorem State.stepGather_excView (s : State) (k : Coll) : (s.stepGather k).excView = s.excView := by
  unfold State.stepGather
  dsimp only
  generalize hx : (if k.sent = true then s else _) = s1
  have hs : s1.excView = s.excView := by
    subst hx
    split
    · rfl
    split
    · exact State.writeDst_excView ..
    · exact (foldl_keeps State.excView (fun _ _ => State.collSend_excView ..) _ _).trans (State.writeDst_excView ..)
  split
  · split
    · exact (State.collDone_excView ..).trans hs
    · exact hs
  · exact hs

@[simp] theorem State.raggedReplies_excView (s : State) (k : Coll) : (s.raggedReplies k).excView = s.excView := by
  unfold State.raggedReplies
  split
  · rfl
  split
  · rfl
  dsimp only
  split
  · rfl
  · exact foldl_keeps State.excView (fun _ _ => State.collSend_excView ..) _ _

@[simp] theorem State.raggedData_excView (s : State) (k : Coll) : (s.raggedData k).excView = s.excView := by
  unfold State.raggedData
  split
  · rfl
  dsimp only
  split
  · refine (foldl_keeps State.excView (fun st r => ?_) _ _).trans ?_
    · split
      · rfl
      · exact State.collSend_excView ..
    · split
      · exact State.ctxStore_excView ..
      · rfl
  · rfl

@[simp] theorem State.raggedEnd_excView (s : State) (k : Coll) : (s.raggedEnd k).excView = s.excView := by
  unfold State.raggedEnd
  split
  · rfl
  dsimp only
  split
  · split
    · rfl
    rw [State.collDone_excView]
    split
    · rw [State.ctxStore_excView, State.writeDst_excView]
    · rw [State.ev_excView, State.ctxStore_excView, State.writeDst_excView]
  · rfl

@[simp] theorem State.permuteSend_excView (s : State) (k : Coll) : (s.permuteSend k).excView = s.excView := by
  refine foldl_keeps State.excView (fun st i => ?_) _ s
  dsimp only
  generalize hrd : st.readRange _ _ _ _ _ = rd
  have hr : rd.s.excView = st.excView := hrd ▸ State.readRange_excView ..
  have hg (x : Option Coll) (f : Coll → Coll) :
      (match x with
        | some k1 => rd.s.setColl (f k1)
        | none => rd.s).excView = st.excView := by
    cases x <;> exact hr
  split
  · exact (State.writeDst_excView ..).trans (hg _ _)
  · exact (State.collSend_excView ..).trans (hg _ _)

@[simp] theorem State.stepPermute_excView (s : State) (k : Coll) : (s.stepPermute k).excView = s.excView := by
  unfold State.stepPermute
  dsimp only
  generalize hx : (if k.sent = true then s else _) = s1
  have hs : s1.excView = s.excView := by
    subst hx
    split
    · rfl
    · exact State.permuteSend_excView ..
  split
  · split
    · exact (State.collDone_excView ..).trans hs
    · exact hs
  · exact hs

@[simp] theorem State.stepColl_excView (s : State) (k : Coll) : (s.stepColl k).excView = s.excView := by
  have hr (y : Coll) : (s.stepRagged y).excView = s.excView := by
    unfold State.stepRagged
    rw [State.raggedEnd_excView, State.raggedData_excView, State.raggedReplies_excView]
  unfold State.stepColl
  split
  · rfl
  split
  · rfl
  split
  · exact State.stepGather_excView ..
  · exact hr _
  · exact hr _
  · exact State.stepPermute_excView ..
  · exact State.stepReduce_excView ..
@[simp] theorem State.afterAccs_excView (s b : State) : (s.afterAccs b).excView = s.excView := by
  unfold State.afterAccs
  split
  · rw [foldl_keeps State.excView State.stepNode_excView, foldl_keeps State.excView State.stepColl_excView]
  · rfl

@[simp] theorem State.runColl_excView (s : State) (k : Coll) : (s.runColl k).excView = s.excView := by
  rw [State.runColl, State.afterAccs_excView, State.stepColl_excView]

@[simp] theorem State.collGrant_excView (s : State) (k : Coll) (x : Nat × Nat) (bad : Bool) :
    (s.collGrant k x bad).excView = s.excView := State.runColl_excView ..

@[simp] theorem State.collTake_excView (s : State) (k : Coll) (f : Frame) (from_ : Nat) (down : Bool) :
    (s.collTake k f from_ down).excView = s.excView := by
  unfold State.collTake
  dsimp only
  rw [State.runColl_excView]
  split
  · refine (foldl_keeps State.excView (fun st c => st.collSend_excView ..) _ _).trans ?_
    rw [State.writeDst_excView, State.setColl_excView]
  · refine (foldl_keeps State.excView (fun st c => st.collSend_excView ..) _ _).trans ?_
    rw [State.writeDst_excView, State.setColl_excView]
  · rw [State.writeDst_excView, State.setColl_excView]
  · rfl

/-! ### Streams (09_causeway_collectives R288) -/

theorem State.pumpStream_excView (flow n : Nat) (s : State) : (State.pumpStream flow n s).excView = s.excView := by
  induction n generalizing s with
  | zero => rfl
  | succ n ih =>
    unfold State.pumpStream
    split
    · rfl
    split
    · rfl
    · rw [ih, State.sendBytes_excView, State.excView_mk, State.readRange_excView]

@[simp] theorem State.endStream_excView (s : State) (flow : Nat) : (s.endStream flow).excView = s.excView := by
  unfold State.endStream
  split
  · rfl
  split
  · rw [State.endPost_excView, State.excView_mk]
  · rfl

@[simp] theorem State.streamFreed_excView (s : State) (flow freed taken : Nat) (bad : Bool) :
    (s.streamFreed flow freed taken bad).excView = s.excView := by
  unfold State.streamFreed
  split
  · rfl
  split
  · rfl
  · rw [State.endStream_excView, State.pumpStream_excView, State.excView_mk]

@[simp] theorem State.streamBytes_excView (s : State) (flow : Nat) (bs : Bytes) (bad : Bool) :
    (s.streamBytes flow bs bad).excView = s.excView := by
  unfold State.streamBytes
  split
  · rfl
  split
  · rfl
  · dsimp only
    simp [apply_ite State.excView]

/-! ### Entries of units of action (08_optimizer_milestones R231 to R233, R252) -/

@[simp] theorem State.uoaLog_excView (s : State) (t cause tid fidx : Nat) :
    (s.uoaLog t cause tid fidx).excView = s.excView := by
  unfold State.uoaLog
  dsimp only
  split
  · rfl
  · exact s.setUoa_excView ..

@[simp] theorem State.holdSuspect_excView (s : State) (t k : Nat) : (s.holdSuspect t k).excView = s.excView := by
  unfold State.holdSuspect
  rw [State.raise_excView, State.uoaLog_excView]
  refine (State.setTile_excView ?_ ?_).trans (s.setRb_excView ..)
  · rfl
  · rfl

@[simp] theorem State.settleEntry_excView (s : State) (t k : Nat) : (s.settleEntry t k).excView = s.excView := by
  unfold State.settleEntry
  dsimp only
  split
  · exact s.formChats_excView _
  · simp [apply_ite State.excView]

/-! ### Frames delivered (09_causeway_collectives R263, R268, R272, R276, R291; 11_memory_tiers R345) -/

@[simp] theorem State.checkE2e_excView (s : State) (l : List Nat) (p : Nat) (f : Frame) :
    (s.checkE2e l p f).excView = s.excView := by
  unfold State.checkE2e
  split
  · rfl
  · rw [State.fabLog_excView, State.ev_excView]

@[simp] theorem State.staleFrame_excView (s : State) (l : List Nat) (p : Nat) (f : Frame) :
    (s.staleFrame l p f).excView = s.excView := by
  rw [State.staleFrame, State.freeFrame_excView, State.ev_excView]

@[simp] theorem State.collFrame_excView (s : State) (c p : Nat) (f : Frame) :
    (s.collFrame c p f).excView = s.excView := by
  unfold State.collFrame
  split
  · simp [apply_ite State.excView]
  · rw [State.freeFrame_excView]
    split <;> simp

@[simp] theorem State.takeCopy_excView (s : State) (c tid fidx : Nat) (data : Bytes) :
    (s.takeCopy c tid fidx data).excView = s.excView := by
  unfold State.takeCopy
  split
  · rfl
  split
  · rfl
  · refine (foldl_keeps State.excView (fun st t => foldl_keeps State.excView (fun st2 k => ?_) _ st) _ _).trans ?_
    · dsimp only
      split
      · exact st2.settleEntry_excView t k
      · rfl
    · rw [State.setCtx_excView, State.ctxWrite_excView, State.ctxWrite_excView]

@[simp] theorem State.streamFrame_excView (s : State) (c p : Nat) (f : Frame) :
    (s.streamFrame c p f).excView = s.excView := by
  unfold State.streamFrame
  dsimp only
  split
  · split <;> simp
  · simp

@[simp] theorem State.ringFrame_excView (s : State) (c p : Nat) (f : Frame) (flow freed taken : Nat) :
    (s.ringFrame c p f flow freed taken).excView = s.excView := by
  unfold State.ringFrame
  split
  · split <;> simp
  · simp

@[simp] theorem State.grantFrame_excView (s : State) (c p : Nat) (f : Frame) (key : List Nat) :
    (s.grantFrame c p f key).excView = s.excView := by
  rw [State.grantFrame, State.freeFrame_excView, State.nodeGrant_excView, State.checkE2e_excView]

@[simp] theorem State.dataFrame_excView (s : State) (c p : Nat) (f : Frame) :
    (s.dataFrame c p f).excView = s.excView := by
  unfold State.dataFrame
  split
  · simp
  · simp
  · simp
  · split <;> simp
  · split <;> simp

@[simp] theorem State.fragFrameIn_excView (s : State) (c p : Nat) (f : Frame) :
    (s.fragFrameIn c p f).excView = s.excView := by
  unfold State.fragFrameIn
  dsimp only
  split <;> simp

@[simp] theorem State.agreeDone_excView (s : State) (c : Nat) (g : Group) : (s.agreeDone c g).excView = s.excView := by
  refine (foldl_keeps State.excView (fun st r => foldl_keeps State.excView (fun st2 k => ?_) _ st) _ _).trans ?_
  · dsimp only
    split <;> simp
  · exact s.setCtx_excView ..

@[simp] theorem State.tryAgree_excView (s : State) (c : Nat) : (s.tryAgree c).excView = s.excView := by
  unfold State.tryAgree
  split
  · rfl
  split
  · rfl
  · refine foldl_keeps State.excView (fun st r => ?_) _ s
    dsimp only
    split
    · rfl
    split
    · rw [State.agreeDone_excView, State.setCtx_excView]
    · split <;> simp

@[simp] theorem State.agreeFrame_excView (s : State) (c p : Nat) (f : Frame) :
    (s.agreeFrame c p f).excView = s.excView := by
  unfold State.agreeFrame
  dsimp only
  split
  · simp [apply_ite State.excView]
  · simp

@[simp] theorem State.respond_excView (s : State) (f : Frame) (tag : Nat) (ok : Bool) (data : Bytes) :
    (s.respond f tag ok data).excView = s.excView := s.sendFrame_excView _

@[simp] theorem State.queueArrived_excView (s : State) (c q : Nat) : (s.queueArrived c q).excView = s.excView := by
  unfold State.queueArrived
  split <;> rfl

@[simp] theorem State.queueCredit_excView (s : State) (k : Nat) : (s.queueCredit k).excView = s.excView := by
  unfold State.queueCredit
  dsimp only
  split <;> rfl

@[simp] theorem State.serve_excView (s : State) (f : Frame) (tag : Nat) (write : Bool) (addr total off len : Nat)
    (queue : Option (Nat × Bool)) : (s.serve f tag write addr total off len queue).excView = s.excView := by
  have hread (a : Nat) : (if write = true then (⟨s.dataWrite (a + off) f.payload, [], false⟩ : Rd)
      else s.hbmRead (a + off) len).s.excView = s.excView := by
    split
    · exact s.dataWrite_excView ..
    · exact s.hbmRead_excView ..
  unfold State.serve
  dsimp only
  split
  · exact s.respond_excView ..
  · cases write <;> split <;> simp

@[simp] theorem State.reqFrame_excView (s : State) (c p : Nat) (f : Frame) :
    (s.reqFrame c p f).excView = s.excView := by
  unfold State.reqFrame
  dsimp only
  split <;> simp

@[simp] theorem State.respFrame_excView (s : State) (c p : Nat) (f : Frame) :
    (s.respFrame c p f).excView = s.excView := by
  unfold State.respFrame
  dsimp only
  split
  · simp
  · split <;> simp
  · simp

@[simp] theorem State.deliverNow_excView (s : State) (c p : Nat) (f : Frame) :
    (s.deliverNow c p f).excView = s.excView := by
  unfold State.deliverNow
  rw [State.afterAccs_excView]
  split <;> simp

@[simp] theorem State.deliver_excView (s : State) (p : Nat) (f : Frame) : (s.deliver p f).excView = s.excView := by
  unfold State.deliver
  split
  · split <;> simp
  · simp [apply_ite State.excView]

@[simp] theorem State.retryHeld_excView (s : State) : s.retryHeld.excView = s.excView := by
  unfold State.retryHeld
  refine (foldl_keeps State.excView (fun st h => ?_) _ _).trans (State.excView_mk ..)
  exact st.deliver_excView h.1 h.2

/-! ### The start of a context (12_contexts_scheduling R374, R375; 14_host_port R441) -/

theorem State.loadTile_excView (s : State) (c t : Nat) : (s.loadTile c t).excView = s.excView := by
  unfold State.loadTile
  dsimp only
  have hempty (x : Tile) (hlog : x.excLog = (s.tile t).excLog) (hen : x.en = (s.tile t).en) :
      (s.setTile t x).excView = s.excView := State.setTile_excView hlog hen
  split
  · exact hempty _ rfl rfl
  · refine (foldl_keeps State.excView (fun st r => ?_) _ _).trans (hempty _ rfl rfl)
    split
    next rd hrd => rw [State.storeWrite_excView, State.ctxRead_excView hrd]
    · rfl

theorem State.ringHeld_excView (s : State) (c : Nat) : (s.ringHeld c).excView = s.excView := by
  rw [State.ringHeld, State.testWatches_excView]
  exact (foldl_keeps State.excView (fun st d => st.applySig_excView (le_refl 4)) _ _).trans (s.setCtx_excView ..)

theorem State.settleEnding_excView (s : State) (c : Nat) : (s.settleEnding c).excView = s.excView := by
  unfold State.settleEnding
  dsimp only
  split
  · rw [State.answerLater_excView, State.setCtx_excView, State.excView_mk]
  · rfl

/-- A context that starts changes neither the exception log of a tile nor its enable. -/
theorem State.startContext_excView (s : State) (c : Nat) : (s.startContext c).excView = s.excView := by
  unfold State.startContext
  dsimp only
  split
  · rfl
  · rw [State.retryHeld_excView, State.settleEnding_excView]
    split
    · rw [State.ringHeld_excView]
      exact (foldl_keeps State.excView (fun st t => st.loadTile_excView c t) _ _).trans (s.setCtx_excView ..)
    · exact s.setCtx_excView ..

end Sys2Proof.Machine
end

section
/-! The exception log holds the first exception, and its register shows it (O8). -/

namespace Sys2Proof.Machine

/-! ### Accesses to a tile's blocks (16_power_clocks R474; 19_register_map R533) -/

theorem State.tile_of_excView {s : State} {t : Nat} {log : W64} {en : Enable} (h : s.excView t = (log, en)) :
    (s.tile t).excLog = log ∧ (s.tile t).en = en := ⟨congrArg (·.1) h, congrArg (·.2) h⟩

/-- A tile that is awake, or is woken, keeps every exception log and every enable. -/
theorem State.wakeTile_excView (s : State) (t : Nat) : (s.wakeTile t).excView = s.excView := by
  unfold State.wakeTile State.draw
  dsimp only
  split
  · rfl
  · simp only [State.evTile_excView, State.excView_mk]
    exact State.setTile_excView rfl rfl

/-- The logs and the enables of a tile whose start is waited for: its start has ended. -/
theorem State.awaitStart_tile (s : State) (t : Nat) :
    ((s.awaitStart t).tile t).excLog = (s.tile t).excLog ∧ ((s.awaitStart t).tile t).en = (s.tile t).en.started := by
  by_cases hst : (s.tile t).en.st = .starting
  · have hview : (s.awaitStart t).excView = (s.tileStarted t).excView := by
      rw [State.awaitStart_of_starting hst]
      exact foldl_keeps State.excView State.startContext_excView _ _
    have hself : (s.tileStarted t).excView t = ((s.tile t).excLog, (s.tile t).en.started) := by
      rw [State.excView, State.tileStarted, State.tile_setTile_self]
    exact State.tile_of_excView ((congrFun hview t).trans hself)
  · have hen : (s.tile t).en.started = (s.tile t).en := by
      unfold Enable.started
      split
      next h => exact absurd h hst
      · rfl
    rw [State.awaitStart_of_ne_starting hst, hen]
    exact ⟨rfl, rfl⟩

theorem State.tileAccess_tile (s : State) (t : Nat) :
    ((s.tileAccess t).tile t).excLog = (s.tile t).excLog ∧ ((s.tileAccess t).tile t).en = (s.tile t).en.started := by
  obtain ⟨hlog, hen⟩ := State.tile_of_excView (congrFun ((s.awaitStart t).wakeTile_excView t) t)
  obtain ⟨hlog', hen'⟩ := s.awaitStart_tile t
  exact ⟨hlog.trans hlog', hen.trans hen'⟩

/-- The end of a start leaves a function that is not OFF not OFF. -/
theorem Enable.started_st_ne_off {e : Enable} (h : e.st ≠ .off) : e.started.st ≠ .off := by
  unfold Enable.started
  split
  · dsimp only
    split <;> exact nofun
  · exact h

/-- A tile that answers still answers when it is accessed. -/
theorem State.tileAccess_answers {s : State} {t : Nat} (h : (s.tile t).answers = true) :
    ((s.tileAccess t).tile t).answers = true := by
  rw [Tile.answers, (s.tileAccess_tile t).2]
  simpa using Enable.started_st_ne_off (by simpa [Tile.answers] using h)

/-! ### The register (05_instruction_set R157, Table 5.18) -/

/-- TILE_EXC_LOG of tile `t`. -/
def excLogReg (t : Nat) : Reg := { name := .tileExcLog, unit := t, idx := 0, bytes := 8, ofTile := true }

theorem State.regOf_excLog (s : State) {t : Nat} (ht : t < 256) :
    s.regOf (0x01000000 + 0x4000 * t + 0x0148) = some (excLogReg t, 0) := by
  have hrow : regIn tileRegs 0x148 = some (.tileExcLog, 0, 0, 8) := by decide
  have hat : regAt (0x01000000 + 0x4000 * t + 0x0148) = some (excLogReg t, 0) := by
    rw [regAt, if_pos (by omega), show (0x01000000 + 0x4000 * t + 0x0148) % 0x4000 = 0x148 by omega, hrow,
      show (0x01000000 + 0x4000 * t + 0x0148 - 0x01000000) / 0x4000 = t by omega]
    rfl
  rw [State.regOf, hat]
  rfl

/-- TILE_EXC_LOG of a tile that answers reads as the tile's exception log. -/
theorem State.readPart_excLog {s : State} {t : Nat} (h : (s.tile t).answers = true) :
    (s.readPart (excLogReg t) 0 64).1 = (s.tile t).excLog.toNat := by
  have hval : ((s.tileAccess t).regVal (excLogReg t)) = ((s.tileAccess t).tile t).excLog.toNat :=
    if_pos (State.tileAccess_answers h)
  calc (s.readPart (excLogReg t) 0 64).1 = fld ((s.tileAccess t).regVal (excLogReg t)) 0 64 := rfl
    _ = fld (s.tile t).excLog.toNat 0 64 := by rw [hval, (s.tileAccess_tile t).1]
    _ = (s.tile t).excLog.toNat := by
      have hlt := (s.tile t).excLog.isLt
      unfold fld
      omega

/-! ### What an exception leaves in the log (05_instruction_set R157, Table 5.18) -/

theorem excLogAfter_of_valid {x : W64} (h : x.getLsbD 63 = true) (q code cls op seq : Nat) :
    excLogAfter x q code cls op seq = x := by
  rw [excLogAfter, bit_eq_testBit, BitVec.testBit_toNat, if_pos h]

theorem excLogAfter_of_not_valid {x : W64} (h : x.getLsbD 63 = false) {q code cls op : Nat} (seq : Nat) (hq : q < 4)
    (hcode : code < 16) (hcls : cls < 16) (hop : op < 64) :
    (excLogAfter x q code cls op seq).toNat =
      2 ^ 63 + q * 2 ^ 61 + code * 2 ^ 57 + cls * 2 ^ 53 + op * 2 ^ 47 + seq % 2 ^ 32 := by
  rw [excLogAfter, bit_eq_testBit, BitVec.testBit_toNat, h, if_neg Bool.false_ne_true, BitVec.toNat_ofNat]
  omega

/-- An exception writes its fields into a log that is not valid, and makes it valid. -/
theorem excLogAfter_fields {x : W64} (h : x.getLsbD 63 = false) {q code cls op : Nat} (seq : Nat) (hq : q < 4)
    (hcode : code < 16) (hcls : cls < 16) (hop : op < 64) :
    let log := excLogAfter x q code cls op seq
    log.getLsbD 63 = true ∧ fld log.toNat 61 2 = q ∧ fld log.toNat 57 4 = code ∧ fld log.toNat 53 4 = cls ∧
      fld log.toNat 47 6 = op ∧ fld log.toNat 32 15 = 0 ∧ fld log.toNat 0 32 = seq % 2 ^ 32 := by
  intro log
  have hval : log.toNat = _ := excLogAfter_of_not_valid h seq hq hcode hcls hop
  have hvalid : log.getLsbD 63 = true := by
    rw [← BitVec.testBit_toNat, Nat.testBit_eq_decide_div_mod_eq, hval, decide_eq_true_eq]
    omega
  unfold fld
  rw [hval]
  refine ⟨hvalid, ?_, ?_, ?_, ?_, ?_, ?_⟩ <;> omega

/-- Settles O8: what an exception leaves in the log is a function of what the log held, and an access to the register
first starts and wakes its tile, by which no tile's log changes. -/
theorem exceptionLogHoldsFirst : Obligations.ExceptionLogHoldsFirst := by
  intro s c v t q code cls op seq step ht hq hcode hcls hop log
  have hlog : log = excLogAfter (s.tile t).excLog q code cls op seq := s.logExc_excLog ..
  refine ⟨fun hvalid => ?_, fun hnew => ?_, ?_, fun hans => ?_⟩
  case refine_1 => rw [hlog, excLogAfter_of_valid hvalid]
  case refine_2 =>
    rw [hlog]
    exact excLogAfter_fields hnew seq hq hcode hcls hop
  case refine_3 => exact ⟨excLogReg t, s.regOf_excLog ht, rfl, rfl, rfl⟩
  case refine_4 =>
    rw [State.cfgRead_one (State.accParts_wide 8 (s.regOf_excLog ht) rfl) rfl]
    exact State.readPart_excLog hans

end Sys2Proof.Machine
end
